-- ==== Sys2Proof/Word.lean ====
section
/-! DEFINITION. The widths of the part's words (01 R12, R14; 04 R64, R65, R68; 02 R25, R35). -/

namespace Sys2Proof

/-- One byte of memory or of a record. -/
abbrev Byte := BitVec 8
/-- One g register (R64), one management register word (R14). -/
abbrev Word := BitVec 32
/-- One s register (R65), one instruction word (R68), one device address, one TSC value (R25). -/
abbrev DWord := BitVec 64
/-- The payload of an event record (R35). -/
abbrev Data128 := BitVec 128
/-- The 64 bytes of one memory line (R215), byte 0 in the low bits. -/
abbrev Line := BitVec 512

end Sys2Proof
end

