-- ==== Sys2Proof/Syntax.lean ====
section
/-! DEFINITION. The commands: one constructor of `Instr` for each row of spec/opcode_table.json, in the
table's order. The table gives the rows no operands and no bits; each constructor carries what the row's
rule leaves to the sender (which unit, which words, which reading, which verdict of a check that the
model cannot compute). What the state already holds is not an operand. -/

namespace Sys2Proof

/-- The access path of a management access (R19): a management session, or privileged software on a
logical core. -/
inductive Path where
  | session (n : Nat)
  | priv (core : Nat)
  deriving DecidableEq, Repr

/-- What line protection finds when a home reads a line of a stack or a module (R265, R266, R277), or a
command parity error (R260). -/
inductive Ecc where
  | clean
  | corrected
  | uncorrectable
  /-- The command met `n` parity errors: with `n` up to 3 a retry was accepted, with more three retries in succession
  failed, which starts a retrain (R260, R270). -/
  | retried (n : Nat)
  deriving DecidableEq, Repr

/-- What line protection finds on the lines that a command's engine or hub reads or rewrites, by line address; a line not
listed is clean. -/
abbrev Verdicts := List (DWord × Ecc)

/-- A number that a command names (a core, a partition, a slot, an entry, a length) with what line protection finds on the
lines that the command reads. -/
structure Reads where
  n : Nat
  v : Verdicts
  deriving DecidableEq, Repr

/-- Bytes that a command writes, with what line protection finds on the lines that they change in part. -/
structure Payload where
  bytes : List Byte
  v : Verdicts
  deriving DecidableEq, Repr

/-- An entry of a core's network interface whose answer has arrived, and whether the shadow entry that the core's
translation reads has good parity (R282). -/
structure Answer where
  entry : Nat
  parityOk : Bool
  deriving DecidableEq, Repr

/-- A step of a DMA descriptor: its number, what line protection finds on the lines read, and the parity of the shadow entry
(R282). -/
structure DmaStep where
  d : Nat
  v : Verdicts
  parityOk : Bool
  deriving DecidableEq, Repr

/-- A hop of a path between two nodes of the package, and whether its CRC is good (R281). -/
structure HopIn where
  hop : Nat
  crcOk : Bool
  deriving DecidableEq, Repr

/-- Failed wires that a bridge's retrain finds in each direction (R413). -/
structure FailedWires where
  fwd : Nat
  back : Nat
  deriving DecidableEq, Repr

/-- What DETECT finds beside the module: signal on every lane, and that the seal and CRC of the link's saved-settings record
are good (R294, R394). -/
structure DetectIn where
  signal : Bool
  sealOk : Bool
  deriving DecidableEq, Repr

/-- A queue pair that a session asks for: its die identity, its port and its path MTU in bytes (R359, R360). -/
structure QpIn where
  die : Nat
  port : Nat
  mtu : Nat
  deriving DecidableEq, Repr

/-- The issue of one instruction by a group of a core: the logical core, the group slot and the words
that the fetch delivered (`w1` is read only by an ext form, R69). The issuing path is the one that R51
and R52 choose, so it is no operand. -/
structure Issue where
  core : Nat
  grp : Nat
  w0 : DWord
  w1 : DWord
  /-- What line protection finds where the fetch reads its line from memory (R265, R266). -/
  ecc : Ecc
  deriving DecidableEq, Repr

/-- Where a request at a home comes from. -/
inductive ReqSrc where
  /-- An entry of the NI of a logical core (R283). -/
  | ni (core entry : Nat)
  /-- A message that a frame from another package delivered (R290, R307 step 4), by its place. -/
  | inbox (i : Nat)
  deriving DecidableEq, Repr

/-- Which staged line of a committed record the NI writes next (R243): the core, the block slot and the
line's target address. -/
structure ApplyLine where
  core : Nat
  slot : Nat
  line : DWord
  deriving DecidableEq, Repr

/-- The line of a commit whose acknowledgement has arrived, and the parity of the shadow entry (R243, R282). -/
structure AckIn where
  l : ApplyLine
  parityOk : Bool
  deriving DecidableEq, Repr

/-- The source of a line write: the apply of a commit, or a message from another package. -/
inductive WriteSrc where
  | apply (l : ApplyLine)
  | inbox (i : Nat)
  deriving DecidableEq, Repr

/-- A barrier watchdog of a core (R57, R89). -/
inductive WdKey where
  | barG (grp id : Nat)
  | barB (slot id : Nat)
  | wbeat (grp : Nat) (pc target : DWord)
  deriving DecidableEq, Repr

/-- A channel with a leaky-bucket counter (R410). -/
inductive Channel where
  | lane (link lane : Nat)
  | pseudo (stack pc : Nat)
  | lpx (module ch : Nat)
  | phys (die idx : Nat)
  | reservation (part die : Nat)
  deriving DecidableEq, Repr

/-- A message of a fabric body (R290). -/
structure Msg where
  mtype : Nat
  aop : Nat
  size : Nat
  srcUnit : Nat
  tag : Nat
  status : Nat
  jthread : Nat
  jslot : Nat
  addr : DWord
  mask : DWord
  data : Line
  deriving DecidableEq, Repr

/-- The body of an exchange frame (R322). -/
structure ExchBody where
  step : Word
  frame : Nat
  entry : Nat
  kind : Nat
  last : Bool
  start : Word
  value : DWord
  payload : List Word
  deriving DecidableEq, Repr

/-- The body of a frame by its TYPE (R288, R290, R322). -/
inductive FrameBody where
  | idle
  | fabric (msgs : List Msg)
  | exch (b : ExchBody)
  | notice (reason : Nat)
  deriving DecidableEq, Repr

/-- A frame as it arrives on a link: the lanes whose bytes no longer match their CRC (`badLanes`, R287), the hop header
(R288), the route header (R289), the link key under which its source sealed the body (none for a cleartext body), whether
the sealed bytes arrive unaltered (R306, R307 step 2) and the body. -/
structure Frame where
  badLanes : List Nat
  seq : BitVec 12
  ack : BitVec 12
  nak : Bool
  tsync : Bool
  vc : Nat
  dist : Nat
  credits : List Nat
  time : DWord
  dstPkg : Nat
  srcPkg : Nat
  dstPart : Nat
  srcPart : Nat
  origin : Nat
  counter : DWord
  key : Option (BitVec 256)
  tagOk : Bool
  body : FrameBody
  /-- The tick of the beat at which the frame's first byte arrives (R304). -/
  tick : Nat
  deriving DecidableEq, Repr

/-- Energy of the beat that belongs to a grant, µJ: core activity with leakage, and memory, fabric and links
(R443, R445). -/
structure GrantEnergy where
  part : Nat
  uid : Nat
  core : Nat
  mem : Nat
  deriving DecidableEq, Repr

/-- The other energy of the beat that belongs to a partition, µJ (R443). -/
structure PartEnergy where
  part : Nat
  idle : Nat
  exch : Nat
  host : Nat
  deriving DecidableEq, Repr

/-- The energy of a beat, µJ: by the buckets of R443, and by die (`NRG_DIE`, `NRG_DIE_MEM`) and logical core. -/
structure EnergyIn where
  grants : List GrantEnergy
  parts : List PartEnergy
  uncore : Nat
  dies : List (Nat × Nat × Nat)
  cores : List (Nat × Nat)
  deriving DecidableEq, Repr

/-- What a boundary takes from outside the rules: the power figures of the beat just ended, in W and mW
(R433, R434, R441), its energy (R443), and whether the cinch decision was late (R31). -/
structure BoundaryIn where
  est : Nat
  floor : Nat
  /-- Power saved by gating one more core, mW (R434). -/
  saving : Nat
  /-- The estimate projected to a clock 50 MHz higher (R441). -/
  estUp : Nat
  /-- The power that one lowering of the clock by 50 MHz saves, W (R441). -/
  downStep : Nat
  cinchLate : Bool
  /-- Core estimate of each partition in the beat just ended, mW (R436). -/
  coreEst : List (Nat × Nat)
  energy : EnergyIn
  /-- Partitions whose stepping of the command table was late (R31). -/
  cmdtLate : List Nat
  deriving DecidableEq, Repr

/-- An application that a module advertises, by what R310 and R355 look for. -/
inductive HostApp where
  /-- A 4-lane host interface at 212.5 Gb/s PAM4 that passes the frames of R286 unchanged. -/
  | tatting
  | gaui400C2m
  | cr4
  /-- 25GAUI with one host lane. -/
  | gaui25
  | other
  deriving DecidableEq, Repr

/-- The further fields that the part reads from a module's pages (R309). -/
structure CmisRest where
  moduleState : Nat
  flags : Nat
  volt : Nat
  vendor : BitVec 128
  oui : BitVec 24
  revision : BitVec 16
  date : DWord
  media : Byte
  powerClass : Nat
  /-- Page 01h: controls supported. -/
  controls : Nat
  /-- Page 02h: monitor thresholds. -/
  thresholds : List Nat
  /-- Page 11h: data-path state by lane, and the loss-of-signal and loss-of-lock flags of each direction. -/
  dataPath : List Nat
  los : Nat
  lol : Nat
  deriving DecidableEq, Repr

/-- A cage module as its CMIS pages show it (R309, R310, R355). -/
structure ModuleIn where
  ident : Nat
  /-- CMIS revision, major then minor in tenths: 50 is revision 5.0. -/
  rev : Nat
  /-- Maximum power in units of 0.1 W (R458). -/
  power : Nat
  /-- Page 01h: the applications advertised, in the module's order. -/
  apps : List HostApp
  serial : BitVec 128
  /-- Vendor part number and cable length, which R394 compares. -/
  partCable : Nat
  temp : Int
  rest : CmisRest
  deriving DecidableEq, Repr

/-- The readings of one management round (R424). -/
structure RoundIn where
  /-- Stack temperatures, °C, of the stacks that answered. -/
  stackTemp : List (Nat × Nat)
  /-- Module temperatures and whether the SPD hub's high limit is exceeded. -/
  lpxTemp : List (Nat × Nat × Bool)
  /-- Cages whose module was read in this round: cage number and module. -/
  cages : List (Nat × ModuleIn)
  /-- Cage buses (hub, bus) that did not acknowledge (R459). -/
  busFail : List (Nat × Nat)
  hottest : Nat
  /-- Measured package power, W, and estimated and measured energy of the last 64 beats (R433). -/
  boardW : Nat
  estEnergy : Nat
  measEnergy : Nat
  /-- Telemetry targets (rail numbers of R451) that did not answer (R455). -/
  telFail : List Nat
  /-- Cantle cores (hub, core) whose check failed, and hubs whose shared check failed (R414). -/
  cantleFail : List (Nat × Nat)
  hubFail : List Nat
  /-- Data (in the order of R417's table) whose copies differ with equal generations, each with the kind of the board record
  where it is one (R393). -/
  diverged : List (Nat × Nat)
  /-- The core-map masters are found to differ (R418). -/
  mapDiverged : Bool
  deriving DecidableEq, Repr

/-- The fuse block (R390). -/
structure FuseCopy where
  serial : DWord
  dieSerials : List DWord
  mac : BitVec 48
  /-- Factory bad-unit map: (die, physical core). -/
  bad : List (Nat × Nat)
  /-- Field retirement area: 24-bit entries (R416). -/
  field : List (BitVec 24)
  keyHash : BitVec 384
  fwmin : Word
  claimSalt : BitVec 256
  claimCount : Word
  secret : BitVec 256
  deriving DecidableEq, Repr

/-- One hub's copy of the fuse block as it is read: the fields whose check bits hold (R390). -/
structure FuseIn where
  serials : Option (DWord × List DWord)
  mac : Option (BitVec 48)
  bad : Option (List (Nat × Nat))
  field : Option (List (BitVec 24))
  keyHash : Option (BitVec 384)
  fwmin : Option Word
  claim : Option (BitVec 256 × Word)
  secret : Option (BitVec 256)
  deriving DecidableEq, Repr

/-- A firmware image as it is verified (R391): its header fields and the verdicts of the checks. -/
structure ImageIn where
  magic : Word
  fwver : Word
  minver : Word
  keyHash : BitVec 384
  sigOk : Bool
  sectionsOk : Bool
  hash : BitVec 384
  /-- The core-code section matches its hash (R397). -/
  coreOk : Bool
  deriving DecidableEq, Repr

/-- An authentication credential: a public key, or a password record (R362). -/
inductive Cred where
  | key (pub : BitVec 776)
  | password (salt : BitVec 256) (count : Nat) (kpw : BitVec 384)
  deriving DecidableEq, Repr

/-- The scope of a session (R363, R364). -/
inductive Scope where
  | package
  | partition (p : Nat)
  deriving DecidableEq, Repr

/-- A HELLO (R363): well-formedness verdict for what the model does not carry, version, scope code
(0xF package, 0 to 7 a partition, others reserved), method code (0 KEY, 1 PASSWORD, others reserved). -/
structure Hello where
  malformed : Bool
  version : Nat
  scope : Nat
  method : Nat
  takeover : Bool
  pub : BitVec 776
  nonce : BitVec 256
  deriving DecidableEq, Repr

/-- A RoCE v2 packet by what R359 distinguishes. -/
inductive Roce where
  /-- WRITE, READ request, their answers, or a CNP, on a reliable connection. -/
  | supported
  /-- SEND, WRITE with immediate, or an atomic. -/
  | unsupported
  /-- UC, UD or XRC. -/
  | otherTransport
  deriving DecidableEq, Repr

/-- What an ESP packet carries (R357): a session message; a RoCE v2 packet for a QP, with its ECN mark; or anything else. -/
inductive Inner where
  | message
  | roce (qpn : Nat) (ce : Bool) (op : Roce)
  | other
  deriving DecidableEq, Repr

/-- An Ethernet frame by what R354 and R356 to R358 distinguish. -/
inductive EthKind where
  | arp | neighbour | echo
  | handshake
  /-- An ESP packet: its SPI, its extended sequence number, whether its ICV checks, and what it carries. -/
  | esp (spi : Nat) (seq : DWord) (icvOk : Bool) (inner : Inner)
  | cleartextRoce | cleartextSession
  /-- Priority flow control (IEEE 802.1Qbb) for a priority. -/
  | pfc (prio : Nat)
  | other
  deriving DecidableEq, Repr

/-- Where a frame on an Ethernet port goes: its VLAN id (0 = untagged), its destination MAC address and its IP destination
(the target address of ARP and neighbour discovery; an IPv4 address in IPv4-mapped form). -/
structure EthDst where
  vlan : Nat
  mac : BitVec 48
  ip : BitVec 128
  deriving DecidableEq, Repr

/-- One entry of a PEERS message (R367). -/
structure PeerEntry where
  pkg : Nat
  part : Nat
  hbm : Nat
  lpx : Nat
  deriving DecidableEq, Repr

/-- What the tests of R394 find that board flash does not show: the record's seal and CRC, and the temperature, °C, that the
resource's identity memory reports now; and the settings that a full training finds. -/
structure SavedIn where
  sealOk : Bool
  temp : Int
  settings : List Nat
  deriving DecidableEq, Repr

/-- What the SPD of an LPDDR module shows (R275). -/
structure SpdIn where
  present : Bool
  crcOk : Bool
  keyOk : Bool
  typeOk : Bool
  width : Nat
  gb : Nat
  /-- Supported grades, coded 0 = 7,500, 1 = 8,533, 2 = 9,600 MT/s. -/
  grades : List Nat
  serial : Word
  mfr : Nat
  deriving DecidableEq, Repr

/-- A unit whose known-answer runs finish (R398, R399). -/
inductive KatUnit where
  | core (die phys : Nat)
  | way (die : Nat) (way : Nat)
  | die (die : Nat)
  | hub (hub bit : Nat)
  /-- Every run has finished. -/
  | done
  deriving DecidableEq, Repr

/-- The commands (spec/opcode_table.json). Each constructor's comment names its row's rule. -/
inductive Instr where
  -- time, counters, log, management registers
  | beatBoundary (b : BoundaryIn)                                     -- R30
  | ovfClear (path : Path) (addr : Nat)                               -- R34: addr of the high word
  | eventRecord (i : Nat)                                             -- R37: place among the records on their way
  | evlogSel (path : Path) (hub : Nat) (val : Word)                   -- R39
  | lowWordRead (path : Path) (addr : Nat)                            -- R19
  | registerWrite (path : Path) (addr : Nat) (val : Word)             -- R20
  | pkgId (path : Path) (val : Word)                                  -- R23
  -- thread groups
  | blockAdmission (part core : Nat)                                  -- R40
  | clusterStart (core slot : Nat)                                    -- R44
  | starvationGuard (core grp : Nat)                                  -- R52
  | barrierTimeout (core : Nat) (wd : WdKey)                          -- R57
  | blockStopRelease (core slot : Nat)                                -- R40
  -- lane instructions
  | laneMov (i : Issue) | laneAdd (i : Issue) | laneSub (i : Issue) | laneMul (i : Issue)
  | laneFma (i : Issue) | laneFms (i : Issue) | laneMin (i : Issue) | laneMax (i : Issue)
  | laneAbs (i : Issue) | laneNeg (i : Issue) | laneCmp (i : Issue) | laneSel (i : Issue)
  | laneCvt (i : Issue) | laneCvtMx (i : Issue) | lanePack (i : Issue) | laneUnpack (i : Issue)
  | laneIadd (i : Issue) | laneIsub (i : Issue) | laneImul (i : Issue) | laneImin (i : Issue)
  | laneImax (i : Issue) | laneIcmp (i : Issue) | laneAnd (i : Issue) | laneOr (i : Issue)
  | laneXor (i : Issue) | laneNot (i : Issue) | laneShl (i : Issue) | laneShr (i : Issue)
  | laneSar (i : Issue) | lanePopc (i : Issue) | laneClz (i : Issue) | laneRcp (i : Issue)
  | laneRsqrt (i : Issue) | laneSqrt (i : Issue) | laneExp2 (i : Issue) | laneLog2 (i : Issue)
  | laneDiv (i : Issue) | laneShfl (i : Issue) | laneVote (i : Issue) | laneRed (i : Issue)
  | laneFlag (i : Issue) | laneRng (i : Issue) | laneCmp24 (i : Issue) | lanePick (i : Issue)
  -- scalar instructions
  | scalarMov (i : Issue) | scalarAdd (i : Issue) | scalarSub (i : Issue) | scalarMul (i : Issue)
  | scalarAnd (i : Issue) | scalarOr (i : Issue) | scalarXor (i : Issue) | scalarShl (i : Issue)
  | scalarShr (i : Issue) | scalarSar (i : Issue) | scalarMin (i : Issue) | scalarMax (i : Issue)
  | scalarUmin (i : Issue) | scalarUmax (i : Issue) | scalarCmp (i : Issue) | scalarFma (i : Issue)
  | scalarCvt (i : Issue) | rdlane (i : Issue) | wrlane (i : Issue)
  -- matrix engine
  | mmaT (i : Issue) | mmaS (i : Issue) | mmaQ (i : Issue) | smma (i : Issue) | mmaDrain (i : Issue)
  | arrayTake (core : Nat)                                            -- R125
  | tileSequencerRead (core : Nat)                                    -- R131
  | drainRead (core : Nat)                                            -- R126
  | drainOutput (core : Nat)                                          -- R148
  -- memory, bobbin and DMA instructions
  | ld (i : Issue) | st (i : Issue) | ldAcq (i : Issue) | stRel (i : Issue) | atom (i : Issue)
  | ldS (i : Issue) | prefetch (i : Issue) | bgather (i : Issue) | bmerge (i : Issue)
  | dmaCp (i : Issue) | dmaFill (i : Issue) | dmaWait (i : Issue) | dmaPoll (i : Issue)
  -- control, synchronisation and system instructions
  | nop (i : Issue) | bra (i : Issue) | jmp (i : Issue) | call (i : Issue) | exit (i : Issue)
  | barG (i : Issue) | barB (i : Issue) | fence (i : Issue)
  | tsc (i : Issue) (tick : Nat) | beat (i : Issue) | wbeat (i : Issue)
  | wbeatRelease (core grp : Nat) (pc : DWord)                        -- R89
  | trap (i : Issue) | rdpc (i : Issue)
  | bobbinExecute (x : Reads)                         -- R169
  | bobbinComplete (core : Nat)                                       -- R174
  -- requests at homes and NIs
  | readRequest (src : ReqSrc) (ecc : Ecc)                            -- R215
  | lineWrite (src : WriteSrc) (ecc : Ecc)                            -- R218
  | atomic (src : ReqSrc) (ecc : Ecc)                                 -- R245
  | readResponse (core entry : Nat) (parityOk : Bool)                 -- R214
  | writeAcknowledgement (x : AckIn)                              -- R243
  | atomicResponse (core : Nat) (x : Answer)                                 -- R284
  | refusal (core : Nat) (x : Answer)                                        -- R205
  | memRetrainDone (stack : Nat) (ok : Bool)                          -- R270
  | dmaTransfer (core : Nat) (x : DmaStep)                         -- R220
  | dmaComplete (core d : Nat)                                        -- R220
  | amapRcInval (path : Path) (core : Nat) (val : Word)               -- R233
  | amapFaultClear (path : Path) (core : Nat) (val : Word)            -- R233
  -- seams and replay
  | ageSeam (core slot : Nat)                                         -- R236
  | seamBegin (core slot : Nat)                                       -- R237
  | seamQuiesced (core slot : Nat)                                    -- R237
  | seamLogged (core slot : Nat)                                      -- R237
  | seamCommitted (core slot : Nat)                                   -- R242
  | seamApplied (core slot : Nat)                                     -- R243
  | clusterCommit (core slot : Nat)                                   -- R247: rank 0's core and slot
  | atomAfterSeam (core slot : Nat)                                   -- R245
  | finalCommit (core slot : Nat)                                     -- R248
  | finalCommitComplete (core slot : Nat)                             -- R248
  | coreHardwareFault (die phys cls : Nat)                            -- R249
  | frontEndStall (core : Nat)                                        -- R412
  | retirementDecision (checkFails : List Bool)                       -- R415: verdicts of R412's checks
  | blockReplay (core : Nat) (x : Reads)                                     -- R250
  | blockMoved (core : Nat) (x : Reads) (host : Nat)                                 -- R252
  | completionRecord (part : Nat)                                     -- R380
  -- memory upkeep
  | patrolScrub (mem : Nat) (ecc : Ecc)                               -- R267
  | remapCopyDone (x : Reads)                                       -- R268
  | stackTrip (stack : Nat)                                           -- R261
  | leakyBucketLeak (ch : Channel)                                    -- R409
  -- fabric and tatting links
  /-- Hop `hop` of a transfer between two nodes: dies 0 to 7, hubs 8 and 9, stacks 10 to 25. -/
  | bridgeTransfer (src dst : Nat) (x : HopIn)                 -- R281
  /-- The wires found failed in each direction. -/
  | bridgeRetrain (bridge : Nat) (x : FailedWires)                             -- R413
  | fabShadowReload (die : Nat)                                       -- R282
  | remoteRequestTimeout (core entry : Nat)                           -- R285
  | frameFlushTimer (die i : Nat)                                     -- R290
  | tlFrame (link : Nat) (f : Frame)                                  -- R292
  | notice (link : Nat) (part dstPkg dstPart reason : Nat)            -- R307
  | tlDetect (link : Nat) (m : Option ModuleIn) (x : DetectIn) -- R294, R394
  | tlEqualiseDone (link : Nat) (settings : List Nat)                                       -- R294
  | tlAlignDone (link : Nat) (errs : List Nat)                        -- R294
  | tlIdentify (link : Nat) (peerPkg peerLink : Nat) (peerLanes : List Nat) (peerDist : Nat) -- R295
  /-- The 16 round trips and the peer's turnarounds, in 1/64 tick. -/
  | tlDelayDone (link : Nat) (trips : List (Nat × Nat))               -- R305
  | tlStateTimeout (link : Nat)                                       -- R294
  | tlRetrainDone (link : Nat) (ok : Bool) (errs : List Nat) (trips : List (Nat × Nat)) -- R294, R305
  | tlCtrlEn (path : Path) (link : Nat) (val : Word)                  -- R294
  | tlCtrlRetrain (path : Path) (link : Nat) (val : Word)             -- R294
  | fabTopo (path : Path) (die : Nat) (val : Word)                    -- R312
  | cageModuleRemoved (cage : Nat)                                    -- R460
  -- gradient exchange and update
  | xplanStart (path : Path) (part : Nat) (val : Word)                -- R314
  | stepBoundary (part : Nat)                                         -- R314
  | xplanArm (path : Path) (part : Nat) (val : Word)                  -- R319
  | xplanArmed (part : Nat)                                           -- R319
  | xplanDisarm (path : Path) (part : Nat) (val : Word)               -- R319
  | exchangeSendBeat (part : Nat) (x : Reads)                               -- R320
  | exchangeDataFrame (part : Nat) (srcPkg : Nat) (b : ExchBody)      -- R323
  | exchangeReduceBeat (part : Nat) (x : Reads) (late : List Nat)           -- R324: dies whose additions are late
  | exchangeRecvBeat (part : Nat) (x : Reads) (late : List Nat)             -- R324
  | checkBeat (part : Nat) (x : Reads)                                      -- R331
  | healthFreeze (part : Nat)                                         -- R334
  | healthUpFrame (part : Nat) (srcPkg : Nat) (b : ExchBody)          -- R333
  | healthDownSend (part entry : Nat)                                 -- R334
  | healthDownFrame (part : Nat) (srcPkg : Nat) (b : ExchBody)        -- R334
  | healthDecision (part : Nat)                                       -- R335
  | updArm (path : Path) (part : Nat) (val : Word)                    -- R345
  | updDisarm (path : Path) (part : Nat) (val : Word)                 -- R350
  | updRevert (path : Path) (part : Nat) (val : Word)                 -- R350
  | revert (part : Nat)                                               -- R351
  | updateLaunch (part : Nat)                                         -- R348
  | updateCommit (part : Nat)                                         -- R349
  -- Ethernet, RDMA and sessions
  | ethLinkChange (port : Nat) (up : Bool) (phy : Nat) (fec : Bool)   -- R354
  | ethFrame (port : Nat) (f : EthDst) (kind : EthKind)                                 -- R357
  | rdmaWrite (qpn : Nat) (rkey : Nat) (addr : DWord) (x : Payload) -- R360
  | rdmaRead (qpn : Nat) (rkey : Nat) (addr : DWord) (x : Reads) -- R360
  | rdmaReadResponse (core entry : Nat) (ok : Bool) (data : Line)     -- R359
  | rdmaAcknowledge (l : ApplyLine) (ok : Bool)                       -- R359
  | rdmaRetryTimeout (l : ApplyLine)                                  -- R359
  | hello (port : Nat) (h : Hello)                                    -- R363
  | proof (hs : Nat) (ok : Bool)                                      -- R364: the proof's verdict
  | handshakeTimeout (hs : Nat)                                       -- R363
  | lockExpiry (sc : Scope)                                           -- R364
  | sessionIdleTimeout (sess : Nat)                                   -- R365
  | regread (sess : Nat) (addr : Nat) (width : Nat)                   -- R367
  | regwrite (sess : Nat) (addr : Nat) (width : Nat) (val : Word)     -- R367
  | qpCreate (sess : Nat) (x : QpIn)        -- R360, R359: path MTU in bytes
  | qpDestroy (sess : Nat) (qpn : Nat)                                -- R361
  | keys (sess : Nat) (linkKey : BitVec 256)                          -- R367
  | peers (sess : Nat) (es : List PeerEntry)                          -- R367
  | start (sess : Nat)                                                -- R372
  | zeroise (sess : Nat) (part : Nat)                                 -- R374
  | memoryScrubDone (part : Nat)                                      -- R374
  | attest (sess : Nat) (kind part : Nat) (nonce : BitVec 256)        -- R384
  | assign (sess : Nat) (part : Nat) (c : Cred)                       -- R367
  | owner (sess : Nat) (pub : BitVec 776)                                    -- R369
  | close (sess : Nat)                                                -- R365
  | evread (sess : Nat) (index count : Nat)                           -- R367
  | release (sess : Nat)                                              -- R428
  | privlaunch (sess : Nat) (part : Nat) (bytes : List Byte)          -- R368
  -- partitions and the command table
  | partitionStart (part : Nat)                                       -- R372
  | partDefine (path : Path) (part : Nat) (val : Word)                -- R370
  | partReset (path : Path) (part : Nat) (val : Word)                 -- R373
  | partitionReset (part : Nat)                                       -- R373
  | partRelease (path : Path) (part : Nat) (val : Word)               -- R374
  | cmdtEn (path : Path) (part : Nat) (val : Word)                    -- R376
  | cmdtLaunch (x : Reads)                                           -- R377
  | cmdtWindow (x : Reads)                                           -- R378
  | cmdtMark (x : Reads)                                             -- R379
  | cmdtNop (x : Reads)                                              -- R379
  | markComplete (part : Nat)                                         -- R379
  -- start-up
  | packageColdReset                                                  -- R456
  | resetRelease (straps : BitVec 14)                                 -- R388, R450
  | cantlePllLock                                                     -- R388
  | hubSelfTest (hub : Nat) (ok : Bool)                               -- R389
  | fuseRead (h0 h1 : Option FuseIn)                                -- R390
  | imageVerify (img : ImageIn)                                       -- R391
  | recover (img : ImageIn) (ownerSigOk : Bool)                       -- R392
  | firmwareStart (rejected : List (Nat × Nat)) (boardDesc : Option (List Nat)) (descVersion : Nat) -- R393
  | pgCAssert (die : Nat)                                             -- R452
  | pgCTimeout (die : Nat)                                            -- R452
  | coreFirmwareCheck (die : Nat) (ok : Bool)                         -- R397
  | knownAnswerRuns (u : KatUnit) (ok : Bool) (run : Nat)             -- R398
  | hbmTrained (stack : Nat) (identityOk : Bool) (serial : DWord) (saved : SavedIn) (checkOk trainOk : Bool) (hppr : Nat)
      (pages : List (Nat × Nat))                                              -- R395, R271: rows repaired, pages beyond repair
  | lpddrTrained (module : Nat) (spd : SpdIn) (saved : SavedIn) (checkOk trainOk : Bool) -- R395
  | coreMapBuild (die : Nat)                                          -- R400
  | startPhaseTimeout (phase unit : Nat)                              -- R388
  | ready (ms : Nat)                                                  -- R404
  | bootDiscard (path : Path) (val : Word)                            -- R406
  | bootNofast (path : Path) (val : Word)                             -- R393
  | hourTick                                                          -- R393
  | pgBoardFall                                                       -- R453
  | pgCFall (die : Nat)                                               -- R454
  -- faults and must-finish
  | dieReport (die : Nat)                                             -- R421
  | dieWedged (die : Nat)                                             -- R421
  | dieFailed (die cause : Nat)                                       -- R413
  | mapRebuild (beats : Nat)                                          -- R418
  | thermalTrip (unit temp : Nat)                                     -- R422
  | managementRound (r : RoundIn)                                     -- R424
  | mfLate (op part us : Nat)                                         -- R420
  -- power and board
  | cinchSpent                                                        -- R439
  | cinchCap (path : Path) (hub : Nat) (val : Word)                   -- R432
  | cinchFast (path : Path) (hub : Nat) (val : Word)                  -- R432
  | cinchCtrl (path : Path) (hub : Nat) (val : Word)                  -- R441
  | fastLimitAssert                                                   -- R440
  | fastLimitDeassert                                                 -- R440
  | syncEdge (tick : Nat)                                             -- R457
  | testModeUnlock (sigOk clearRetained : Bool)                       -- R430
  deriving DecidableEq, Repr

end Sys2Proof
end

