-- ==== Sys2Proof/Decode.lean ====
section
/-! DEFINITION. Commands as words. spec/opcode_table.json gives none of its rows bits (its "fixed" and
"fields" are empty), so no word spells a command and the decoder reads none (notes/assumptions/3). -/

namespace Sys2Proof

/-- The command that a word spells by the table's bits: none, since the table gives no row bits. -/
def decodeTableWord (_nbits _w : Nat) : Option Instr := none

end Sys2Proof
end

