-- ==== Sys2Proof/Config.lean ====
section
/-! DEFINITION. The free values: what the spec leaves open, as constants with no body. Nothing can be
proved of what they answer, so a statement about the model holds for every choice (notes/assumptions/2). -/

namespace Sys2Proof

/-- The byte that a place of HBM or LPDDR holds which nothing has written since its die's keys were drawn
(R470, R273: 'the contents of every line are undefined'): by key epoch, memory number and offset. -/
opaque Config.undefByte : Nat → Nat → Byte

/-- A 32-bit value the spec leaves open, by the value of `State.freeCtr` at which it is drawn. -/
opaque Config.freeWord : Nat → Word

/-- A 64-bit value the spec leaves open (drawn keys' device R_Key, host memory read by RDMA and the like),
by the value of `State.freeCtr` at which it is drawn. -/
opaque Config.freeDWord : Nat → DWord

/-- AES-256-GCM as R306 uses it: byte `i` of the 1,024 bytes of ciphertext and the 16 of the tag that follow, by key, IV,
additional authenticated data and plaintext. The spec names the algorithm and does not give it (notes/assumptions/152). -/
opaque Config.gcmByte : BitVec 256 → BitVec 96 → List Byte → List Byte → Nat → Byte

/-- The step of 5 mV above 650 mV that the image's frequency table gives for an arithmetic clock in MHz (R455). -/
opaque Config.setpointStep : Nat → Fin 41

/-! The published algorithms of chapter 16 are named by the spec and not given; each is a constant of the bytes that the spec
hands it (notes/assumptions/154). Byte 0 of a byte string lies lowest in a bit vector. -/

/-- Key material that the part draws (R363): a private key, or a nonce, by the value of `State.freeCtr`. -/
opaque Config.freeKey : Nat → BitVec 384

/-- The public key of a private key of brainpoolP384r1, 97 bytes uncompressed, and the shared secret of a private and a public
key (R363). -/
opaque Config.ecPublic : BitVec 384 → BitVec 776
opaque Config.ecdh : BitVec 384 → BitVec 776 → BitVec 384

/-- The private identity key that start-up derives from the fuse secret (R383), and the certificate chain of a public key. -/
opaque Config.identityKey : BitVec 256 → BitVec 384
opaque Config.certChain : BitVec 776 → List Byte

/-- SHA-384 of a byte string, and the ECDSA signature (r then s) by a private key over such a hash (R363, R385, R428). -/
opaque Config.sha384 : List Byte → BitVec 384
opaque Config.ecdsa : BitVec 384 → BitVec 384 → BitVec 768

/-- The 36 bytes of HKDF-SHA-384 for IKM, salt and info (R366). -/
opaque Config.hkdf : List Byte → List Byte → List Byte → BitVec 288

end Sys2Proof
end

