-- ==== Sys2Proof/Machine/State.lean ====
section
/-! DEFINITION. The state of the part, as plain data, and the state after package cold reset. Every table
is a list sorted by key that lists what differs from a fresh entry, so the state after reset is short.
A management register has one home: the word list `regs`, or the field here that its view reads. -/

namespace Sys2Proof.Machine

/-- A sparse table: pairs of key and value, keys rising; an unlisted key holds the table's default. -/
abbrev Tab (α : Type) := List (Nat × α)

/-! ### Records and answers -/

/-- An event record (R35). -/
structure Rec where
  tsc : DWord
  src : Nat
  code : Nat
  sev : Nat
  part : Nat
  late : Bool
  ret : Bool
  data : Data128
  deriving DecidableEq, Repr

/-- The event log, of which the two hubs hold mirrored copies (R37). -/
structure Log where
  /-- Records that a unit has formed and no hub holds yet. -/
  flight : List Rec
  /-- Records at the hub that wait for their batch's boundary. -/
  batch : List Rec
  /-- The ring, newest first. -/
  ring : List Rec
  /-- Records ever appended; the next index is this modulo 16,384. -/
  total : Nat
  lost : Word
  /-- The retained area, oldest first (R38). -/
  retained : List Rec
  retFull : Bool
  deriving DecidableEq, Repr

/-- A completion record (R380). -/
structure Cpl where
  tsc : DWord
  tag : Word
  kind : Nat
  code : Nat
  id : Word
  flags : Nat
  version : DWord
  word : DWord
  decision : Nat
  deriving DecidableEq, Repr

/-- An attestation report (R385); `reportBytes` gives its 304 bytes. -/
structure Report where
  kind : Nat
  serial : DWord
  fwhash : BitVec 384
  fwver : Word
  mapped : Nat
  expected : Nat
  dies : Nat
  flags : Nat
  owner : Option Cred
  nonce : BitVec 256
  tsc : DWord
  epoch : Nat
  ztsc : DWord
  stsc : DWord
  erase : Nat
  /-- The signature, r then s; 0 until the report is signed. -/
  sig : BitVec 768
  deriving DecidableEq, Repr

/-- A release token (R428) and its signature, r then s. -/
structure Token where
  serial : DWord
  owner : Option Cred
  tsc : DWord
  erased : Nat
  wedged : Nat
  retained : Nat
  field : Nat
  fwhash : BitVec 384
  sig : BitVec 768
  deriving DecidableEq, Repr

/-- A frame on its way out by its route header and body (R289), without the tag, which no rule makes a
number; `resp` says that it carries responses, `vc` the channel that it leaves on. COUNTER 0 stands for a
frame that is not encrypted yet. -/
structure OutFrame where
  vc : Nat
  resp : Bool
  dstPkg : Nat
  srcPkg : Nat
  dstPart : Nat
  srcPart : Nat
  origin : Nat
  counter : DWord
  body : FrameBody
  /-- The link key under which the source sealed the body (R306); none for a cleartext body. -/
  key : Option (BitVec 256)
  /-- The link and channel on which a frame in transit came, whose receive buffer it holds until it leaves (R291). -/
  via : Option (Nat × Nat)
  held : Bool
  deriving DecidableEq, Repr

/-- The hop header that a frame leaves with (R288). -/
structure Hop where
  seq : BitVec 12
  ack : BitVec 12
  nak : Bool
  dist : Nat
  lanes : BitVec 4
  credits : List Nat
  /-- The sync symbol, of the first frame after a boundary (R303). -/
  time : Option DWord
  deriving DecidableEq, Repr

/-- What the part sends: the answers to sessions and access paths, the frames on its links and ports, the
RDMA operations it makes and the requests it sends to other packages. -/
inductive Out where
  | value (p : Path) (addr : Nat) (v : Word)
  | ok (sess : Nat)
  | refused (sess : Nat)
  | qpn (sess n : Nat)
  /-- A report comes with the certificate chain of the identity key (R383). -/
  | report (sess : Nat) (r : Report) (chain : List Byte)
  | records (sess : Nat) (rs : List Rec)
  | token (sess : Nat) (t : Token)
  /-- The retained area as the maker's test modes read it (R430). -/
  | retained (rs : List Rec)
  | privReply (sess : Nat) (reason : Nat)
  | privDone (sess : Nat) (c : Cpl)
  /-- REPLY (R363): ephemeral public key, nonce, for PASSWORD salt and count, certificate chain, signature. -/
  | reply (port hs : Nat) (eph : BitVec 776) (nonce : BitVec 256) (pw : Option (BitVec 256 × Nat)) (chain : List Byte)
      (sig : BitVec 768)
  /-- ACCEPT (R363): session number, SPIs, device R_Key. -/
  | accept (port sess : Nat) (spis : List Nat) (rkey : Nat)
  | refuse (port reason : Nat)
  | ethReply (port id : Nat)
  /-- A congestion notification packet (R359). -/
  | cnp (qpn : Nat)
  | rdmaAck (qpn : Nat)
  | rdmaNak (qpn : Nat) (code : Nat)
  | rdmaData (qpn : Nat) (bytes : List Byte)
  | rdmaWriteOut (qpn : Nat) (va : DWord) (rkey : Nat) (mask : DWord) (data : Line)
  | rdmaReadOut (qpn : Nat) (va : DWord) (rkey : Nat)
  /-- A frame on a link; `frameBytes` gives its 1,088 bytes (R287), `Out.onLane` what each lane carries of them (R286). -/
  | linkFrame (link : Nat) (h : Hop) (f : OutFrame)
  | identity (link : Nat) (pkg linkNo lanes dist : Nat)
  | recoverRefused
  /-- A private write of 2 bytes to the telemetry target of rail VCn: its setpoint, mV (R455). -/
  | setpoint (die mv : Nat)
  deriving DecidableEq, Repr

/-! ### A logical core -/

/-- What a waiting thread waits at (R54, R89). -/
inductive Wait where
  | none
  | barG (id : Nat)
  | barB (id : Nat)
  | wbeat (target : DWord)
  deriving DecidableEq, Repr

/-- One thread: its g registers (R64, unlisted = 0), predicates (R66, bit 0 always 1), flag word (R187),
program address (R51), exit bit and wait. -/
structure Thread where
  g : Tab Word
  preds : BitVec 8
  flags : Word
  pc : DWord
  exited : Bool
  wait : Wait
  /-- Bit j: one of g8j to g8j+7 written since the block's last committed seam (R239). -/
  wrote : Word
  deriving DecidableEq, Repr

/-- Why a whole group does not issue although no path of it waits. -/
inductive Hold where
  | none
  /-- A fence, release or acquire of device (2) or system (3) scope waits for its seam (R221, R222); `seam`
  is the seam's stamp once it is committed. -/
  | fence (scope : Nat) (seam : Option DWord)
  /-- A scratchpad release store of device or system scope waits for its fence, then stores (R222). -/
  | relSpad (scope : Nat) (seam : Option DWord) (writes : List (Nat × Byte))
  /-- An atom of device or system scope, from its before-seam to its after-seam (R245). -/
  | atomic
  /-- An ld.acq, or an atom of group or block scope, whose line has not returned (R222, R225). -/
  | acq (scope : Nat)
  /-- dma.wait with a tag, or with any tag (R85). -/
  | dma (tag : Option Nat)
  deriving DecidableEq, Repr

/-- Registers `base` to `base` + `n` − 1 of the threads in `mask` that a load or a drain has still to write (R49, R197). The
tag names it: the NI entry, or 200 + the set of a drain. -/
structure Owe where
  tag : Nat
  mask : Word
  base : Nat
  n : Nat
  deriving DecidableEq, Repr

/-- One group in a group slot. -/
structure Group where
  bslot : Nat
  gidx : Nat
  /-- s registers (R65), unlisted = 0. -/
  s : Tab DWord
  /-- The 32 threads, thread 0 first. -/
  threads : List Thread
  /-- What loads and drains owe to g registers; s registers that a load owes, with its tag (R49, R50). -/
  gWait : List Owe
  sWait : List (Nat × Nat)
  hold : Hold
  /-- Program address of the path that issued last and its consecutive issues (R52). -/
  lastPc : DWord
  consec : Nat
  /-- For each path that was eligible and did not issue: its address and the issues it has waited. -/
  waited : List (DWord × Nat)
  /-- The path that the starvation guard chose for the next issue. -/
  forced : Option DWord
  deriving DecidableEq, Repr

/-- A line of a seam buffer (R234): target line address, bytes and mask; `rel` marks the line of a release
store of device or system scope (R222); `sent` (to another package or the host) and `made` follow its apply (R243). -/
structure SLine where
  addr : DWord
  data : Line
  mask : DWord
  /-- Scope of the release store that the line carries: 2 device, 3 system, 0 none (R222). -/
  rel : Nat
  sent : Bool
  made : Bool
  deriving DecidableEq, Repr

/-- A DMA descriptor (R85) with its progress (R238). -/
structure Dma where
  bslot : Nat
  /-- Place in the order in which the core accepted its descriptors (R224). -/
  seq : Nat
  /-- The group slot that queued it, which its faults name (R60, R232). -/
  grp : Nat
  tag : Nat
  fill : Bool
  remote : Bool
  src : DWord
  dst : DWord
  pattern : DWord
  rowLen : Nat
  nrows : Nat
  sstr : Nat
  dstr : Nat
  row : Nat
  col : Nat
  /-- Lines of other packages and of the host that the engine has read for its next part. -/
  far : List (DWord × Line)
  /-- Every byte has been moved. -/
  moved : Bool
  deriving DecidableEq, Repr

/-- One accumulator set (R120): holder group slot, releasing, kind (R143), accumulators by 32 × row +
column (unlisted = 0), tile flags by quadrant (R147). -/
structure AccSet where
  holder : Option Nat
  releasing : Bool
  int : Bool
  acc : Tab Word
  sat : BitVec 4
  nf : BitVec 4
  deriving DecidableEq, Repr

/-- The kind of a staged matrix instruction. -/
inductive MxKind where
  | t
  | q (quad : Nat)
  /-- mma.s: step table offset, number of steps, next step to read. -/
  | s (tbl nstep next : Nat)
  /-- smma: remaining requests (thread, A offset, B offset). -/
  | sm (reqs : List (Nat × Nat × Nat))
  | drain
  deriving DecidableEq, Repr

/-- Where a drain goes (R127). -/
inductive DrainDest where
  | regs (base : Nat)
  | mem (addr : DWord)
  | spad (off : Nat)
  deriving DecidableEq, Repr

/-- An operand of one step: for each of 32 threads its element bytes, index bytes and scale bytes. -/
structure Frag where
  elems : List (List Byte)
  idx : List (List Byte)
  scales : List (List Byte)
  deriving DecidableEq, Repr

/-- The staging buffer's instruction (R124), with the operands of the next step once they are there. -/
structure Staged where
  kind : MxKind
  grp : Nat
  set : Nat
  fmta : Nat
  fmtb : Nat
  zero : Bool
  b16 : Bool
  s24 : Bool
  a : Option Frag
  b : Option Frag
  dest : DrainDest
  deriving DecidableEq, Repr

/-- A drain in the drain path (R126) and, once its set is read, the values of its rows. -/
structure Drain where
  grp : Nat
  set : Nat
  fmt : Nat
  dest : DrainDest
  vals : Option (List Word)
  int : Bool
  sat : Bool
  nf : Bool
  deriving DecidableEq, Repr

/-- An instruction of the bobbin engine's queue (R169). -/
structure BobJob where
  grp : Nat
  merge : Bool
  mode : Bool
  base : DWord
  data : Nat
  nreg : Nat
  doff : Nat
  rowLen : Nat
  limit : Nat
  mask : Word
  /-- Lines of other packages and of the host that the engine has read for it. -/
  far : List (DWord × Line)
  executed : Bool
  deriving DecidableEq, Repr

/-- The purpose of a request of an NI (R283). -/
inductive NiKind where
  /-- A load of the group's threads. -/
  | load
  /-- A cache fill that writes no register (prefetch). -/
  | fill
  /-- An atomic of device or system scope: operation, size, operand, comparand and the
  journal's KEY. -/
  | atom (aop size : Nat) (operand comparand key : DWord)
  /-- The line of an atom of group or block scope, whose result is staged (R225). -/
  | rmw (aop size : Nat)
  /-- A line of a commit on its way to another package or to the host (R243). -/
  | write
  /-- A line that the bobbin engine's first job, or a DMA descriptor, reads of another package or of the host. -/
  | bob
  | dma (d : Nat)
  deriving DecidableEq, Repr

/-- One destination of a returned line: thread, first register, byte offset in the line, size in bytes,
byte offset within the value; `s` marks an s register. -/
structure NiDest where
  thread : Nat
  reg : Nat
  s : Bool
  off : Nat
  len : Nat
  voff : Nat
  deriving DecidableEq, Repr

/-- An outstanding request (R283). -/
structure NiEntry where
  kind : NiKind
  /-- Place in the order in which the core issued its requests (R224). -/
  seq : Nat
  attempt : Nat
  bslot : Nat
  grp : Nat
  /-- Line address for reads, operand address for atomics. -/
  addr : DWord
  dests : List NiDest
  /-- Staged bytes of the block that replace the line's (R214). -/
  stagedMask : DWord
  stagedData : Line
  /-- The fill number, where the line goes into the read cache (R212, R213). -/
  cache : Option Nat
  opc : Nat
  /-- The beat at which the request was sent (R285). -/
  sentBeat : Nat
  /-- The block has stopped: what arrives only frees the entry (R250, R283). -/
  dead : Bool
  /-- The home's answer: the line (or old value) and whether it is poisoned. -/
  answer : Option (Line × Bool)
  /-- A refusal's status (R290). -/
  refused : Option Nat
  deriving DecidableEq, Repr

/-- The journal entry of a block (R245): KEY and the old values by thread. -/
structure Journal where
  key : DWord
  old : Tab DWord
  deriving DecidableEq, Repr

/-- The atom between a before-seam and an after-seam: the group, its operations by thread. -/
structure AtomPend where
  grp : Nat
  w0 : DWord
  /-- Address of the atom and the threads of its path. -/
  pc : DWord
  path : List Nat
  /-- Threads whose operation has not been sent. -/
  threads : List Nat
  /-- Stamp of the before-seam, once it is committed. -/
  seam : Option DWord
  /-- The before-seam's lines are made: the operations are sent. -/
  started : Bool
  /-- Every thread has its old value: the after-seam follows. -/
  finished : Bool
  deriving DecidableEq, Repr

/-- What starts a seam (R236). -/
inductive Trigger where
  | overflow | age | release (scope : Nat) | atomBefore | atomAfter | cluster
  deriving DecidableEq, Repr

/-- Where a block stands in a seam (R237, R248). -/
inductive Phase where
  | run | stopped | quiesced | logged
  deriving DecidableEq, Repr

/-- The state that a seam saves (R238). -/
structure Saved where
  groups : List (Nat × Group)
  spad : List Host.Cell
  sets : List (Nat × AccSet)
  pricking : Option (List Word)
  accSat : Bool
  accNf : Bool
  lnf : Bool
  /-- Descriptors with their numbers, in the order of their acceptance. -/
  dma : List (Nat × Dma)
  /-- Pages, by position, written since the block took them (R239). -/
  wroteP : List Nat
  /-- The atom whose before-seam this is; a replay from here reissues it (R246). -/
  atom : Option AtomPend
  deriving DecidableEq, Repr

/-- A committed record (R241, R243): its stamp, lines, management stores and the state it saved. -/
structure SeamRec where
  stamp : DWord
  lines : List SLine
  mgmt : List (Nat × Word)
  saved : Option Saved
  final : Bool
  /-- Offset and length in the log, in bytes. -/
  off : Nat
  len : Nat
  /-- Granules, pages with payload and zero pages that it carries (R239). -/
  grans : List Nat
  pages : List Nat
  zeros : List Nat
  deriving DecidableEq, Repr

/-- A barrier watchdog (R57). -/
structure Wd where
  key : WdKey
  count : Nat
  /-- The group that arrived first. -/
  grp : Nat
  deriving DecidableEq, Repr

/-- A block's descriptor (the table of chapter 03). -/
structure Desc where
  part : Nat
  uid : Nat
  grant : Word
  lin : Nat
  x : Nat
  y : Nat
  z : Nat
  groups : Nat
  rpt : Nat
  pages : Nat
  csize : Nat
  crank : Nat
  entry : DWord
  argp : DWord
  wdog : Nat
  priv : Bool
  /-- Logical core of admission, which s2 and the records name (R45, R252). -/
  home : Nat
  deriving DecidableEq, Repr

/-- `CORE_BSLOTn_STAT.STATE`. -/
inductive BState where
  | admitted | running | committing | stopping
  deriving DecidableEq, Repr

/-- A block in a block slot, with its directory entry (R242), journal and seam state. -/
structure Block where
  desc : Desc
  st : BState
  gslots : List Nat
  granules : List Nat
  pageTab : List Nat
  spad : List Host.Cell
  wset : List SLine
  mgmt : List (Nat × Word)
  phase : Phase
  trig : Option Trigger
  stamp : DWord
  /-- PSTAMP of the directory entry, and the cluster stamp taken when the first member stopped (R247). -/
  pstamp : DWord
  cstamp : DWord
  /-- Place and length in the log of STAMP's record, and of a record that is written and not committed (R242). -/
  logOff : Nat
  logLen : Nat
  pend : Option (Nat × Nat)
  attempt : Nat
  applied : Bool
  final : Bool
  /-- Committed records not yet applied, oldest first. -/
  log : List SeamRec
  slot : Option Saved
  journal : Option Journal
  atom : Option AtomPend
  acq : Nat
  age : Nat
  accSat : Bool
  accNf : Bool
  lnf : Bool
  wds : List Wd
  /-- Pages, by position, written since the last committed seam, and since the block took them; `full` = save all
  (R239). -/
  dirtyP : List Nat
  wroteP : List Nat
  full : Bool
  /-- Stopped by a hardware fault, waiting for replay (R249). -/
  stopped : Bool
  deriving DecidableEq, Repr

/-- A line of a core's read cache (R213). -/
structure RcLine where
  addr : DWord
  fill : Nat
  data : Line
  deriving DecidableEq, Repr

/-- A logical core: what its physical core holds of its work. -/
structure Core where
  blocks : Tab Block
  groups : Tab Group
  sets : Tab AccSet
  staged : Option Staged
  /-- Drains from their acceptance to their output, oldest first (R124, R126). -/
  drains : List Drain
  bob : List BobJob
  ptHolder : Option Nat
  ptKeys : List Word
  dma : Tab Dma
  ni : Tab NiEntry
  rc : List RcLine
  nextFill : Nat
  nextSeq : Nat
  /-- Where the next record goes in the log of the core's region (R241). -/
  logHead : Nat
  /-- Packages whose route changed under outstanding requests of this core (R301). -/
  reroute : List Nat
  deriving DecidableEq, Repr

/-! ### Dies, memories, links -/

/-- One entry of the core map (R10, `MAP_ENTRY`). -/
structure MapEnt where
  phys : Option Nat
  moved : Bool
  deriving DecidableEq, Repr

/-- A physical core's fault state (R410, R412). -/
structure PhysSt where
  level : Nat
  retired : Bool
  cls : Nat
  deriving DecidableEq, Repr

/-- A decision that waits for a boundary (R415). -/
inductive Pending where
  /-- A hardware fault of a physical core, by its class (R412). -/
  | core (die phys cls : Nat)
  /-- A poisoned page (R411). -/
  | page (stack page : Nat)
  /-- A pseudo-channel whose budget is exceeded (R410). -/
  | pseudo (stack pc : Nat)
  | lpx (module ch : Nat)
  | lane (link lane : Nat)
  /-- A link that exceeds its retrain limit, or whose ends have fewer than 3 lanes in common (R296). -/
  | link (link : Nat)
  deriving DecidableEq, Repr

/-- A waiting decision with the time and source of its triggering record, by which decisions are taken (R36). -/
structure Due where
  tsc : DWord
  src : Nat
  what : Pending
  deriving DecidableEq, Repr

/-- A fabric body that is being filled, since the tick of its first message (R290). -/
structure Filling where
  since : Nat
  part : Nat
  pkg : Nat
  dstPart : Nat
  resp : Bool
  msgs : List Msg
  deriving DecidableEq, Repr

/-- What the hubs' copies hold of a die (R22): it carries logical cores, its counts, its trained memories and its links
in service. -/
structure DieSeen where
  ok : Bool
  mapped : Nat
  vacant : Nat
  spares : Nat
  tested : Nat
  mems : List Nat
  links : List Nat
  deriving DecidableEq, Repr

/-- A compute die. -/
structure Die where
  pwrEn : Bool
  /-- Setpoint last written to the rail's target, mV; 0 before the first write (R455). -/
  setpoint : Nat
  powered : Bool
  fwOk : Bool
  fwTries : Nat
  /-- Failed at start (R399) or in service (R413). -/
  failed : Bool
  failedService : Bool
  wedged : Bool
  /-- Beat boundaries since its last report, and since it became wedged (R421). -/
  silent : Nat
  wedgedFor : Nat
  /-- The hubs' copy of the last boundary at which it reported (R22). -/
  seen : Option DieSeen
  powerLost : Bool
  /-- POWER_LOST has been recorded (R454). -/
  lostRec : Bool
  testBad : List Nat
  testsDone : Bool
  mapBuilt : Bool
  spares : List Nat
  ways : Nat
  phys : Tab PhysSt
  /-- In-flight device- and system-scope atomics by logical core (R284). -/
  atoms : Tab Nat
  /-- The die's copy of its core-map entries, which its 160 NIs hold alike (R282), the entry whose parity has failed, and the
  generation. -/
  shadow : Tab MapEnt
  shadowBad : Option Nat
  reloading : Bool
  shadowGen : Nat
  fill : Tab Filling
  /-- Count of key drawings for the die's memories (R273). -/
  keyEpoch : Nat
  keyed : Bool
  deriving DecidableEq, Repr

/-- A stack (memory 0 to 15) or a module (memory 0x10 to 0x17). -/
structure MemUnit where
  /-- The slot holds a module (R403). -/
  present : Bool
  settled : Bool
  trained : Bool
  insvc : Bool
  leave : Bool
  retrain : Bool
  retrainFailed : Bool
  hot : Bool
  serial : DWord
  temp : Nat
  hppr : Nat
  saved : Bool
  /-- Poisoned lines by line number (R266, R277). -/
  poison : List Nat
  allPoison : Bool
  /-- Remap entries: page number to spare page number (R268). -/
  remap : Tab Nat
  /-- Pages being copied, oldest first, with their spare pages (R268). -/
  copies : List (Nat × Nat)
  pcRet : BitVec 32
  level : Tab Nat
  /-- Page of the latest error of each pseudo-channel (R410). -/
  lastErr : Tab Nat
  scrub : Nat
  /-- LPDDR: SPD verdict, capacity in GB, fastest grade, running grade, manufacturer, OVER (R275, R276). -/
  spdOk : Bool
  gb : Nat
  spdMax : Nat
  /-- Speed grades that the SPD lists (R275, R276). -/
  grades : List Nat
  grade : Nat
  mfr : Nat
  overTemp : Bool
  /-- A dropped write to the wholly poisoned module has been recorded in this beat (R277). -/
  dropRec : Bool
  deriving DecidableEq, Repr

/-- A message that a frame delivered and its home has not served: its partitions and source package, and the link, channel
and SEQ of the frame, whose receive buffer it shares with the frame's other messages (R290, R291, R307). -/
structure Arrived where
  dstPart : Nat
  srcPkg : Nat
  srcPart : Nat
  link : Nat
  vc : Nat
  seq : BitVec 12
  msg : Msg
  deriving DecidableEq, Repr

/-- A frame kept for resending (R292). -/
structure Sent where
  seq : BitVec 12
  frame : OutFrame
  /-- The frame has been sent on another route as well (R301). -/
  rerouted : Bool
  deriving DecidableEq, Repr

/-- `TL_STATUS.STATE` (R294). -/
inductive LinkSt where
  | off | detect | equalise | align | identify | delay | up | retrain | retired | free
  deriving DecidableEq, Repr

/-- A tatting link. -/
structure Link where
  st : LinkSt
  /-- The tick at which the link entered its state (R294). -/
  since : Nat
  lanes : BitVec 4
  laneRet : BitVec 4
  miswired : Bool
  saved : Bool
  /-- The settings that the link works with: what EQUALISE found (R294, R394). -/
  settings : List Nat
  peerPkg : Nat
  peerLink : Nat
  dist : Nat
  delayT : Nat
  nextTx : BitVec 12
  nextRx : BitVec 12
  lastAck : BitVec 12
  replay : List Sent
  nakPend : Bool
  /-- Times in succession that the SEQ expected next was discarded as bad (R293). -/
  badRun : Nat
  level : Tab Nat
  credits : List Nat
  /-- Receive buffers by channel that frames have taken and that no header has reported free since (R288, R291). -/
  lent : List Nat
  /-- Frames that wait for this link, oldest first, and the source partition served last (R302). -/
  queue : List OutFrame
  served : Nat
  /-- The first frame since the last boundary has left (R303). -/
  synced : Bool
  module : Option ModuleIn
  rejected : Bool
  /-- The application selected in page 10h, by its place in the module's list from 1, with its transmitters enabled; 0 = none
  (R309, R310). -/
  appSel : Nat
  /-- TIME + delay − arrival of the last sync symbol (R304). -/
  sync : Option Int
  retrainPend : Bool
  /-- Exchange frames sent in this beat (R321). -/
  exSent : Nat
  deriving DecidableEq, Repr

/-! ### Partitions -/

/-- The fields of a LAUNCH entry (R377). -/
structure Launch where
  grant : Word
  gx : Nat
  gy : Nat
  gz : Nat
  groups : Nat
  rpt : Nat
  pages : Nat
  csize : Nat
  grad : Bool
  priv : Bool
  vw : Bool
  after : Bool
  gate : Nat
  wdog : Nat
  entry : DWord
  args : DWord
  vwaddr : DWord
  vvalue : DWord
  vbuf : Bool
  deriving DecidableEq, Repr

/-- Where a grant came from. -/
inductive GrantSrc where
  | table (slot : Nat)
  | priv (sess : Nat)
  | update (entry : Nat)
  deriving DecidableEq, Repr

/-- A grant taken and without a completion record (R376), in the order of taking. -/
structure Grant where
  uid : Nat
  launch : Launch
  tag : Word
  src : GrantSrc
  /-- Next linear block index to hand out (R43). -/
  nextLin : Nat
  live : Nat
  done : Nat
  sat : Bool
  nf : Bool
  fault : Option Nat
  /-- Step number and start beat current when it was taken (R315). -/
  step : Word
  start : DWord
  /-- The conditions of R229 held, or its last block had ended after a fault, at the last boundary. -/
  ready : Bool
  /-- Energy of core activity and leakage, and of memory, fabric and links, µJ (R443, R445). -/
  eCore : Nat
  eMem : Nat
  deriving DecidableEq, Repr

/-- A command-table entry taken that still owes a record: grants and marks in the order of their entries
(R379, R380). -/
inductive Owed where
  | grant (uid : Nat)
  | mark (tag : Word)
  deriving DecidableEq, Repr

/-- A registered host window (R378). -/
structure Window where
  qpn : Nat
  va : DWord
  rkey : Nat
  len : Nat
  deriving DecidableEq, Repr

/-- A plan entry (R317). -/
structure PlanEntry where
  offset : Nat
  elems : Nat
  op : Nat
  gate : Nat
  fpb : Nat
  target : Nat
  nc : Nat
  link : Nat
  addr : DWord
  land : DWord
  deriving DecidableEq, Repr

/-- An exchange reservation (R326, `XPLAN_RESn`). -/
structure Resv where
  active : Bool
  why : Nat
  level : Nat
  deriving DecidableEq, Repr

/-- The exchange of a partition. -/
structure Exch where
  step : Word
  start : DWord
  active : Bool
  decided : Bool
  /-- The beat whose boundary is the next step boundary (R314). -/
  stepPend : Option Nat
  /-- The plan has passed its check and waits for its reserved cores to hold no block (R319). -/
  armPend : Bool
  armed : Bool
  plan : List PlanEntry
  lists : List Nat
  res : Tab Resv
  /-- Reservations withdrawn at the next step boundary, with cause (R328, R438). -/
  resPend : List (Nat × Nat)
  gates : List Nat
  localWord : DWord
  frozen : Bool
  frozenWord : DWord
  final : Option DWord
  /-- The beat in which the final word arrived or was formed (R334). -/
  finalBeat : Nat
  finalLatched : DWord
  /-- Health-up words by sender, and whether each came before the freeze (R333, R334). -/
  hups : List (Nat × DWord × Bool)
  clean : Bool
  unsure : Bool
  hLate : Bool
  late : Bool
  missing : Bool
  badEntry : Bool
  entry : Nat
  /-- Entries with a late or missing record in this step (R329). -/
  recorded : List Nat
  /-- Beats of entries counted late: (entry, offset) (R329). -/
  lateBeats : List (Nat × Nat)
  /-- Sender's and receiver's digests by entry, or by 1,024 × entry + position (R330). -/
  txDigest : Tab DWord
  rxDigest : Tab DWord
  sentDigest : Tab DWord
  mismatch : Bool
  checkFail : Bool
  misSrc : Nat
  misEntry : Nat
  /-- Frames taken in time: (entry, position, k). -/
  got : List (Nat × Nat × Nat)
  /-- SEND entries that send nothing in this step (R320). -/
  skipped : List Nat
  /-- SEND, REDUCE, RECV, HUP, HDOWN and check beats done: (entry, beat, what). -/
  beatsDone : List (Nat × Nat × Nat)
  /-- Die of the reservation that wrote each element of a REDUCE beat: (entry, beat, dies). -/
  wrote : List (Nat × Nat × List Nat)
  decideOff : Nat
  /-- The part overdrew in this step (R438); its exchange beats have stopped (R439). -/
  overStep : Bool
  spent : Bool
  deriving DecidableEq, Repr

/-- The latched values of a parameter group (R341). -/
structure PgLatch where
  lr : Word
  decay : Word
  beta1 : Word
  beta2 : Word
  eps : Word
  ctrl : Word
  seed : DWord
  stream : Word
  deriving DecidableEq, Repr

/-- An update entry (R344). -/
structure UpdEntry where
  launch : DWord
  args : DWord
  group : Nat
  deriving DecidableEq, Repr

/-- The update of a partition. -/
structure Upd where
  armed : Bool
  entries : List UpdEntry
  running : Bool
  committed : Bool
  skipped : Bool
  fault : Bool
  reverted : Bool
  held : Bool
  badEntry : Bool
  late : Bool
  entry : Nat
  step : Word
  launched : Nat
  ended : Nat
  cancel : Bool
  disarmAtEnd : Bool
  /-- The beat at whose boundary the revert runs (R350). -/
  revertPend : Option Nat
  launchBeat : Nat
  latched : Tab PgLatch
  /-- T′ of each group the table names (R342). -/
  tnew : Tab Nat
  /-- Groups the last commit advanced (R351). -/
  advanced : List Nat
  /-- Step of the update that runs, and whether one of its grants has ended with a fault: a later decision clears the
  bits of `UPD_STATUS`, not these. -/
  runStep : Word
  runFault : Bool
  /-- Groups whose T′ has been 0xFFFF_FFFF: `PGRPn_STAT.TSAT` (R342). -/
  tsat : List Nat
  deriving DecidableEq, Repr

/-- A privileged grant that waits for the next boundary (R368). -/
structure PrivWait where
  sess : Nat
  launch : Launch
  tag : Word
  /-- The beat at whose boundary the sequencer takes it. -/
  due : Nat
  deriving DecidableEq, Repr

/-- `PART_CFGp.STATE`. -/
inductive PartSt where
  | free | defined | opened | running | resetting | erasing | erased
  deriving DecidableEq, Repr

/-- A partition. -/
structure Part where
  st : PartSt
  size : Nat
  tenant : Option Cred
  session : Option Nat
  keys : Bool
  linkKey : BitVec 256
  peersIn : Bool
  peers : List PeerEntry
  epoch : Nat
  locked : Bool
  /-- The beats at whose boundaries START and RESET act (R372, R373). -/
  startPend : Option Nat
  resetPend : Option Nat
  /-- The erase that runs ends in FREE (RELEASE) instead of ERASED. -/
  toFree : Bool
  scrubbed : Bool
  wedgedErase : Bool
  eraseReport : Option Report
  ztsc : DWord
  stsc : DWord
  /-- Interleaves set at START (R202, R203). -/
  hbmSet : List Nat
  lpxSet : List Nat
  hbmSize : Nat
  lpxSize : Nat
  windows : Tab Window
  grants : List Grant
  owed : List Owed
  nextUid : Nat
  stepping : Nat
  stepLate : Bool
  head : Nat
  phase : Bool
  badCfg : Bool
  unreadSlot : Option Nat
  unreadCons : Bool
  cplCount : Nat
  cplHeld : List Cpl
  full : Bool
  /-- The energy ring has wrapped (R445). -/
  nrgFull : Bool
  priv : List PrivWait
  ex : Exch
  upd : Upd
  /-- Last counter sent by origin link (R306); last counter accepted, by 64 × (8 × SRCPKG + SRCPART) + ORIGIN. -/
  txCtr : Tab Nat
  rxCtr : Tab Nat
  /-- Flows (8 × SRCPKG + SRCPART) whose frames are discarded until new keys (R307). -/
  deadFlows : List Nat
  deriving DecidableEq, Repr

/-! ### Host side -/

/-- A session (R365). -/
structure Session where
  scope : Scope
  pw : Bool
  /-- The port of its last authenticated packet, on which its answers leave (R358). -/
  port : Nat
  rkey : Nat
  /-- A claim session whose OWNER has not come yet (R369). -/
  claim : Bool
  lastPkt : DWord
  /-- Inbound sequence numbers seen, by SPI: highest and those within the window (R358). -/
  seen : Tab (Nat × List Nat)
  /-- Packets sent on the outbound SA of each port: its last sequence number (R358). -/
  sent : Tab DWord
  /-- Z and the nonces (host, then part), from which the keys of its SAs are derived (R366). -/
  z : BitVec 384
  nonces : BitVec 512
  deriving DecidableEq, Repr

/-- A handshake that waits for its PROOF (R363). -/
structure Handshake where
  port : Nat
  scope : Scope
  pw : Bool
  takeover : Bool
  claim : Bool
  began : DWord
  z : BitVec 384
  nonces : BitVec 512
  deriving DecidableEq, Repr

/-- A queue pair (R359, R360). -/
structure Qp where
  part : Nat
  die : Nat
  sess : Nat
  port : Nat
  /-- Path MTU in bytes. -/
  mtu : Nat
  retries : Nat
  /-- RDMA READs of the part that are outstanding, and those, by core and NI entry, that wait for one of the 16 to end. -/
  reads : Nat
  waiting : List (Nat × Nat)
  deriving DecidableEq, Repr

/-- Failed proofs of an owner and its lock (R364). -/
structure Fails where
  scope : Scope
  count : Nat
  locked : Bool
  /-- Seconds of the current lock, and the TSC at which it began. -/
  secs : Nat
  since : DWord
  deriving DecidableEq, Repr

/-- The host side of the hubs. -/
structure HostSide where
  sessions : Tab Session
  nextSess : Nat
  shakes : Tab Handshake
  qps : Tab Qp
  fails : List Fails
  failTotal : Nat
  owner : Option Cred
  /-- SPIs with a drop recorded in this beat (R358). -/
  dropRec : List Nat
  /-- The application selected in page 10h of each port's module (R355). -/
  apps : Tab HostApp
  /-- Frames that have left each port and that `ETH_TXFRAMES` has still to count. -/
  txDue : Tab Nat
  token : Option Token
  testMode : Bool
  deriving DecidableEq, Repr

/-! ### Start-up, board, power -/

/-- A saved-settings record (R394): kind (0 stack, 1 module, 2 link), unit, serial, a link module's part
number and cable length, firmware version, and hours and starts at writing. -/
structure SavedRec where
  kind : Nat
  unit : Nat
  serial : Nat
  extra : Nat
  /-- The trained settings that the record holds. -/
  settings : List Nat
  /-- Temperature, °C, at which the settings were found (R394). -/
  temp : Int
  fwver : Word
  hours : Nat
  starts : Nat
  deriving DecidableEq, Repr

/-- Board flash and the fuse fields written in service: what a cold reset keeps (R456, R458). -/
structure Flash where
  pkgId : Option (BitVec 14)
  budgets : List Nat
  nofast : Bool
  owner : Option Cred
  retained : List Rec
  retFull : Bool
  /-- Remap entries: (stack, page, spare). -/
  remap : List (Nat × Nat × Nat)
  hours : Nat
  starts : Nat
  lpxRetired : List Word
  saved : List SavedRec
  /-- Field retirement entries burnt in service (R416), and FWMIN if raised. -/
  field : List (BitVec 24)
  fwmin : Option Word
  deriving DecidableEq, Repr

/-- One hub. -/
structure Hub where
  tested : Bool
  failed : Bool
  lost : Bool
  cantle : BitVec 4
  kat : BitVec 8
  deriving DecidableEq, Repr

/-- `BOOT_STATUS.PHASE`. -/
inductive BootPhase where
  | selfTest | fuses | image | recovery | firmware | training | ready | stopped
  deriving DecidableEq, Repr

/-- Start-up. -/
structure Boot where
  rstN : Bool
  pgBoard : Bool
  straps : BitVec 14
  pll : Bool
  phase : BootPhase
  hub0 : Hub
  hub1 : Hub
  h1Primary : Bool
  fuse : Option FuseCopy
  diverge : Bool
  h0Read : Bool
  h1Read : Bool
  disagree : Nat
  image : Option ImageIn
  coreImageOk : Bool
  fwminRaised : Bool
  firmware : Bool
  katDone : Bool
  katFirst : Tab (Nat × Nat)
  gen : Nat
  /-- The beat at whose boundary the generation last rose (R24). -/
  genBeat : Option Nat
  ready : Bool
  degraded : Bool
  fastStart : Bool
  readyMs : Nat
  /-- Resources trained in full and from saved settings at this start, and fallbacks: (kind, unit). -/
  full : List (Nat × Nat)
  fast : List (Nat × Nat)
  fell : List (Nat × Nat)
  /-- Saved-settings records due for writing (R396). -/
  due : List SavedRec
  fwStops : Bool
  /-- The board description failed its CRC: every cage budget is zero (R458). -/
  descBad : Bool
  deriving DecidableEq, Repr

/-- Pins (R450). -/
structure Pins where
  thermtrip : Bool
  fault : Bool
  pwrLim : Bool
  syncRec : Bool
  deriving DecidableEq, Repr

/-- The cinch controllers (R434 to R441). -/
structure Cinch where
  cap : Nat
  fast : Nat
  ctrl : Word
  /-- Values written that take effect at the next boundary (R432). -/
  capNext : Nat
  fastNext : Nat
  ctrlNext : Word
  gated : List Nat
  ptr : Tab Nat
  overdraw : Bool
  late : Bool
  fastIn : Bool
  spent : Bool
  overbeats : Nat
  floor : Nat
  est : Nat
  mhz : Nat
  scale : Nat
  notel : Bool
  boardW : Nat
  deriving DecidableEq, Repr

/-- The must-finish and fault registers' own state (R415 to R422). -/
structure Mf where
  lastOp : Nat
  lastPart : Nat
  lastUs : Nat
  tripped : Bool
  hottest : Nat
  areaFull : Bool
  late : Bool
  pending : List Due
  mapDiverged : Bool
  rebuild : Bool
  /-- Retirements and vacancies since the last numbering: (logical core, new physical core). -/
  moves : List (Nat × Option Nat)
  /-- Field entries due for burning, remap entries due for flash (R416, R269). -/
  dueField : List (BitVec 24)
  dueRemap : List (Nat × Nat × Nat)
  dueLpx : List Word
  busFail : List (Nat × Nat)
  /-- CRC failures of each bridge in this beat, bridges due for a retrain with the beat of its boundary, spares in use (R413). -/
  bridgeCrc : Tab Nat
  bridgeDue : List (Nat × Nat)
  bridgeSpare : Tab (Nat × Nat)
  /-- Channels that leaked in this beat (R409). -/
  leaked : List Channel
  /-- Stacks whose reading raises the trip at the next boundary, with the reading and the beat (R261). -/
  trips : List (Nat × Nat × Nat)
  /-- Beat of the last management round (R424). -/
  roundBeat : Nat
  /-- Beat of the last retirement decisions (R415). -/
  decideBeat : Nat
  /-- Telemetry targets that did not answer in the last round (R455). -/
  telFail : List Nat
  deriving DecidableEq, Repr

/-- Time (R25 to R29). -/
structure Time where
  tsc : DWord
  /-- The TSC has been adopted from sync symbols (R27). -/
  adopted : Bool
  sync : Bool
  held : Bool
  link : Nat
  offset : Int
  /-- The tick that the part adds (1) or withholds (-1) in this beat (R28). -/
  slew : Int
  deriving DecidableEq, Repr

/-- A latch of an access path (R19, R20): the low word's address and the held word. -/
structure Latch where
  path : Path
  rd : Option (Nat × Word)
  wr : Option (Nat × Word)
  deriving DecidableEq, Repr

/-- The whole part. -/
structure State where
  /-- The commands that wait, first in, first out. -/
  pending : List Instr
  /-- What the part has sent, newest first (the model's own trace). -/
  out : List Out
  /-- The counter that the free values are drawn at (the model's own). -/
  freeCtr : Nat
  time : Time
  latches : List Latch
  /-- Management register words that no other field holds, by management address. -/
  regs : Tab Word
  log : Log
  map : Tab MapEnt
  cores : Tab Core
  dies : Tab Die
  /-- Stacks 0 to 15 and modules 0x10 to 0x17 (R272 numbers them so). -/
  mems : Tab MemUnit
  /-- Bytes of the memories: key = memory number × 2^40 + offset. -/
  mem : List Host.Cell
  links : Tab Link
  /-- Messages that frames delivered and homes have not served (R291, R307). -/
  inbox : List Arrived
  /-- Exchange frames taken and not handled: beat of arrival, partition, source package, body (R322). -/
  exchIn : List (Nat × Nat × Nat × ExchBody)
  /-- Notices taken and not handled: link, own partition, target package and partition, reason (R307). -/
  noticeIn : List (Nat × Nat × Nat × Nat × Nat)
  farUp : Bool
  /-- Links that the routes of the last boundary take to be UP (R301). -/
  routeUp : List Nat
  /-- Notices recorded in this beat: (SRCPKG, SRCPART, DSTPKG, DSTPART, received) (R311). -/
  noticed : List (Nat × Nat × Nat × Nat × Bool)
  parts : Tab Part
  host : HostSide
  boot : Boot
  flash : Flash
  pins : Pins
  cinch : Cinch
  mf : Mf
  deriving DecidableEq, Repr

/-- Machine stops. The part's own faults (program faults, grant faults, poison) are effects on the state;
the one thing that stops the model is a command that names a unit the part does not have. -/
inductive Fault where
  /-- Raised by any command that names a core, die, link, stack, port or partition number beyond the
  package's own (R8, R10, R370). Safe: no hardware step has such an address. -/
  | noSuchUnit (kind : String) (n : Nat)
  deriving DecidableEq, Repr

/-- Commands with no effect to give. -/
inductive Refusal where
  /-- Answered only by an arm of exec that has no meaning yet. Safe. -/
  | notModelled (mnemonic : String)
  /-- Answered by an instruction command whose words are those of another instruction. Safe. -/
  | otherInstruction
  deriving DecidableEq, Repr

/-! ### Fresh entries -/

def Thread.fresh (pc : DWord) : Thread := ⟨[], 1, 0, pc, false, .none, 0⟩

def AccSet.fresh : AccSet := ⟨none, false, false, [], 0, 0⟩

def Core.fresh : Core := ⟨[], [], [], none, [], [], none, [], [], [], [], 0, 0, 0, []⟩

def MapEnt.fresh : MapEnt := ⟨none, false⟩

def PhysSt.fresh : PhysSt := ⟨0, false, 0⟩

def Die.fresh : Die where
  pwrEn := false
  setpoint := 0
  powered := false
  fwOk := false
  fwTries := 0
  failed := false
  failedService := false
  wedged := false
  silent := 0
  wedgedFor := 0
  seen := none
  powerLost := false
  lostRec := false
  testBad := []
  testsDone := false
  mapBuilt := false
  spares := []
  ways := 16
  phys := []
  atoms := []
  shadow := []
  shadowBad := none
  reloading := false
  shadowGen := 0
  fill := []
  keyEpoch := 0
  keyed := false

def MemUnit.fresh : MemUnit where
  present := false
  settled := false
  trained := false
  insvc := false
  leave := false
  retrain := false
  retrainFailed := false
  hot := false
  serial := 0
  temp := 0
  hppr := 0
  saved := false
  poison := []
  allPoison := false
  remap := []
  copies := []
  pcRet := 0
  level := []
  lastErr := []
  scrub := 0
  spdOk := false
  gb := 0
  spdMax := 0
  grades := []
  grade := 0
  mfr := 0
  overTemp := false
  dropRec := false

def Link.fresh : Link where
  st := .off
  since := 0
  lanes := 0
  laneRet := 0
  miswired := false
  saved := false
  settings := []
  peerPkg := 0
  peerLink := 0
  dist := 255
  delayT := 0
  nextTx := 0
  nextRx := 0
  lastAck := 0xFFF
  replay := []
  nakPend := false
  badRun := 0
  level := []
  credits := [32, 32, 32, 32]
  lent := [0, 0, 0, 0]
  queue := []
  served := 0
  synced := false
  module := none
  rejected := false
  appSel := 0
  sync := none
  retrainPend := false
  exSent := 0

def Resv.fresh : Resv := ⟨false, 0, 0⟩

def Exch.fresh : Exch where
  step := 0
  start := 0
  active := false
  decided := false
  stepPend := none
  armPend := false
  armed := false
  plan := []
  lists := []
  res := []
  resPend := []
  gates := []
  localWord := 0
  frozen := false
  frozenWord := 0
  final := none
  finalBeat := 0
  finalLatched := 0
  hups := []
  clean := false
  unsure := false
  hLate := false
  late := false
  missing := false
  badEntry := false
  entry := 0
  recorded := []
  lateBeats := []
  txDigest := []
  rxDigest := []
  sentDigest := []
  mismatch := false
  checkFail := false
  misSrc := 0
  misEntry := 0
  got := []
  skipped := []
  beatsDone := []
  wrote := []
  decideOff := 0
  overStep := false
  spent := false

def PgLatch.fresh : PgLatch := ⟨0, 0, 0, 0, 0, 0, 0, 0⟩

def Upd.fresh : Upd where
  armed := false
  entries := []
  running := false
  committed := false
  skipped := false
  fault := false
  reverted := false
  held := false
  badEntry := false
  late := false
  entry := 0
  step := 0
  launched := 0
  ended := 0
  cancel := false
  disarmAtEnd := false
  revertPend := none
  launchBeat := 0
  latched := []
  tnew := []
  advanced := []
  runStep := 0
  runFault := false
  tsat := []

def Part.fresh : Part where
  st := .free
  size := 0
  tenant := none
  session := none
  keys := false
  linkKey := 0
  peersIn := false
  peers := []
  epoch := 0
  locked := false
  startPend := none
  resetPend := none
  toFree := false
  scrubbed := false
  wedgedErase := false
  eraseReport := none
  ztsc := 0
  stsc := 0
  hbmSet := []
  lpxSet := []
  hbmSize := 0
  lpxSize := 0
  windows := []
  grants := []
  owed := []
  nextUid := 0
  stepping := 0
  stepLate := false
  head := 0
  phase := false
  badCfg := false
  unreadSlot := none
  unreadCons := false
  cplCount := 0
  cplHeld := []
  full := false
  nrgFull := false
  priv := []
  ex := Exch.fresh
  upd := Upd.fresh
  txCtr := []
  rxCtr := []
  deadFlows := []

def Hub.fresh : Hub := ⟨false, false, false, 0, 0⟩

def Boot.fresh : Boot where
  rstN := false
  pgBoard := true
  straps := 0
  pll := false
  phase := .selfTest
  hub0 := Hub.fresh
  hub1 := Hub.fresh
  h1Primary := false
  fuse := none
  diverge := false
  h0Read := false
  h1Read := false
  disagree := 0
  image := none
  coreImageOk := false
  fwminRaised := false
  firmware := false
  katDone := false
  katFirst := []
  gen := 0
  genBeat := none
  ready := false
  degraded := false
  fastStart := false
  readyMs := 0
  full := []
  fast := []
  fell := []
  due := []
  fwStops := false
  descBad := false

def Flash.blank : Flash := ⟨none, [], false, none, [], false, [], 0, 0, [], [], [], none⟩

def Log.fresh : Log := ⟨[], [], [], 0, 0, [], false⟩

def Time.fresh : Time := ⟨0, false, false, false, 0, 0, 0⟩

/-- Reset values of chapter 19's maps: cap 2,000 W, fast limit 600 W, margin 20 W, clock 2,000 MHz. -/
def Cinch.fresh : Cinch where
  cap := 0x7D0
  fast := 0x258
  ctrl := 0x1400
  capNext := 0x7D0
  fastNext := 0x258
  ctrlNext := 0x1400
  gated := []
  ptr := []
  overdraw := false
  late := false
  fastIn := false
  spent := false
  overbeats := 0
  floor := 0
  est := 0
  mhz := 0x7D0
  scale := 0x1000
  notel := false
  boardW := 0

def Mf.fresh : Mf where
  lastOp := 0
  lastPart := 0
  lastUs := 0
  tripped := false
  hottest := 0
  areaFull := false
  late := false
  pending := []
  mapDiverged := false
  rebuild := false
  moves := []
  dueField := []
  dueRemap := []
  dueLpx := []
  busFail := []
  bridgeCrc := []
  bridgeDue := []
  bridgeSpare := []
  leaked := []
  trips := []
  roundBeat := 0
  decideBeat := 0
  telFail := []

def HostSide.fresh : HostSide := ⟨[], 1, [], [], [], 0, none, [], [], [], none, false⟩

def Pins.fresh : Pins := ⟨false, false, false, false⟩

/-- The state after a package cold reset with the given board flash: everything else is cleared (R456). -/
def State.cold (f : Flash) (q : List Instr) (o : List Out) (n : Nat) : State where
  pending := q
  out := o
  freeCtr := n
  time := Time.fresh
  latches := []
  regs := []
  log := Log.fresh
  map := []
  cores := []
  dies := []
  mems := []
  mem := []
  links := []
  inbox := []
  exchIn := []
  noticeIn := []
  farUp := false
  routeUp := []
  noticed := []
  parts := []
  host := HostSide.fresh
  boot := Boot.fresh
  flash := f
  pins := Pins.fresh
  cinch := Cinch.fresh
  mf := Mf.fresh

/-- The part right after package cold reset, with an unwritten board flash (notes/assumptions/4). -/
def State.reset : State := State.cold Flash.blank [] [] 0

end Sys2Proof.Machine
end

