-- ==== Sys2Proof/Machine/Bits.lean ====
section
/-! DEFINITION. Bit fields, sign extension, bytes and lines. Every multi-byte value of the part is little
endian: byte 0 of a word, a record or a line holds its low bits (R13, R35, R215). -/

namespace Sys2Proof.Machine

/-- Bits [hi:lo] of a word as a number. -/
def bits {n : Nat} (w : BitVec n) (hi lo : Nat) : Nat := w.toNat / 2 ^ lo % 2 ^ (hi + 1 - lo)

/-- Bit `i` of a number. -/
def nbit (v i : Nat) : Bool := v / 2 ^ i % 2 == 1

/-- A word from its fields: the low bit and the value of each. -/
def word (fs : List (Nat × Nat)) : Nat := fs.foldl (fun a f => a + f.2 * 2 ^ f.1) 0

/-- `w` with bits [hi:lo] replaced by the low bits of `v`. -/
def setBits {n : Nat} (w : BitVec n) (hi lo v : Nat) : BitVec n :=
  let m : Nat := (2 ^ (hi + 1 - lo) - 1) * 2 ^ lo
  (w &&& ~~~(BitVec.ofNat n m)) ||| BitVec.ofNat n (v % 2 ^ (hi + 1 - lo) * 2 ^ lo)

/-- `w` with bit `i` set to `b`. -/
def setBit {n : Nat} (w : BitVec n) (i : Nat) (b : Bool) : BitVec n := setBits w i i b.toNat

/-- A number of `n` bits read as two's complement. -/
def toSigned (n v : Nat) : Int :=
  let u := v % 2 ^ n
  if u < 2 ^ (n - 1) then (u : Int) else (u : Int) - (2 ^ n : Nat)

/-- An integer narrowed to `n` bits, two's complement. -/
def ofSigned (n : Nat) (v : Int) : Nat := (v % ((2 ^ n : Nat) : Int)).toNat

/-- An `n`-bit number sign-extended to 64 bits. -/
def sext64 (n v : Nat) : DWord := BitVec.ofInt 64 (toSigned n v)

/-- The number that bytes spell, byte 0 lowest. -/
def leNat : List Byte → Nat
  | [] => 0
  | b :: bs => b.toNat + 256 * leNat bs

/-- The `n` low bytes of a number, byte 0 first. -/
def natLe : Nat → Nat → List Byte
  | 0, _ => []
  | n + 1, v => BitVec.ofNat 8 v :: natLe n (v / 256)

/-- Byte `i` of a line. -/
def lineByte (l : Line) (i : Nat) : Byte := l.extractLsb' (8 * i) 8

/-- The bytes of a line, byte 0 first. -/
def lineBytes (l : Line) : List Byte := (List.range 64).map (lineByte l)

/-- The line that at most 64 bytes spell. -/
def bytesLine (bs : List Byte) : Line := BitVec.ofNat 512 (leNat bs)

/-- Widens a byte mask (bit i for byte i) to a bit mask. -/
def maskLine (m : DWord) : Line :=
  bytesLine ((List.range 64).map fun i => if m.getLsbD i then 0xFF else 0)

/-- `old` with the bytes of `new` that the mask names. -/
def lineMerge (old new : Line) (m : DWord) : Line :=
  (old &&& ~~~(maskLine m)) ||| (new &&& maskLine m)

/-- The address of the line that holds an address. -/
def lineOf (a : DWord) : DWord := setBits a 5 0 0

/-- The offset of an address within its line. -/
def lineOff (a : DWord) : Nat := bits a 5 0

/-- The byte mask of `n` bytes from offset `o`. -/
def spanMask (o n : Nat) : DWord := BitVec.ofNat 64 ((2 ^ n - 1) * 2 ^ o)

/-- Ones in a number of at most `n` bits. -/
def popCount : Nat → Nat → Nat
  | 0, _ => 0
  | n + 1, v => v % 2 + popCount n (v / 2)

/-- The numbers below `n` that a mask names. -/
def maskList (n v : Nat) : List Nat := (List.range n).filter (nbit v)

/-- The mask that a list of bit numbers spells. -/
def listMask (l : List Nat) : Nat := l.eraseDups.foldl (fun a i => a + 2 ^ i) 0

/-- Smallest k with 2^k no less than `n` (at most `fuel`). -/
def ceilLog2 (n : Nat) : Nat := if n ≤ 1 then 0 else (n - 1).log2 + 1

/-- ⌈a / b⌉. -/
def ceilDiv (a b : Nat) : Nat := (a + b - 1) / b

end Sys2Proof.Machine
end

