-- ==== Sys2Proof/Machine/Float.lean ====
section
/-! DEFINITION. Number formats, exact values, rounding and conversion (R94 to R109), the functions of
R183 to R186, and Philox (R110). A finite value is kept exactly, as sign × mantissa × 2^exponent. -/

namespace Sys2Proof.Machine

/-! ### Formats (R94, R95) -/

/-- A floating-point element format. `maxCode` is the encoding of the largest finite value. -/
structure Fmt where
  width : Nat
  mbits : Nat
  bias : Nat
  maxCode : Nat
  /-- Encoding of +infinity, where the format has one. -/
  inf : Option Nat
  /-- The canonical NaN, where the format has one. -/
  nan : Option Nat
  deriving DecidableEq, Repr

def fp32 : Fmt := ⟨32, 23, 127, 0x7F7F_FFFF, some 0x7F80_0000, some 0x7FC0_0000⟩
def bf16 : Fmt := ⟨16, 7, 127, 0x7F7F, some 0x7F80, some 0x7FC0⟩
def fp16 : Fmt := ⟨16, 10, 15, 0x7BFF, some 0x7C00, some 0x7E00⟩
def e4m3 : Fmt := ⟨8, 3, 7, 0x7E, none, some 0x7F⟩
def e5m2 : Fmt := ⟨8, 2, 15, 0x7B, some 0x7C, some 0x7E⟩
def e2m3 : Fmt := ⟨6, 3, 1, 0x1F, none, none⟩
def e3m2 : Fmt := ⟨6, 2, 3, 0x1F, none, none⟩
def e2m1 : Fmt := ⟨4, 1, 1, 0x7, none, none⟩

/-- What a format code names: a float, or an integer times 2^-step. -/
inductive Elem where
  | float (f : Fmt)
  | int (step : Nat)
  deriving DecidableEq, Repr

/-- The element format of a code; codes 0xC to 0xF are reserved (R94). -/
def elemOf : Nat → Option Elem
  | 0x0 => some (.float fp32)
  | 0x1 => some (.float bf16)
  | 0x2 => some (.float fp16)
  | 0x3 | 0x5 => some (.float e4m3)
  | 0x4 | 0x6 => some (.float e5m2)
  | 0x7 => some (.float e2m3)
  | 0x8 => some (.float e3m2)
  | 0x9 => some (.float e2m1)
  | 0xA => some (.int 6)
  | 0xB => some (.int 0)
  | _ => none

/-- Element width in bits. -/
def elemBits : Nat → Nat
  | 0x0 => 32
  | 0x1 | 0x2 => 16
  | 0x7 | 0x8 => 6
  | 0x9 => 4
  | _ => 8

/-- The MX formats are codes 0x5 to 0xA. -/
def isMx (c : Nat) : Bool := 5 ≤ c && c ≤ 10

/-! ### Values -/

/-- A value: NaN, an infinity, or exactly ±m × 2^e. -/
inductive FVal where
  | nan
  | inf (neg : Bool)
  | fin (neg : Bool) (m : Nat) (e : Int)
  deriving DecidableEq, Repr

def FVal.zero (neg : Bool) : FVal := .fin neg 0 0

def FVal.isZero : FVal → Bool
  | .fin _ 0 _ => true
  | _ => false

def FVal.isNan : FVal → Bool
  | .nan => true
  | _ => false

def FVal.isFin : FVal → Bool
  | .fin _ _ _ => true
  | _ => false

def FVal.neg : FVal → FVal
  | .nan => .nan
  | .inf n => .inf !n
  | .fin n m e => .fin (!n) m e

def FVal.sign : FVal → Bool
  | .nan => false
  | .inf n => n
  | .fin n _ _ => n

/-- Reads a floating-point encoding (R94). -/
def Fmt.decode (f : Fmt) (code : Nat) : FVal :=
  let c := code % 2 ^ f.width
  let neg := c / 2 ^ (f.width - 1) == 1
  let mag := c % 2 ^ (f.width - 1)
  let ex := mag / 2 ^ f.mbits
  let man := mag % 2 ^ f.mbits
  if some mag = f.inf then .inf neg
  else if f.maxCode < mag then .nan
  else if ex = 0 then .fin neg man ((1 : Int) - f.bias - f.mbits)
  else .fin neg (man + 2 ^ f.mbits) ((ex : Int) - f.bias - f.mbits)

/-- Reads an element of a format code. -/
def Elem.decode (k : Elem) (code : Nat) : FVal :=
  match k with
  | .float f => f.decode code
  | .int step =>
    let v := toSigned 8 code
    .fin (v < 0) v.natAbs (-(step : Int))

/-- ±m × 2^e as an integer multiple of 2^lo (lo no more than e). -/
def atExp (neg : Bool) (m : Nat) (e lo : Int) : Int :=
  let v : Int := (m * 2 ^ (e - lo).toNat : Nat)
  if neg then -v else v

/-- The value n × 2^e. -/
def FVal.ofInt (n e : Int) : FVal := .fin (n < 0) n.natAbs e

/-! ### Flags (R184, R187) -/

def fNX : Nat := 1
def fUF : Nat := 2
def fOF : Nat := 4
def fDZ : Nat := 8
def fNV : Nat := 16
def fASAT : Nat := 32
def fANF : Nat := 64
def fSDROP : Nat := 128
def fIRANGE : Nat := 256
def fBTILE : Nat := 512
def fTFULL : Nat := 1024
def fLNF : Nat := 2048

/-! ### Rounding (R100, R101, R105) -/

/-- How a conversion rounds: to nearest even, or stochastically with field `r` of `w` bits. -/
inductive Rnd where
  | even
  | stoch (w r : Nat)
  deriving DecidableEq, Repr

/-- m × 2^e divided by 2^u and rounded: the multiple, and whether it is inexact. -/
def roundAt (r : Rnd) (m : Nat) (e u : Int) : Nat × Bool :=
  if u ≤ e then (m * 2 ^ (e - u).toNat, false)
  else
    let s := (u - e).toNat
    let q := m / 2 ^ s
    let rem := m % 2 ^ s
    if rem = 0 then (q, false)
    else match r with
      | .even =>
        let up := 2 ^ s < 2 * rem || (2 ^ s == 2 * rem && q % 2 == 1)
        (if up then q + 1 else q, true)
      | .stoch w x => (if 2 ^ w ≤ rem * 2 ^ w / 2 ^ s + x then q + 1 else q, true)

/-- The encoding of the magnitude q × 2^u, as though the exponent range continued. -/
def Fmt.encodeMag (f : Fmt) (q : Nat) (u : Int) : Nat :=
  let (q, u) := if q = 2 ^ (f.mbits + 1) then (2 ^ f.mbits, u + 1) else (q, u)
  if q < 2 ^ f.mbits then q
  else (u + f.mbits + f.bias).toNat * 2 ^ f.mbits + (q - 2 ^ f.mbits)

/-- A sign put above a magnitude's encoding. -/
def Fmt.withSign (f : Fmt) (neg : Bool) (mag : Nat) : Nat :=
  if neg then mag + 2 ^ (f.width - 1) else mag

/-- What an overflow writes (R101): `mx` for a destination within an MX block. -/
def Fmt.overflow (f : Fmt) (mx sat neg : Bool) : Nat :=
  if mx || sat then f.withSign neg f.maxCode
  else match f.inf with
    | some i => f.withSign neg i
    | none => match f.nan with
      | some n => n
      | none => f.withSign neg f.maxCode

/-- Rounds ±m × 2^e (m > 0) to a format: the encoding and the flags OF, UF and NX (R100, R101, R103). -/
def Fmt.round (f : Fmt) (r : Rnd) (mx sat neg : Bool) (m : Nat) (e : Int) : Nat × Nat :=
  let top : Int := (m.log2 : Int) + e
  let emin : Int := 1 - f.bias
  let u := max top emin - f.mbits
  let (q, inexact) := roundAt r m e u
  let mag := f.encodeMag q u
  if f.maxCode < mag then (f.overflow mx sat neg, fOF + fNX)
  else (f.withSign neg mag, if inexact then fNX + (if top < emin then fUF else 0) else 0)

/-- Converts a value to an integer format with a step of 2^-step (R101, R102): −128 to 127 steps. -/
def roundInt8 (r : Rnd) (step : Nat) (neg : Bool) (m : Nat) (e : Int) : Nat × Nat :=
  let (q, inexact) := roundAt r m e (-(step : Int))
  let v : Int := if neg then -(q : Int) else q
  if v < -128 then (0x80, fOF + fNX)
  else if 127 < v then (0x7F, fOF + fNX)
  else (ofSigned 8 v, if inexact then fNX else 0)

/-- A conversion of a value to an element (R100 to R105): encoding and report. -/
def convert (d : Elem) (r : Rnd) (mx sat : Bool) (v : FVal) : Nat × Nat :=
  match d, v with
  | .float f, .nan => match f.nan with
    | some n => (n, 0)
    | none => (0, fNV)
  | .int _, .nan => (0, fNV)
  | .float f, .inf n =>
    let c := f.overflow mx sat n
    (c, if f.inf = some (c % 2 ^ (f.width - 1)) then 0 else fNV)
  | .int _, .inf n => (if n then 0x80 else 0x7F, fNV)
  | .float f, .fin n 0 _ => (f.withSign n 0, 0)
  | .int _, .fin _ 0 _ => (0, 0)
  | .float f, .fin n m e => f.round r mx sat n m e
  | .int step, .fin n m e => roundInt8 r step n m e

/-- Rounds an arithmetic result to a format (R183, R184). -/
def Fmt.result (f : Fmt) (v : FVal) : Nat × Nat := convert (.float f) .even false false v

/-! ### Exact arithmetic (R183, R184): the value and the NV and DZ reports -/

/-- Sum of two addends; an exact zero is +0 unless every addend is −0. -/
def FVal.add (a b : FVal) : FVal × Nat :=
  match a, b with
  | .nan, _ | _, .nan => (.nan, 0)
  | .inf x, .inf y => if x = y then (.inf x, 0) else (.nan, fNV)
  | .inf x, .fin _ _ _ => (.inf x, 0)
  | .fin _ _ _, .inf y => (.inf y, 0)
  | .fin n m e, .fin n' m' e' =>
    let lo := min e e'
    let v := atExp n m e lo + atExp n' m' e' lo
    if v = 0 then (.zero (m = 0 ∧ m' = 0 ∧ n ∧ n'), 0) else (.ofInt v lo, 0)

def FVal.mul (a b : FVal) : FVal × Nat :=
  match a, b with
  | .nan, _ | _, .nan => (.nan, 0)
  | .inf x, .inf y => (.inf (x != y), 0)
  | .inf x, .fin n m _ | .fin n m _, .inf x => if m = 0 then (.nan, fNV) else (.inf (x != n), 0)
  | .fin n m e, .fin n' m' e' => (.fin (n != n') (m * m') (e + e'), 0)

/-- a × b + c with no rounding between. -/
def FVal.fma (a b c : FVal) : FVal × Nat :=
  if a.isNan || b.isNan || c.isNan then (.nan, 0)
  else
    let (p, f) := FVal.mul a b
    if f ≠ 0 then (.nan, f) else FVal.add p c

/-- Bits of precision kept where a result is not a dyadic number; the lowest bit is then set, which keeps
the value on the right side of every rounding boundary. -/
def guardBits : Nat := 400

/-- The quotient of two positive numbers times 2^-guardBits, odd where inexact. -/
def sticky (q : Nat) (exact : Bool) (e : Int) (neg : Bool) : FVal :=
  .fin neg (2 * q + (if exact then 0 else 1)) (e - 1)

def FVal.div (a b : FVal) : FVal × Nat :=
  let neg := a.sign != b.sign
  match a, b with
  | .nan, _ | _, .nan => (.nan, 0)
  | .inf _, .inf _ => (.nan, fNV)
  | .inf _, .fin _ _ _ => (.inf neg, 0)
  | .fin _ _ _, .inf _ => (.zero neg, 0)
  | .fin _ m e, .fin _ m' e' =>
    if m' = 0 then (if m = 0 then (.nan, fNV) else (.inf neg, fDZ))
    else if m = 0 then (.zero neg, 0)
    else
      let n := m * 2 ^ guardBits
      (sticky (n / m') (n % m' == 0) (e - e' - guardBits) neg, 0)

/-- Largest r of at most `bits` bits with r × r no more than n. -/
def isqrt (n : Nat) : Nat → Nat → Nat
  | 0, r => r
  | k + 1, r => isqrt n k (if (r + 2 ^ k) * (r + 2 ^ k) ≤ n then r + 2 ^ k else r)

/-- Square root (R185). -/
def FVal.sqrt (a : FVal) : FVal × Nat :=
  match a with
  | .nan => (.nan, 0)
  | .inf n => if n then (.nan, fNV) else (.inf false, 0)
  | .fin n m e =>
    if m = 0 then (.zero n, 0)
    else if n then (.nan, fNV)
    else
      let (m, e) := if e % 2 = 0 then (m, e) else (2 * m, e - 1)
      let x := m * 2 ^ (2 * guardBits)
      let r := isqrt x (guardBits + 16) 0
      (sticky r (r * r == x) (e / 2 - guardBits) false, 0)

/-- 1 / √a (R185). -/
def FVal.rsqrt (a : FVal) : FVal × Nat :=
  match a with
  | .nan => (.nan, 0)
  | .inf n => if n then (.nan, fNV) else (.zero false, 0)
  | .fin n m e =>
    if m = 0 then (.inf n, fDZ)
    else if n then (.nan, fNV)
    else
      let (m, e) := if e % 2 = 0 then (m, e) else (2 * m, e - 1)
      let r := isqrt (2 ^ (2 * guardBits) / m) (guardBits + 1) 0
      (sticky r (r * r * m == 2 ^ (2 * guardBits)) (-(e / 2) - guardBits) false, 0)

/-- 1 / a (R185). -/
def FVal.rcp (a : FVal) : FVal × Nat := FVal.div (.fin false 1 0) a

/-- ln 2 × 2^400, rounded down. -/
def ln2Scaled : Nat := 0xb17217f7d1cf79abc9e3b39803f2f6af40f343267298b62d8a0d175b8baafa2be7b876206debac98559552fb4afa1b10ed2e

/-- Taylor sum of e^x for x / 2^guardBits below 1, `k` from the term number onwards. -/
def expTerms (x : Nat) : Nat → Nat → Nat → Nat → Nat
  | 0, _, _, acc => acc
  | fuel + 1, k, term, acc =>
    let t := term * x / 2 ^ guardBits / k
    expTerms x fuel (k + 1) t (acc + t)

/-- 2^a (R185). Outside −2,000 to 2,000 the value stands for any beyond every format's range. -/
def FVal.exp2 (a : FVal) : FVal × Nat :=
  match a with
  | .nan => (.nan, 0)
  | .inf n => (if n then .zero false else .inf false, 0)
  | .fin n m e =>
    if m = 0 then (.fin false 1 0, 0)
    else if 11 ≤ (m.log2 : Int) + e then (.fin false 1 (if n then -4000 else 4000), 0)
    else
      let lo := min e 0
      let v := atExp n m e lo
      let k := (-lo).toNat
      let whole := v / (2 ^ k : Nat)
      let frac := (v % (2 ^ k : Nat)).toNat
      if frac = 0 then (.fin false 1 whole, 0)
      else
        let x := frac * ln2Scaled / 2 ^ k
        (sticky (expTerms x 90 1 (2 ^ guardBits) (2 ^ guardBits)) false (whole - guardBits) false, 0)

/-- The bits of log2 of x / 2^p (x / 2^p from 1 up to 2), by repeated squaring. -/
def logBits (p : Nat) : Nat → Nat → Nat → Nat
  | 0, _, acc => acc
  | fuel + 1, x, acc =>
    let y := x * x / 2 ^ p
    if 2 ^ (p + 1) ≤ y then logBits p fuel (y / 2) (2 * acc + 1) else logBits p fuel y (2 * acc)

/-- log2 a (R185): 160 fraction bits from a working precision of 512. -/
def FVal.log2 (a : FVal) : FVal × Nat :=
  match a with
  | .nan => (.nan, 0)
  | .inf n => if n then (.nan, fNV) else (.inf false, 0)
  | .fin n m e =>
    if m = 0 then (.inf true, fDZ)
    else if n then (.nan, fNV)
    else
      let t := m.log2
      let ex : Int := (t : Int) + e
      if m = 2 ^ t then (.ofInt ex 0, 0)
      else
        let f := logBits 512 160 (m * 2 ^ (512 - t)) 0
        let v : Int := ex * (2 ^ 160 : Nat) + f
        if 0 ≤ v then (sticky v.toNat false (-160) false, 0)
        else (sticky (-v - 1).toNat false (-160) true, 0)

/-! ### Comparison, minimum and maximum (R78, R186) -/

/-- a < b, a = b for values that are not NaN. -/
def FVal.lt (a b : FVal) : Bool :=
  match a, b with
  | .nan, _ | _, .nan => false
  | .inf x, .inf y => x && !y
  | .inf x, .fin _ _ _ => x
  | .fin _ _ _, .inf y => !y
  | .fin n m e, .fin n' m' e' =>
    let lo := min e e'
    decide (atExp n m e lo < atExp n' m' e' lo)

def FVal.eq (a b : FVal) : Bool := !a.isNan && !b.isNan && !FVal.lt a b && !FVal.lt b a

/-- Order for min and max: −0 below +0. -/
def FVal.below (a b : FVal) : Bool :=
  FVal.lt a b || (a.isZero && b.isZero && a.sign && !b.sign)

/-! ### Philox-4×32-10 (R110) -/

/-- One round on the counter with the round's key. -/
def philoxRound (c : Word × Word × Word × Word) (k0 k1 : Word) : Word × Word × Word × Word :=
  let p0 := 0xD251_1F53 * c.1.toNat
  let p1 := 0xCD9E_8D57 * c.2.2.1.toNat
  let hi (p : Nat) : Word := BitVec.ofNat 32 (p / 2 ^ 32)
  let lo (p : Nat) : Word := BitVec.ofNat 32 p
  (hi p1 ^^^ c.2.1 ^^^ k0, lo p1, hi p0 ^^^ c.2.2.2 ^^^ k1, lo p0)

def philoxRounds : Nat → Word × Word × Word × Word → Word → Word → Word × Word × Word × Word
  | 0, c, _, _ => c
  | n + 1, c, k0, k1 => philoxRounds n (philoxRound c k0 k1) (k0 + 0x9E37_79B9) (k1 + 0xBB67_AE85)

/-- The four output words for a key and a counter. -/
def philox (k0 k1 c0 c1 c2 c3 : Word) : List Word :=
  let x := philoxRounds 10 (c0, c1, c2, c3) k0 k1
  [x.1, x.2.1, x.2.2.1, x.2.2.2]

end Sys2Proof.Machine
end

