-- ==== Sys2Proof/Machine/Tab.lean ====
section
/-! DEFINITION. Sparse tables sorted by key. -/

namespace Sys2Proof.Machine

/-- The entry of a key, if the table lists one. -/
def Tab.find {α : Type} : Tab α → Nat → Option α
  | [], _ => none
  | (k, v) :: t, n => if k = n then some v else Tab.find t n

/-- The entry of a key, or the table's default. -/
def Tab.get {α : Type} (t : Tab α) (n : Nat) (d : α) : α := (Tab.find t n).getD d

/-- The table with a key set; keys stay rising. -/
def Tab.put {α : Type} : Tab α → Nat → α → Tab α
  | [], n, v => [(n, v)]
  | (k, w) :: t, n, v =>
    if n < k then (n, v) :: (k, w) :: t
    else if n = k then (n, v) :: t
    else (k, w) :: Tab.put t n v

/-- The table without a key. -/
def Tab.del {α : Type} (t : Tab α) (n : Nat) : Tab α := t.filter fun e => e.1 != n

/-- The table with a key's entry (or the default) changed. -/
def Tab.upd {α : Type} (t : Tab α) (n : Nat) (d : α) (f : α → α) : Tab α :=
  Tab.put t n (f (Tab.get t n d))

/-- The table with a key's entry changed, where it lists one. -/
def Tab.modify {α : Type} (t : Tab α) (n : Nat) (f : α → α) : Tab α :=
  t.map fun e => if e.1 = n then (e.1, f e.2) else e

/-- The table with every entry changed. -/
def Tab.mapAll {α : Type} (t : Tab α) (f : α → α) : Tab α := t.map fun e => (e.1, f e.2)

/-- Lowest number below `bound` that the table does not list. -/
def Tab.free {α : Type} (t : Tab α) (bound : Nat) : Option Nat :=
  (List.range bound).find? fun k => (Tab.find t k).isNone

/-- Keys rise strictly. -/
def Tab.sorted {α : Type} : Tab α → Bool
  | [] => true
  | [_] => true
  | (a, _) :: (b, w) :: t => decide (a < b) && Tab.sorted ((b, w) :: t)

/-- The lowest `n` numbers below `bound` that are not in `used`. -/
def lowestFree (bound n : Nat) (used : List Nat) : List Nat :=
  ((List.range bound).filter fun k => !used.contains k).take n

end Sys2Proof.Machine
end

