-- ==== Sys2Proof/Machine/Ops.lean ====
section
/-! DEFINITION. How a command answers, and the lenses through which every meaning reads and writes the
state's tables. -/

namespace Sys2Proof.Machine

/-- The answer of a command. -/
abbrev Res := Host.Outcome State Fault Refusal

/-- The command's event can occur only where `b` holds; elsewhere it does not occur and nothing changes
(notes/assumptions/12). -/
@[inline] def need (s : State) (b : Bool) (k : Res) : Res :=
  if b then k else .next s

/-- The command names unit `n` of the `bound` units of a kind (R8, R10). -/
@[inline] def needUnit (kind : String) (n bound : Nat) (k : Res) : Res :=
  if n < bound then k else .fault (.noSuchUnit kind n)

/-- The command's event needs a value that the state may not hold; without it the event does not occur. -/
@[inline] def needSome {α : Type} (s : State) (o : Option α) (k : α → Res) : Res :=
  match o with
  | some a => k a
  | none => .next s

/-- The command is the event of tick `t`: one that lies ahead in this beat is reached first, one beyond the next boundary
cannot come yet (R25, R30). -/
@[inline] def needTick (s : State) (t : Nat) (k : State → Res) : Res :=
  if t ≤ s.time.tsc.toNat then k s
  else if t < (s.time.tsc.toNat / 2048 + 1) * 2048 then k { s with time := { s.time with tsc := BitVec.ofNat 64 t } }
  else .next s

/-! ### Lenses -/

def State.core (s : State) (c : Nat) : Core := s.cores.get c Core.fresh
def State.setCore (s : State) (c : Nat) (v : Core) : State := { s with cores := s.cores.put c v }
def State.updCore (s : State) (c : Nat) (f : Core → Core) : State := s.setCore c (f (s.core c))

def State.die (s : State) (d : Nat) : Die := s.dies.get d Die.fresh
def State.setDie (s : State) (d : Nat) (v : Die) : State := { s with dies := s.dies.put d v }
def State.updDie (s : State) (d : Nat) (f : Die → Die) : State := s.setDie d (f (s.die d))

/-- Stack `n` (0 to 15) or module `n - 0x10` (0x10 to 0x17). -/
def State.memUnit (s : State) (n : Nat) : MemUnit := s.mems.get n MemUnit.fresh
def State.setMemUnit (s : State) (n : Nat) (v : MemUnit) : State := { s with mems := s.mems.put n v }
def State.updMemUnit (s : State) (n : Nat) (f : MemUnit → MemUnit) : State :=
  s.setMemUnit n (f (s.memUnit n))

def State.link (s : State) (l : Nat) : Link := s.links.get l Link.fresh
def State.setLink (s : State) (l : Nat) (v : Link) : State := { s with links := s.links.put l v }
def State.updLink (s : State) (l : Nat) (f : Link → Link) : State := s.setLink l (f (s.link l))

def State.part (s : State) (p : Nat) : Part := s.parts.get p Part.fresh
def State.setPart (s : State) (p : Nat) (v : Part) : State := { s with parts := s.parts.put p v }
def State.updPart (s : State) (p : Nat) (f : Part → Part) : State := s.setPart p (f (s.part p))

def State.updEx (s : State) (p : Nat) (f : Exch → Exch) : State :=
  s.updPart p fun q => { q with ex := f q.ex }
def State.updUpd (s : State) (p : Nat) (f : Upd → Upd) : State :=
  s.updPart p fun q => { q with upd := f q.upd }
def State.updMf (s : State) (f : Mf → Mf) : State := { s with mf := f s.mf }
def State.updHost (s : State) (f : HostSide → HostSide) : State := { s with host := f s.host }
def State.updBoot (s : State) (f : Boot → Boot) : State := { s with boot := f s.boot }
def State.updFlash (s : State) (f : Flash → Flash) : State := { s with flash := f s.flash }

def State.block (s : State) (c b : Nat) : Option Block := (s.core c).blocks.find b
def State.setBlock (s : State) (c b : Nat) (v : Block) : State :=
  s.updCore c fun k => { k with blocks := k.blocks.put b v }
def State.updBlock (s : State) (c b : Nat) (f : Block → Block) : State :=
  s.updCore c fun k => { k with blocks := k.blocks.modify b f }
def State.group (s : State) (c g : Nat) : Option Group := (s.core c).groups.find g
def State.setGroup (s : State) (c g : Nat) (v : Group) : State :=
  s.updCore c fun k => { k with groups := k.groups.put g v }
def State.updGroup (s : State) (c g : Nat) (f : Group → Group) : State :=
  s.updCore c fun k => { k with groups := k.groups.modify g f }

/-- The block of a group's slot. -/
def State.blockOfGroup (s : State) (c g : Nat) : Option (Nat × Block) :=
  match s.group c g with
  | some k => (s.block c k.bslot).map fun b => (k.bslot, b)
  | none => none

/-- A core's engines run a group's work: its core is not gated, or its block is stopped for a seam, which completes
(R435; notes/assumptions/158). -/
def State.engineOn (s : State) (c g : Nat) : Bool :=
  !s.cinch.gated.contains c || (s.blockOfGroup c g).any fun e => e.2.phase != .run

/-- The session in whose ESP packets an output leaves (R358, R359). -/
def HostSide.outSess (h : HostSide) : Out → Option Nat
  | .value (.session n) _ _ | .ok n | .refused n | .qpn n _ | .report n _ _ | .records n _ | .token n _ | .privReply n _
  | .privDone n _ => some n
  | .cnp q | .rdmaAck q | .rdmaNak q _ | .rdmaData q _ | .rdmaWriteOut q _ _ _ _ | .rdmaReadOut q _ _ =>
    (h.qps.find q).map (·.sess)
  | _ => none

/-- The port on which an output leaves, where it is a port's, and its frames there: RDMA data take one for each path MTU. -/
def HostSide.outPort (h : HostSide) : Out → Option (Nat × Nat)
  | .reply k _ _ _ _ _ _ | .accept k _ _ _ | .refuse k _ | .ethReply k _ => some (k, 1)
  | .rdmaData q bs => (h.qps.find q).map fun x => (x.port, max 1 ((bs.length + x.mtu - 1) / x.mtu))
  | .cnp q | .rdmaAck q | .rdmaNak q _ | .rdmaWriteOut q _ _ _ _ | .rdmaReadOut q _ _ => (h.qps.find q).map fun x => (x.port, 1)
  | o => match h.outSess o with
    | some n => (h.sessions.find n).map fun x => (x.port, 1)
    | none => none

/-- An output's frames leave: its port has them to count, and each is a packet of its session's outbound SA there. -/
def HostSide.sends (h : HostSide) (o : Out) : HostSide :=
  match h.outPort o with
  | none => h
  | some k =>
    { h with
      txDue := h.txDue.upd k.1 0 (· + k.2)
      sessions := match h.outSess o with
        | some n => h.sessions.modify n fun x => { x with sent := x.sent.upd k.1 0 (· + BitVec.ofNat 64 k.2) }
        | none => h.sessions }

/-- What the part sends, appended to the trace. -/
def State.emit (s : State) (o : Out) : State := { s with out := o :: s.out, host := s.host.sends o }

/-- Setpoint of a compute rail for an arithmetic clock, mV: 650 to 850 in steps of 5 (R455). -/
def setpointOf (mhz : Nat) : Nat := 650 + 5 * (Config.setpointStep mhz).val

/-- The part writes a die's setpoint for the clock in force to the rail's target (R455). -/
def State.setRail (s : State) (d : Nat) : State :=
  let mv := setpointOf s.cinch.mhz
  (s.updDie d fun u => { u with setpoint := mv }).emit (.setpoint d mv)

/-- The arithmetic clock was `mhz`: where it has changed, the setpoints follow (R455). -/
def State.clockMoved (s : State) (mhz : Nat) : State :=
  if s.cinch.mhz = mhz then s
  else ((List.range 8).filter fun d => (s.die d).powered).foldl State.setRail s

/-- A free 32-bit value: the next one, and the state that has drawn it (notes/assumptions/2). -/
def State.drawWord (s : State) : Word × State :=
  (Config.freeWord s.freeCtr, { s with freeCtr := s.freeCtr + 1 })

/-- A free 64-bit value: the next one, and the state that has drawn it (notes/assumptions/2). -/
def State.drawDWord (s : State) : DWord × State :=
  (Config.freeDWord s.freeCtr, { s with freeCtr := s.freeCtr + 1 })

/-- Key material that the part draws: the next free value (notes/assumptions/2). -/
def State.drawKey (s : State) : BitVec 384 × State :=
  (Config.freeKey s.freeCtr, { s with freeCtr := s.freeCtr + 1 })

/-! ### Unit arithmetic (R8, R10) -/

/-- The die of a logical core (R10). -/
def dieOfCore (c : Nat) : Nat := c / 160
/-- The die that owns a link: near links 0 to 31, far links 32 to 63 (R8). -/
def dieOfLink (l : Nat) : Nat := l % 32 / 4
/-- The die that owns a memory: stack M(2n), M(2n + 1) and module Ln belong to Cn (R8). -/
def dieOfMem (m : Nat) : Nat := if m < 16 then m / 2 else (m - 16) % 8
/-- The hub that serves a die: H0 serves C0 to C3 (R7, R9). -/
def hubOfDie (d : Nat) : Nat := d / 4
/-- The hub of a port: EP0, EP1 and MP (port 4) are H0's (R8). -/
def hubOfPort (port : Nat) : Nat := if port = 2 ∨ port = 3 then 1 else 0
/-- The dies of partition `p`: 1, 2, 4 or 8 dies from Cp on (R370). -/
def partDies (p size : Nat) : List Nat := (List.range 8).filter fun d => p ≤ d ∧ d < p + 2 ^ size

/-- The partition that holds a die, if any. -/
def State.partOfDie (s : State) (d : Nat) : Option Nat :=
  (List.range 8).find? fun p => (s.part p).st != .free && (partDies p (s.part p).size).contains d

/-- Dies of a partition, none while it is FREE. -/
def State.diesOf (s : State) (p : Nat) : List Nat :=
  if (s.part p).st == .free then [] else partDies p (s.part p).size

/-- The partition of a logical core. -/
def State.partOfCore (s : State) (c : Nat) : Option Nat := s.partOfDie (dieOfCore c)

/-- Package id: `PKG_ID.ID`, held in the register word at 0x10 (R13). -/
def State.pkgIdNat (s : State) : Nat := bits (s.regs.get 0x10 0) 13 0

/-- The primary hub (R9). -/
def State.primary (s : State) : Nat := if s.boot.h1Primary then 1 else 0

/-- A saved-settings record is discarded: the part trusts it no more, since its resource has retrained, fallen back or been
retired (R394, R395, R406). -/
def State.dropSaved (s : State) (kind unit : Nat) : State :=
  s.updFlash fun f => { f with saved := f.saved.filter fun r => !(r.kind == kind && r.unit == unit) }

/-- A translation in the shadow of a die for a logical core (R282): while a reload runs it waits, and an entry that fails
its parity check starts one. -/
def State.translate (s : State) (die core : Nat) (parityOk : Bool) (k : Res) : Res :=
  if (s.die die).reloading then .next s
  else if !parityOk then .next (s.updDie die fun d => { d with shadowBad := some core, reloading := true })
  else k

end Sys2Proof.Machine
end

