-- ==== Sys2Proof/Machine/RegMap.lean ====
section
/-! DEFINITION. The management register space: which block an address lies in (R14 to R17) and, for each
word of a block, which bits a write sets, which the part alone writes, and the reset value, from the
register maps of chapters 01 to 19. The `CNT_` blocks have no register map in the spec, so their words are
reserved (notes/assumptions/18). -/

namespace Sys2Proof.Machine

/-- A block of the management register space. -/
inductive Blk where
  | pkg | time | cnt | evlog (h : Nat) | boot | fuse | kat | map | flt | mf
  | cinch (h : Nat) | nrg | eth (port : Nat) | sess | part
  | cmdt (p : Nat) | lpx (m : Nat) | xplan (p : Nat) | digest (p : Nat) | health (p : Nat)
  | upd (p : Nat) | pgrp (p : Nat)
  | dPkg (d : Nat) | dMap (d : Nat) | dFab (d : Nat) | dAmap (d : Nat) | dHbm (m : Nat)
  | dSeam (d : Nat) | dCnt (d : Nat) | dNrg (d : Nat) | dFlt (d : Nat)
  /-- The reserved offsets of a per-die block, 0xA000 and above (R16). -/
  | dRsv (d : Nat)
  /-- Per-core sub-block `sub` (R17); sub-block 12 is the reserved rest of the block, 0xC00 and above. -/
  | core (c sub : Nat)
  | tl (l : Nat)
  deriving DecidableEq, Repr

/-- Block of an offset in a per-die block, and the offset in it (R16). -/
def dieBlk (d o : Nat) : Blk × Nat :=
  match o / 0x1000 with
  | 0 => (.dPkg d, o % 0x1000)
  | 1 => (.dMap d, o % 0x1000)
  | 2 => (.dFab d, o % 0x1000)
  | 3 => (.dAmap d, o % 0x1000)
  | 4 => (.dHbm (2 * d), o % 0x1000)
  | 5 => (.dHbm (2 * d + 1), o % 0x1000)
  | 6 => (.dSeam d, o % 0x1000)
  | 7 => (.dCnt d, o % 0x1000)
  | 8 => (.dNrg d, o % 0x1000)
  | 9 => (.dFlt d, o % 0x1000)
  | _ => (.dRsv d, o - 0xA000)

/-- Block of an address in the package and hub range (R15). -/
def hubBlk (a : Nat) : Option Blk :=
  let n := a / 0x1000
  match n with
  | 0 => some .pkg
  | 1 => some .time
  | 2 => some .cnt
  | 3 => some (.evlog 0)
  | 4 => some (.evlog 1)
  | 5 => some .boot
  | 6 => some .fuse
  | 7 => some .kat
  | 8 => some .map
  | 9 => some .flt
  | 10 => some .mf
  | 11 => some (.cinch 0)
  | 12 => some (.cinch 1)
  | 13 => some .nrg
  | 0x18 => some .sess
  | 0x19 => some .part
  | _ =>
    if 0x10 ≤ n ∧ n ≤ 0x14 then some (.eth (n - 0x10))
    else if 0x20 ≤ n ∧ n < 0x28 then some (.cmdt (n - 0x20))
    else if 0x30 ≤ n ∧ n < 0x38 then some (.lpx (n - 0x30))
    else if 0x40 ≤ n ∧ n < 0x48 then some (.xplan (n - 0x40))
    else if 0x48 ≤ n ∧ n < 0x50 then some (.digest (n - 0x48))
    else if 0x50 ≤ n ∧ n < 0x58 then some (.health (n - 0x50))
    else if 0x60 ≤ n ∧ n < 0x68 then some (.upd (n - 0x60))
    else if 0x68 ≤ n ∧ n < 0x70 then some (.pgrp (n - 0x68))
    else none

/-- The block of a management address and the offset in it (R14 to R17). -/
def locate (a : Nat) : Option (Blk × Nat) :=
  if a < 0x0100_0000 then (hubBlk a).map fun b => (b, a % 0x1000)
  else if a < 0x0180_0000 then
    let o := a - 0x0100_0000
    some (dieBlk (o / 0x10_0000) (o % 0x10_0000))
  else if 0x0200_0000 ≤ a ∧ a < 0x0200_0000 + 1280 * 0x1000 then
    let o := a - 0x0200_0000
    let k := o % 0x1000
    some (if k < 0xC00 then (.core (o / 0x1000) (k / 0x100), k % 0x100) else (.core (o / 0x1000) 12, k - 0xC00))
  else if 0x0300_0000 ≤ a ∧ a < 0x0300_0000 + 64 * 0x1000 then
    let o := a - 0x0300_0000
    some (.tl (o / 0x1000), o % 0x1000)
  else none

/-- What a word of the register space is. -/
structure Reg where
  /-- 0 = a 32-bit register, 1 = low word of a 64-bit register, 2 = its high word. -/
  half : Nat
  /-- Bits that a write sets (RW, RWL). -/
  rw : Nat
  /-- Bits that a write of 1 clears (W1C). -/
  w1c : Nat
  /-- Bits of `regs` that a read shows: the writable ones and those that only the part writes. -/
  keep : Nat
  rst : Nat
  /-- The writable bits are RWL (R467). -/
  rwl : Bool
  /-- A 48-bit performance counter (R33, R34). -/
  perf : Bool
  deriving DecidableEq, Repr

/-- All 32 bits of a word. -/
def ones32 : Nat := 0xFFFF_FFFF

def Reg.ro : Reg := ⟨0, 0, 0, 0, 0, false, false⟩
/-- A read-only word that the part writes in `regs`. -/
def Reg.roKept (rst : Nat) : Reg := ⟨0, 0, 0, ones32, rst, false, false⟩
def Reg.mixed (rw rst : Nat) : Reg := ⟨0, rw, 0, rw, rst, false, false⟩
def Reg.locked (rw rst : Nat) : Reg := ⟨0, rw, 0, rw, rst, true, false⟩
def Reg.clear (w1c : Nat) : Reg := ⟨0, 0, w1c, w1c, 0, false, false⟩
/-- A word that a write reaches and no read shows, or whose fields other state holds. -/
def Reg.held (rw : Nat) : Reg := ⟨0, rw, 0, 0, 0, false, false⟩
def Reg.roPair (hi : Bool) : Reg := ⟨if hi then 2 else 1, 0, 0, 0, 0, false, false⟩
def Reg.rwPair (hi : Bool) : Reg := ⟨if hi then 2 else 1, ones32, 0, ones32, 0, false, false⟩
def Reg.perfPair (hi : Bool) : Reg :=
  ⟨if hi then 2 else 1, 0, if hi then 0x8000_0000 else 0, ones32, 0, false, true⟩
/-- A 64-bit energy counter (R32). -/
def Reg.nrgPair (hi : Bool) : Reg := ⟨if hi then 2 else 1, 0, 0, ones32, 0, false, false⟩

/-- A 64-bit register at offset `o`: its two words. -/
def pairAt (o : Nat) (f : Bool → Reg) : List (Nat × Reg) := [(o, f false), (o + 4, f true)]
def perfAt (l : List Nat) : List (Nat × Reg) := l.flatMap fun o => pairAt o Reg.perfPair
def roAt (l : List Nat) : List (Nat × Reg) := l.map fun o => (o, Reg.ro)
/-- `n` words from `o`, 4 bytes apart. -/
def run (o n : Nat) : List Nat := (List.range n).map fun i => o + 4 * i

/-- Per-core sub-blocks (R17). -/
def coreRegs (sub : Nat) : List (Nat × Reg) :=
  match sub with
  | 0 => roAt [0x00, 0x04] ++ [(0x08, Reg.mixed 3 0)] ++ roAt (run 0x40 32)
  | 1 => roAt (run 0 64)
  | 2 => roAt [0x00] ++ [(0x04, Reg.mixed 1 1)] ++ perfAt [0x10, 0x18, 0x20, 0x28]
  | 3 => [(0x00, Reg.clear 0xF), (0x04, Reg.ro)] ++ perfAt [0x10, 0x18, 0x20]
  | 4 => [(0x00, Reg.ro), (0x04, Reg.clear 0x1F)] ++ perfAt [0x10, 0x18, 0x20, 0x28, 0x30, 0x38]
  | 5 => [(0x00, Reg.clear 0xFFF)] ++ perfAt [0x10, 0x18, 0x20]
  | 6 => perfAt [0x10, 0x18, 0x20]
  | 7 => [(0x00, Reg.mixed 1 0), (0x04, ⟨0, 0, 0x8000_0000, ones32, 0, false, false⟩)]
      ++ [(0x08, { Reg.roPair false with keep := ones32 }), (0x0C, { Reg.roPair true with keep := ones32 })]
      ++ perfAt [0x10, 0x18, 0x20, 0x28]
  | 8 => [(0x00, Reg.mixed 0xFFFF 0x400), (0x04, Reg.ro)] ++ perfAt [0x08, 0x10, 0x18, 0x20, 0x28]
      ++ roAt (run 0x40 16) ++ (List.range 16).flatMap fun i => pairAt (0x80 + 8 * i) Reg.roPair
  | 10 => roAt [0x00]
  | 11 => pairAt 0x00 Reg.nrgPair ++ [(0x08, Reg.ro)] ++ perfAt [0x10]
  | _ => []

/-- The words of a block. -/
def blkRegs : Blk → List (Nat × Reg)
  | .cnt | .dCnt _ | .dRsv _ => []
  | .pkg => roAt [0x00, 0x04] ++ pairAt 0x08 Reg.roPair ++ [(0x10, ⟨0, 0x8000_3FFF, 0, ones32, 0, false, false⟩)]
      ++ roAt (run 0x14 13) ++ pairAt 0x48 Reg.roPair ++ roAt [0x50, 0x54] ++ pairAt 0x58 Reg.roPair
  | .time => pairAt 0x00 Reg.roPair ++ [(0x08, Reg.mixed 3 2), (0x0C, Reg.ro)]
  | .evlog _ => roAt [0x00, 0x04, 0x08] ++ [(0x0C, Reg.mixed 0xBFFF 0)]
      ++ (run 0x10 8).map fun o => (o, Reg.roKept 0)
  | .boot => roAt [0x00, 0x04, 0x08] ++ [(0x0C, Reg.held 3)] ++ roAt [0x10, 0x14, 0x18] ++ roAt (run 0x20 14)
  | .fuse => roAt [0x00, 0x04] ++ [(0x08, Reg.mixed 0x77 0)] ++ roAt (run 0x10 6)
  | .kat => roAt (run 0x00 10)
  | .map => [(0x00, Reg.mixed 0x7FF 0), (0x04, Reg.ro), (0x08, Reg.clear 0x4000_0000)]
  | .flt => roAt [0x00, 0x04] ++ perfAt [0x10, 0x18, 0x20, 0x28]
  | .mf => roAt (run 0x00 4) ++ perfAt [0x10, 0x18]
  | .cinch _ => [(0x00, Reg.held 0xFFFF), (0x04, Reg.held 0xFFFF), (0x08, Reg.held 0xFF01)]
      ++ roAt [0x0C, 0x10, 0x14] ++ perfAt [0x20, 0x28, 0x30, 0x38]
  | .nrg => pairAt 0x00 Reg.nrgPair ++ pairAt 0x08 Reg.nrgPair ++ roAt [0x10, 0x14]
      ++ (List.range 8).flatMap fun p =>
        let o := 0x100 + 0x40 * p
        pairAt o Reg.nrgPair ++ pairAt (o + 8) Reg.nrgPair ++ pairAt (o + 16) Reg.nrgPair
          ++ pairAt (o + 24) Reg.nrgPair ++ pairAt (o + 0x20) Reg.rwPair
          ++ [(o + 0x28, ⟨0, 0x801F_0000, 0, ones32, 0x4_0000, false, false⟩), (o + 0x2C, Reg.roKept 0)]
  | .eth _ => [(0x00, Reg.roKept 0), (0x04, Reg.mixed 0x8000_FFFF 0x8000_3000)]
      ++ (run 0x10 36).map (fun o => (o, Reg.mixed ones32 0)) ++ [(0xA0, Reg.roKept 0)]
      ++ perfAt [0xC0, 0xC8, 0xD0, 0xD8, 0xE0]
  | .sess => [(0x00, Reg.ro), (0x04, Reg.mixed 0xFFFF 60), (0x08, Reg.ro)]
  | .part => (run 0 8).map (fun o => (o, Reg.mixed 0x0007_7FFF 0))
      ++ (run 0x20 8).map (fun o => (o, Reg.held 3)) ++ [(0x40, Reg.ro)]
  | .cmdt _ => [(0x00, Reg.mixed 1 0)] ++ pairAt 0x08 Reg.rwPair ++ [(0x10, Reg.mixed 0x1F 4), (0x14, Reg.ro)]
      ++ pairAt 0x18 Reg.rwPair ++ [(0x20, Reg.mixed 0x1F 4)] ++ pairAt 0x28 Reg.rwPair
      ++ [(0x30, Reg.mixed 0x8000_0FFF 0), (0x34, Reg.ro)] ++ perfAt [0x40, 0x48, 0x50]
  | .lpx _ => roAt (run 0x00 5) ++ roAt (run 0x40 8) ++ perfAt [0x80, 0x88]
  | .xplan _ => [(0x00, Reg.mixed 1 0)] ++ pairAt 0x08 Reg.rwPair ++ [(0x10, Reg.mixed ones32 0)]
      ++ pairAt 0x18 Reg.rwPair ++ [(0x20, Reg.mixed ones32 0)] ++ pairAt 0x28 Reg.rwPair ++ [(0x30, Reg.ro)]
      ++ (run 0x40 8).map (fun o => (o, Reg.mixed 0x8000_00FF 0)) ++ roAt (run 0x60 8)
      ++ perfAt [0x80, 0x88, 0x90, 0x98]
  | .digest _ => [(0x00, Reg.mixed 0x1FF 0x10C)] ++ pairAt 0x08 Reg.rwPair ++ [(0x10, Reg.ro)]
      ++ perfAt [0x20, 0x28, 0x30]
  | .health _ => [(0x00, Reg.mixed ones32 0), (0x04, Reg.mixed 0xF 0), (0x08, Reg.mixed 0xFFFF 0)]
      ++ pairAt 0x10 Reg.roPair ++ pairAt 0x18 Reg.roPair ++ [(0x20, Reg.ro)] ++ perfAt [0x30, 0x38]
  | .upd _ => [(0x00, Reg.mixed 5 4)] ++ pairAt 0x08 Reg.rwPair ++ [(0x10, Reg.mixed 0x7FF 0)]
      ++ pairAt 0x18 Reg.rwPair ++ pairAt 0x20 Reg.rwPair ++ roAt [0x28, 0x2C, 0x30]
      ++ perfAt [0x40, 0x48, 0x50, 0x58]
  | .pgrp _ => (List.range 64).flatMap fun n =>
      let o := 0x40 * n
      (run o 5).map (fun a => (a, Reg.mixed ones32 0)) ++ [(o + 0x14, Reg.mixed 0x00FF_FFFF 0),
        (o + 0x18, Reg.mixed ones32 0), (o + 0x1C, Reg.roKept 0)]
        ++ pairAt (o + 0x20) Reg.rwPair ++ [(o + 0x28, Reg.mixed ones32 0), (o + 0x2C, Reg.ro)]
  | .dPkg _ => [(0x00, Reg.ro)] ++ pairAt 0x08 Reg.roPair
  | .dMap _ => [(0x00, Reg.ro)]
  | .dFab _ => [(0x00, ⟨0, 0x3F3F, 0, ones32, 0, false, false⟩)] ++ roAt [0x04, 0x08] ++ perfAt [0x10, 0x18, 0x20]
  | .dAmap _ => pairAt 0x00 Reg.roPair ++ pairAt 0x08 Reg.roPair ++ [(0x10, Reg.ro), (0x14, Reg.locked 1 0), (0x18, Reg.ro)]
      ++ perfAt [0x20, 0x28, 0x30, 0x38]
  | .dHbm _ => roAt [0x00, 0x04, 0x08] ++ [(0x0C, Reg.mixed 0x8000_00FF 0x8000_0008), (0x10, Reg.ro)]
      ++ pairAt 0x18 Reg.roPair ++ roAt (run 0x40 32) ++ perfAt [0xC0, 0xC8, 0xD0]
  | .dSeam _ => [(0x00, Reg.ro)] ++ pairAt 0x08 Reg.roPair ++ perfAt [0x10, 0x18]
  | .dNrg _ => pairAt 0x00 Reg.nrgPair ++ pairAt 0x08 Reg.nrgPair ++ [(0x10, Reg.ro)]
  | .dFlt _ => [(0x00, Reg.ro)] ++ roAt (run 0x100 168)
  | .core _ sub => coreRegs sub
  | .tl _ => [(0x00, Reg.mixed 1 1)] ++ roAt [0x04, 0x08, 0x0C] ++ roAt (run 0x10 4) ++ [(0x20, Reg.ro)]
      ++ roAt (run 0x30 4) ++ perfAt [0x40, 0x48, 0x50, 0x58, 0x60, 0x68]

/-- The word at an aligned management address, none where it is reserved. -/
def regAt (a : Nat) : Option Reg :=
  match locate a with
  | some (b, o) => (blkRegs b).lookup o
  | none => none

/-- The address of a block's offset 0. -/
def Blk.base : Blk → Nat
  | .pkg => 0
  | .time => 0x1000
  | .cnt => 0x2000
  | .evlog h => 0x3000 + 0x1000 * h
  | .boot => 0x5000
  | .fuse => 0x6000
  | .kat => 0x7000
  | .map => 0x8000
  | .flt => 0x9000
  | .mf => 0xA000
  | .cinch h => 0xB000 + 0x1000 * h
  | .nrg => 0xD000
  | .eth port => 0x1_0000 + 0x1000 * port
  | .sess => 0x1_8000
  | .part => 0x1_9000
  | .cmdt p => 0x2_0000 + 0x1000 * p
  | .lpx m => 0x3_0000 + 0x1000 * m
  | .xplan p => 0x4_0000 + 0x1000 * p
  | .digest p => 0x4_8000 + 0x1000 * p
  | .health p => 0x5_0000 + 0x1000 * p
  | .upd p => 0x6_0000 + 0x1000 * p
  | .pgrp p => 0x6_8000 + 0x1000 * p
  | .dPkg d => 0x0100_0000 + 0x10_0000 * d
  | .dMap d => 0x0100_1000 + 0x10_0000 * d
  | .dFab d => 0x0100_2000 + 0x10_0000 * d
  | .dAmap d => 0x0100_3000 + 0x10_0000 * d
  | .dHbm m => 0x0100_4000 + 0x10_0000 * (m / 2) + 0x1000 * (m % 2)
  | .dSeam d => 0x0100_6000 + 0x10_0000 * d
  | .dCnt d => 0x0100_7000 + 0x10_0000 * d
  | .dNrg d => 0x0100_8000 + 0x10_0000 * d
  | .dFlt d => 0x0100_9000 + 0x10_0000 * d
  | .dRsv d => 0x0100_A000 + 0x10_0000 * d
  | .core c sub => 0x0200_0000 + 0x1000 * c + 0x100 * sub
  | .tl l => 0x0300_0000 + 0x1000 * l

/-- The stored word at an address: its reset value until something writes it. -/
def State.regWord (s : State) (a : Nat) : Word :=
  s.regs.get a (BitVec.ofNat 32 (match regAt a with | some r => r.rst | none => 0))

/-- The stored word at an offset of a block, as a number. -/
def State.reg (s : State) (b : Blk) (o : Nat) : Nat := (s.regWord (b.base + o)).toNat

/-- The stored 64-bit register at an offset of a block. -/
def State.reg64 (s : State) (b : Blk) (o : Nat) : Nat := s.reg b o + 2 ^ 32 * s.reg b (o + 4)

def State.setRegWord (s : State) (a : Nat) (v : Word) : State := { s with regs := s.regs.put a v }

def State.setReg (s : State) (b : Blk) (o v : Nat) : State := s.setRegWord (b.base + o) (BitVec.ofNat 32 v)

def State.setReg64 (s : State) (b : Blk) (o v : Nat) : State :=
  (s.setReg b o (v % 2 ^ 32)).setReg b (o + 4) (v / 2 ^ 32)

/-- `TIME_STATUS.SYNC`: in sync, and always on a master that is ready (R29). -/
def State.inSync (s : State) : Bool := s.time.sync || (s.reg .time 8 % 2 == 1 && s.boot.ready && !s.time.held)

/-- Sets bits of a sticky word (W1C flags). -/
def State.orReg (s : State) (b : Blk) (o v : Nat) : State := s.setReg b o (s.reg b o ||| v)

end Sys2Proof.Machine
end

