-- ==== Sys2Proof/Machine/Records.lean ====
section
/-! DEFINITION. Event records and performance counters (R32 to R38), and the unit numbers of R12. -/

namespace Sys2Proof.Machine

/-! ### Unit numbers (R12) -/

def unitHub (h core : Nat) : Nat := 0x1000 + 4 * h + core
def unitCinch (h : Nat) : Nat := 0x1010 + h
def unitSeq (h : Nat) : Nat := 0x1020 + h
def unitLog (h : Nat) : Nat := 0x1030 + h
def unitFuse (h : Nat) : Nat := 0x1040 + h
def unitPlan (h : Nat) : Nat := 0x1050 + h
def unitDispatch (d : Nat) : Nat := 0x1060 + d
def unitPool (d : Nat) : Nat := 0x1070 + d
def unitRouter (d : Nat) : Nat := 0x1080 + d
def unitLink (l : Nat) : Nat := 0x1100 + l
/-- Ports 0 to 3 are EP0 to EP3, port 4 is MP. -/
def unitPort (p : Nat) : Nat := if p = 4 then 0x1208 else 0x1200 + p
def unitStack (m : Nat) : Nat := 0x1300 + m
def unitModule (m : Nat) : Nat := 0x1400 + m
/-- The controller of memory `m` (stacks 0 to 15, modules 0x10 to 0x17). -/
def unitMem (m : Nat) : Nat := if m < 16 then unitStack m else unitModule (m - 16)
def unitPseudo (m pc : Nat) : Nat := 0x2000 + 32 * m + pc
def unitLane (l k : Nat) : Nat := 0x3000 + 4 * l + k
def unitLpxCh (m ch : Nat) : Nat := 0x3800 + 8 * m + ch
def unitPhys (d i : Nat) : Nat := 0x1_0000 + 0x100 * d + i
def unitPackage : Nat := 0x3_FFFF

/-- Source number of a unit of this package (R12). -/
def State.source (s : State) (unit : Nat) : Nat := s.pkgIdNat * 2 ^ 18 + unit

/-- A retirement decision of a unit is late: its boundary has passed, or the decisions made there left it out. The unit's
channel takes no new work (R31; which transfers of a channel wait is a reading, notes/assumptions/138). -/
def State.lateAt (s : State) (unit : Nat) : Bool :=
  s.mf.pending.any fun d => d.src == s.source unit && (d.tsc.toNat / 2048 < s.mf.decideBeat ||
    (d.tsc.toNat / 2048 + 1) * 2048 < s.time.tsc.toNat)

/-! ### Records (R35) -/

/-- A payload from the low bit and the value of each field. -/
def payload (fs : List (Nat × Nat)) : Data128 :=
  BitVec.ofNat 128 (fs.foldl (fun a f => a + f.2 * 2 ^ f.1) 0)

/-- A unit forms a record; the record is on its way until a hub holds it (R37). -/
def State.record (s : State) (unit code sev part : Nat) (fs : List (Nat × Nat)) : State :=
  { s with log := { s.log with
      flight := s.log.flight ++ [⟨s.time.tsc, s.source unit, code, sev, part, false, false, payload fs⟩] } }

/-- Beat in which a record's event fell. -/
def Rec.beat (r : Rec) : Nat := r.tsc.toNat / 2048

/-- Records of the ring and of the retained area. -/
def ringSize : Nat := 16384
def retainedSize : Nat := 256

/-- The record is copied into the retained area (R38, R416). -/
def Rec.retains (r : Rec) : Bool := r.sev == 3 || r.code == 0x1202 || r.code == 0x1203

/-- Appends a record to the ring, over the oldest where it is full, and to the retained area where it belongs there. -/
def Log.append (l : Log) (r : Rec) : Log :=
  let room := l.retained.length < retainedSize
  let r := { r with ret := r.retains && room }
  let full := ringSize ≤ l.ring.length
  { l with
    ring := r :: (if full then l.ring.dropLast else l.ring)
    total := l.total + 1
    lost := if full && l.lost != BitVec.allOnes 32 then l.lost + 1 else l.lost
    retained := if r.ret then l.retained ++ [r] else l.retained
    retFull := l.retFull || (r.retains && retainedSize ≤ l.retained.length + 1) }

/-- The order of R36. -/
def Rec.before (a b : Rec) : Bool := a.tsc.toNat < b.tsc.toNat || (a.tsc == b.tsc && a.src ≤ b.src)

/-- A record takes its place in R36 order, after those that come before it or with it. -/
def insertRec (r : Rec) : List Rec → List Rec
  | [] => [r]
  | q :: l => if q.before r then q :: insertRec r l else r :: q :: l

def sortRecs (l : List Rec) : List Rec := l.foldl (fun a r => insertRec r a) []

/-- The retained area is copied to board flash once the firmware runs (R38). -/
def State.saveRetained (s : State) : State :=
  if s.boot.firmware then s.updFlash fun f => { f with retained := s.log.retained, retFull := s.log.retFull } else s

/-- The records formed before the firmware starts are appended, in their order and with their TSC, when it does (R407). -/
def State.appendHeld (s : State) : State :=
  let l := (sortRecs s.log.flight).foldl Log.append { s.log with flight := [] }
  { s with log := l }.updFlash fun f => { f with retained := l.retained, retFull := l.retFull }

/-- PART of a record about a die's or core's work: its partition, or 0xF (R35). -/
def partField (o : Option Nat) : Nat := o.getD 0xF

/-! ### Counters (R32 to R34) -/

/-- The partition that owns a block (R466). -/
def State.blkPart (s : State) : Blk → Nat
  | .cmdt p | .xplan p | .digest p | .health p | .upd p | .pgrp p => if (s.part p).st == .free then 0xF else p
  | .lpx m => partField (s.partOfDie m)
  | .dPkg d | .dMap d | .dFab d | .dAmap d | .dSeam d | .dCnt d | .dNrg d | .dFlt d | .dRsv d => partField (s.partOfDie d)
  | .dHbm m => partField (s.partOfDie (m / 2))
  | .core c _ => partField (s.partOfCore c)
  | .tl l => partField (s.partOfDie (dieOfLink l))
  | _ => 0xF

/-- The unit that reports a saturated counter (R466). -/
def State.blkUnit (s : State) : Blk → Nat
  | .core c _ => c
  | .dPkg d | .dMap d | .dFab d | .dAmap d | .dSeam d | .dCnt d | .dNrg d | .dFlt d | .dRsv d => unitRouter d
  | .dHbm m => unitRouter (m / 2)
  | _ => unitHub s.primary 0

/-- Largest count of a performance counter. -/
def perfMax : Nat := 2 ^ 48 - 1

/-- Adds to a 48-bit performance counter: saturates, sets OVF and records COUNTER_SATURATED once (R32, R466). -/
def State.count (s : State) (b : Blk) (o n : Nat) : State :=
  let v := s.reg64 b o
  let c := v % 2 ^ 48
  if n = 0 ∨ v / 2 ^ 63 = 1 then s
  else if c + n < perfMax then s.setReg64 b o (c + n)
  else (s.setReg64 b o (2 ^ 63 + perfMax)).record (s.blkUnit b) 0x0203 0 (s.blkPart b) [(0, b.base + o)]

/-- Counts an amount that the rows do not carry: a free number (R32; notes/assumptions/17). -/
def State.countSome (s : State) (b : Blk) (o : Nat) : State := s.drawWord.2.count b o s.drawWord.1.toNat

/-- Adds to a 64-bit energy counter, saturating (R32). -/
def State.addEnergy (s : State) (a n : Nat) : State :=
  let v := (s.regWord a).toNat + 2 ^ 32 * (s.regWord (a + 4)).toNat
  let w := min (v + n) (2 ^ 64 - 1)
  (s.setRegWord a (BitVec.ofNat 32 w)).setRegWord (a + 4) (BitVec.ofNat 32 (w / 2 ^ 32))

/-- Saturating addition of a status count of `w` bits (R32). -/
def satAdd (w a n : Nat) : Nat := min (a + n) (2 ^ w - 1)

end Sys2Proof.Machine
end

