-- ==== Sys2Proof/Machine/Group.lean ====
section
/-! DEFINITION. Threads, paths and groups (chapter 03), and how a block stops on a fault (R59). -/

namespace Sys2Proof.Machine

/-! ### Registers of a thread and of a group (R64 to R66) -/

def Thread.reg (t : Thread) (n : Nat) : Word := t.g.get n 0
/-- A write marks the register's granule row as written (R239). -/
def Thread.setReg (t : Thread) (n : Nat) (v : Word) : Thread :=
  { t with g := t.g.put n v, wrote := setBit t.wrote (n / 8) true }

/-- p0 always reads true (R66). -/
def Thread.pred (t : Thread) (n : Nat) : Bool := n == 0 || t.preds.getLsbD n

/-- A write to p0 is discarded (R66). -/
def Thread.setPred (t : Thread) (n : Nat) (v : Bool) : Thread :=
  if n = 0 then t else { t with preds := setBit t.preds n v }

def Group.thread (g : Group) (t : Nat) : Thread := g.threads.getD t (Thread.fresh 0)

/-- The list of threads with thread `t` set; a thread that the list does not reach is as a fresh one. -/
def putThread : List Thread → Nat → Thread → List Thread
  | [], 0, v => [v]
  | [], n + 1, v => Thread.fresh 0 :: putThread [] n v
  | _ :: l, 0, v => v :: l
  | a :: l, n + 1, v => a :: putThread l n v

def Group.updThread (g : Group) (t : Nat) (f : Thread → Thread) : Group :=
  { g with threads := putThread g.threads t (f (g.thread t)) }
def Group.reg (g : Group) (t n : Nat) : Word := (g.thread t).reg n
def Group.sreg (g : Group) (n : Nat) : DWord := g.s.get n 0

def Group.setReg (g : Group) (t n : Nat) (v : Word) : Group := g.updThread t (·.setReg n v)
def Group.setSreg (g : Group) (n : Nat) (v : DWord) : Group := { g with s := g.s.put n v }

/-! ### Registers that a load or a drain owes (R49, R197) -/

def Owe.holds (o : Owe) (t r : Nat) : Bool := o.mask.getLsbD t && o.base ≤ r && r < o.base + o.n

/-- A load or a drain has still to write a register of a thread. -/
def Group.owes (g : Group) (t r : Nat) : Bool := g.gWait.any (·.holds t r)

/-- The registers that the load or the drain `tag` will write. -/
def Group.await (g : Group) (tag : Nat) (mask : Word) (base n : Nat) : Group :=
  { g with gWait := g.gWait ++ [⟨tag, mask, base, n⟩] }

/-- A value that the load or drain `tag` owes lands. -/
def Group.pay (g : Group) (tag t r : Nat) (v : Word) : Group :=
  if g.gWait.any fun o => o.tag == tag && o.holds t r then g.setReg t r v else g

/-- The load or drain `tag` owes nothing more. -/
def Group.paid (g : Group) (tag : Nat) : Group :=
  { g with gWait := g.gWait.filter (·.tag != tag), sWait := g.sWait.filter (·.1 != tag) }

/-- Group index of the group in a slot. -/
def State.gidxOf (s : State) (c g : Nat) : Nat := match s.group c g with
  | some k => k.gidx
  | none => 0

/-- Threads of a group that have not exited. -/
def Group.alive (g : Group) : List Nat := (List.range 32).filter fun t => !(g.thread t).exited

/-- A group ends when all its threads have exited (R46). -/
def Group.ended (g : Group) : Bool := g.alive.isEmpty

/-! ### Paths (R51, R52) -/

/-- The threads of the path that does not wait at a program address. -/
def Group.pathAt (g : Group) (pc : DWord) : List Nat :=
  g.alive.filter fun t => (g.thread t).pc == pc && (g.thread t).wait == .none

/-- Program addresses of the paths that do not wait. -/
def Group.eligible (g : Group) : List DWord :=
  ((g.alive.filter fun t => (g.thread t).wait == .none).map fun t => (g.thread t).pc).eraseDups

/-- Paths held, by address and wait. -/
def Group.paths (g : Group) : List (DWord × Wait) :=
  (g.alive.map fun t => ((g.thread t).pc, (g.thread t).wait)).eraseDups

/-- Lowest of some addresses. -/
def lowest : List DWord → Option DWord
  | [] => none
  | a :: l => match lowest l with
    | none => some a
    | some b => some (if a.toNat ≤ b.toNat then a else b)

/-- Consecutive issues after which the starvation guard is due (R52). -/
def guardLimit : Nat := 256

/-- The guard is due and has not chosen yet. -/
def Group.guardDue (g : Group) : Bool := guardLimit ≤ g.consec && g.forced.isNone && 1 < g.eligible.length

/-- The address of the path that issues next: the guard's, or the lowest (R51, R52). -/
def Group.issuePc (g : Group) : Option DWord :=
  match g.forced with
  | some p => if g.eligible.contains p then some p else lowest g.eligible
  | none => lowest g.eligible

/-- The eligible path that has waited longest beside the one that issued last. -/
def Group.longest (g : Group) : Option DWord :=
  let cand := g.waited.filter fun w => g.eligible.contains w.1 && w.1 != g.lastPc
  (cand.foldl (fun (best : Option (DWord × Nat)) w => match best with
    | none => some w
    | some b => if b.2 < w.2 ∨ (b.2 = w.2 ∧ w.1.toNat < b.1.toNat) then some w else some b) none).map (·.1)

/-- Issue accounting for the guard, after the path at `pc` of a group `old` has issued and goes on at `next`. -/
def Group.account (g old : Group) (pc next : DWord) : Group :=
  let others := old.eligible.filter (· != pc)
  let same := old.lastPc == pc
  { g with
    lastPc := next
    consec := if others.isEmpty then 0 else if same then old.consec + 1 else 1
    waited := others.map fun p => (p, (old.waited.lookup p).getD 0 + 1)
    forced := none }

/-! ### Where a block stands -/

/-- The physical core that carries a logical core (R10). -/
def State.physOf (s : State) (c : Nat) : Option Nat := (s.map.get c MapEnt.fresh).phys

/-- The partition of a block, for records. -/
def Block.part (b : Block) : Nat := b.desc.part

/-- Registers per thread of the group's block. -/
def State.regLimit (s : State) (c g : Nat) : Nat :=
  match s.group c g with
  | some k => match s.block c k.bslot with
    | some b => b.desc.rpt
    | none => 0
  | none => 0

/-- A drain of the group is staged or in the drain path: its writes or flags have not landed (R190, R220). -/
def Core.drainDue (k : Core) (g : Nat) : Bool :=
  (match k.staged with
   | some x => x.grp == g && x.kind == .drain
   | none => false) ||
  k.drains.any fun x => x.grp == g

/-- Records about a block's work carry the block index and the grant id (R60). -/
def Block.faultFields (b : Block) (gidx : Nat) : List (Nat × Nat) :=
  [(0, b.desc.x + b.desc.y * 2 ^ 32 + b.desc.z * 2 ^ 48), (64, b.desc.grant.toNat), (96, gidx)]

/-- A grant ends with a grant fault that carries a code; the first one stays (R59). -/
def State.grantFault (s : State) (p uid code : Nat) : State :=
  s.updPart p fun q => { q with grants := q.grants.map fun g =>
    if g.uid = uid ∧ g.fault.isNone then { g with fault := some code } else g }

/-- A block stops: its groups issue no more, the writes staged since its last seam are discarded, and its
accumulator sets, matrix, bobbin, DMA and NI work is dropped (R59, R122, R249). Committed records stand, and the lines
of them that are on their way go on. A program fault (`free`) frees the pricking table, whose keys stay until a block
claims it (R176). -/
def State.stopBlock (s : State) (c b : Nat) (free : Bool) : State :=
  match s.block c b with
  | none => s
  | some k =>
    let mine (g : Nat) : Bool := k.gslots.contains g
    let s := s.setBlock c b { k with
      st := .stopping, wset := [], mgmt := [], phase := .run, trig := none, atom := none, wds := [], pend := none, pstamp := 0,
      cstamp := 0 }
    s.updCore c fun q => { q with
      groups := q.groups.map fun e => if mine e.1 then (e.1, { e.2 with hold := .none, gWait := [], sWait := [] }) else e
      sets := q.sets.map fun e => (e.1, match e.2.holder with
        | some h => if mine h then AccSet.fresh else e.2
        | none => e.2)
      staged := q.staged.filter fun x => !mine x.grp
      drains := q.drains.filter fun x => !mine x.grp
      bob := q.bob.filter fun x => !mine x.grp
      ptHolder := if free && q.ptHolder = some b then none else q.ptHolder
      dma := q.dma.filter fun e => e.2.bslot != b
      ni := q.ni.map fun e => if e.2.bslot = b ∧ e.2.kind ≠ .write then (e.1, { e.2 with dead := true }) else e }

/-- A block ends on a grant fault: the block stops and the grant takes the code (R59). -/
def State.endBlock (s : State) (c b code : Nat) : State :=
  match s.block c b with
  | none => s
  | some k => (s.stopBlock c b true).grantFault k.part k.desc.uid code

/-- Raises a program fault of a block: record, stop, grant fault (R59, R60). `extra` holds DATA above bit 100. -/
def State.progFault (s : State) (c b gidx code : Nat) (extra : List (Nat × Nat)) : State :=
  match s.block c b with
  | none => s
  | some k =>
    (s.record k.desc.home code 0 k.part (k.faultFields gidx ++ extra)).endBlock c b code

/-- Captures the first fault address of a core (R233): VALID, thread, code and address. -/
def State.captureFault (s : State) (c thread code : Nat) (addr : DWord) : State :=
  let blk := Blk.core c 7
  if s.reg blk 4 / 2 ^ 31 = 1 then s
  else (s.setReg blk 4 (2 ^ 31 + thread * 2 ^ 16 + code)).setReg64 blk 8 addr.toNat

end Sys2Proof.Machine
end

