-- ==== Sys2Proof/Machine/Memory.lean ====
section
/-! DEFINITION. The device address map (R201 to R204), the bytes of the memories, of the scratchpads and of
the staged lines, and the checks of R231. Memory and scratchpad are sorted lists of the bytes that differ
from what an unlisted byte reads as. -/

namespace Sys2Proof.Machine

/-! ### Bytes -/

/-- The canonical form of a memory: addresses strictly rising. An unlisted byte of HBM or LPDDR reads as the
free value `Config.undefByte`, which no listed byte can be shown equal to (notes/assumptions/5). -/
def Memory.wf (m : List Host.Cell) : Bool := Tab.sorted (α := Byte) m

/-- The canonical form of a scratchpad: addresses strictly rising and no zero byte listed (R209). -/
def Spad.wf (m : List Host.Cell) : Bool := Tab.sorted (α := Byte) m && m.all fun c => c.2 != 0

/-- Memory key of an offset of a stack or module; a retired 64 KiB page reads at its spare page (R268). -/
def State.memKey (s : State) (mem off : Nat) : Nat :=
  let page := off / 0x1_0000
  let o := match (s.memUnit mem).remap.find page with
    | some sp => 0x1F_C000_0000 + sp * 0x1_0000 + off % 0x1_0000
    | none => off
  mem * 2 ^ 40 + o

/-- A byte of a stack or module. -/
def State.memByte (s : State) (mem off : Nat) : Byte :=
  let k := s.memKey mem off
  (Tab.find (α := Byte) s.mem k).getD (Config.undefByte (s.die (dieOfMem mem)).keyEpoch k)

/-- Writes a byte of a stack or module. -/
def State.setMemByte (s : State) (mem off : Nat) (v : Byte) : State :=
  { s with mem := Tab.put (α := Byte) s.mem (s.memKey mem off) v }

/-- The line at a line-aligned offset. -/
def State.memLine (s : State) (mem off : Nat) : Line :=
  bytesLine ((List.range 64).map fun i => s.memByte mem (off + i))

/-- Writes the bytes of a line that the mask names, as one update (R218). -/
def State.setMemLine (s : State) (mem off : Nat) (data : Line) (mask : DWord) : State :=
  (maskList 64 mask.toNat).foldl (fun s i => s.setMemByte mem (off + i) (lineByte data i)) s

def State.poisoned (s : State) (mem off : Nat) : Bool :=
  let u := s.memUnit mem
  u.allPoison || u.poison.contains (off / 64)

/-- A read of the line completes as uncorrectable: it is poisoned, or a retrain of its stack has failed (R266, R270). -/
def State.unreadable (s : State) (mem off : Nat) : Bool := (s.memUnit mem).retrainFailed || s.poisoned mem off

/-! ### Scratchpads (R41, R209) -/

def spadByte (m : List Host.Cell) (o : Nat) : Byte := (Tab.find (α := Byte) m o).getD 0

/-- Writes a scratchpad byte; a zero is not listed. -/
def spadPut (m : List Host.Cell) (o : Nat) (v : Byte) : List Host.Cell :=
  if v = 0 then Tab.del (α := Byte) m o else Tab.put (α := Byte) m o v

def spadWrite (m : List Host.Cell) (o : Nat) : List Byte → List Host.Cell
  | [] => m
  | v :: vs => spadWrite (spadPut m o v) (o + 1) vs

def spadRead (m : List Host.Cell) (o n : Nat) : List Byte := (List.range n).map fun i => spadByte m (o + i)

/-- Bytes of a block's scratchpad. -/
def Block.spadSize (b : Block) : Nat := b.desc.pages * 4096

def Block.writeSpad (b : Block) (o : Nat) (v : List Byte) : Block := { b with spad := spadWrite b.spad o v }

/-! ### The address map (R201 to R204) -/

/-- What an address names, a system address of the issuing package taken as local (R204). -/
inductive Target where
  | hbm (a : Nat)
  | lpx (a : Nat)
  | perCore (c o : Nat)
  | cluster (r o : Nat)
  | mgmt (m : Nat)
  | window (w o : Nat)
  /-- Another package's memory: package and its local address. -/
  | remote (pkg a : Nat)
  | reserved
  deriving DecidableEq, Repr

def lpxBase : Nat := 0x0200_0000_0000

/-- An address with bit 63 = 0. -/
def classLocal (a : Nat) : Target :=
  if a < lpxBase then .hbm a
  else if a < 0x0400_0000_0000 then .lpx (a - lpxBase)
  else if a < 0x0400_5000_0000 then
    .perCore ((a - 0x0400_0000_0000) / 0x10_0000) (a % 0x10_0000)
  else if 0x04F0_0000_0000 ≤ a ∧ a < 0x04F0_0100_0000 then
    .cluster ((a - 0x04F0_0000_0000) / 0x10_0000) (a % 0x10_0000)
  else if 0x0500_0000_0000 ≤ a ∧ a < 0x0501_0000_0000 then .mgmt (a - 0x0500_0000_0000)
  else if 0x0600_0000_0000 ≤ a ∧ a < 0x0700_0000_0000 then
    .window ((a - 0x0600_0000_0000) / 0x1000_0000) (a % 0x1000_0000)
  else .reserved

def State.classify (s : State) (a : DWord) : Target :=
  if a.getLsbD 63 then
    let pkg := bits a 62 49
    if pkg = s.pkgIdNat then classLocal (bits a 48 0) else .remote pkg (bits a 48 0)
  else classLocal a.toNat

/-- The address with a system address of this package made local (R204). -/
def State.normal (s : State) (a : DWord) : DWord :=
  if a.getLsbD 63 ∧ bits a 62 49 = s.pkgIdNat then BitVec.ofNat 64 (bits a 48 0) else a

/-- The peer entry that supplies a package's partition and sizes: the first in table order (R204). -/
def Part.peer (p : Part) (pkg : Nat) : Option PeerEntry := p.peers.find? fun e => e.pkg == pkg

/-- The memory and the offset of a local address of a partition's HBM or LPDDR range (R202, R203). -/
def Part.place (p : Part) (a : Nat) : Option (Nat × Nat) :=
  if a < lpxBase then
    let n := p.hbmSet.length
    if a < p.hbmSize ∧ 0 < n then
      some (p.hbmSet.getD (a / 4096 % n) 0, a / 4096 / n * 4096 + a % 4096)
    else none
  else
    let b := a - lpxBase
    let n := p.lpxSet.length
    if b < p.lpxSize ∧ 0 < n then
      some (0x10 + p.lpxSet.getD (b / 4096 % n) 0, b / 4096 / n * 4096 + b % 4096)
    else none

/-- Where an address of a partition's own memory lies. -/
def State.home (s : State) (p : Nat) (a : DWord) : Option (Nat × Nat) :=
  match s.classify a with
  | .hbm x => (s.part p).place x
  | .lpx x => (s.part p).place (lpxBase + x)
  | _ => none

/-- Reads `n` bytes of a partition's memory from an address, each at its home. -/
def State.partBytes (s : State) (p : Nat) (a n : Nat) : List Byte :=
  (List.range n).map fun i => match (s.part p).place (a + i) with
    | some (m, o) => s.memByte m o
    | none => 0

/-- Writes bytes of a partition's memory, each at its home. -/
def State.setPartBytes (s : State) (p : Nat) (a : Nat) : List Byte → State
  | [] => s
  | v :: vs =>
    let s := match (s.part p).place a with
      | some (m, o) => s.setMemByte m o v
      | none => s
    State.setPartBytes s p (a + 1) vs

/-- A little-endian number of `n` bytes of a partition's memory. -/
def State.partNat (s : State) (p a n : Nat) : Nat := leNat (s.partBytes p a n)

/-- Some line of `n` bytes from an address of a partition's memory reads as poisoned. -/
def State.partPoisoned (s : State) (p a n : Nat) : Bool :=
  (List.range ((a % 64 + n + 63) / 64)).any fun i => match (s.part p).place (a / 64 * 64 + 64 * i) with
    | some (m, o) => s.unreadable m o
    | none => false

/-! ### Staged lines (R214, R234) -/

/-- The lines of the seam buffer that a block holds at a line address, in the order of their writes: those of committed
seams that are not made, then those of its write set (R234, R243). -/
def Block.stagedAt (b : Block) (l : DWord) : List SLine :=
  (b.log.flatMap fun r => r.lines.filter fun x => x.addr == l && !x.made) ++ b.wset.filter fun x => x.addr == l

/-- Mask and data of the bytes of a line that the seam buffer holds for the block (R214). -/
def Block.stagedLine (b : Block) (l : DWord) : DWord × Line :=
  (b.stagedAt l).foldl (fun a x => (a.1 ||| x.mask, lineMerge a.2 x.data x.mask)) (0, 0)

/-- Stages bytes of one line: a line of the seam buffer is claimed or added to (R234). A line that a release store writes
is written last, whole (R222). -/
def Block.stageLine (b : Block) (l : DWord) (data : Line) (mask : DWord) (rel : Nat) : Block :=
  if b.wset.any fun x => x.addr == l then
    { b with wset := b.wset.map fun x =>
        if x.addr == l then { x with data := lineMerge x.data data mask, mask := x.mask ||| mask, rel := max x.rel rel } else x }
  else { b with wset := b.wset ++ [⟨l, lineMerge 0 data mask, mask, rel, false, false⟩] }

/-- Stages bytes from an address on, line by line. -/
def Block.stageBytes (b : Block) (a : DWord) (rel : Nat) : List Byte → Block
  | [] => b
  | v :: vs =>
    let o := lineOff a
    Block.stageBytes (b.stageLine (lineOf a) (BitVec.ofNat 512 (v.toNat * 2 ^ (8 * o))) (spanMask o 1) rel)
      (a + 1) rel vs

/-! ### Checks of an access (R231, R232) -/

/-- What kind of instruction makes an access: ld or st, an atom, or another (R211 lets only the first
reach the management window). -/
inductive AccKind where
  | plain | other | atom
  deriving DecidableEq, Repr

/-- The first failing check of an access of `size` bytes, by order of R231: 0 MEM_WINDOW, 1 MEM_PEER,
2 MEM_ALIGN, 3 MEM_RANGE, with its reason. -/
def State.checkAccess (s : State) (b : Block) (k : AccKind) (size : Nat) (a : DWord) : Option (Nat × Nat) :=
  let p := s.part b.part
  let align (r : Option (Nat × Nat)) : Option (Nat × Nat) :=
    if a.toNat % size ≠ 0 then some (2, 0) else r
  match s.classify a with
  | .perCore _ _ | .cluster _ _ => some (0, 0)
  | .mgmt _ =>
    if !b.desc.priv || k != .plain || size != 4 then some (0, 1) else align none
  | .remote pkg x =>
    match classLocal x with
    | .hbm y => match p.peer pkg with
      | none => some (1, 0)
      | some e => align (if e.hbm ≤ y then some (3, 0) else none)
    | .lpx y => match p.peer pkg with
      | none => some (1, 0)
      | some e => align (if e.lpx ≤ y then some (3, 1) else none)
    | _ => some (0, 4)
  | .hbm x => align (if p.hbmSize ≤ x then some (3, 0) else none)
  | .lpx x => align (if p.lpxSize ≤ x then some (3, 1) else none)
  | .window w o =>
    align (if k == .atom then some (3, 5) else match p.windows.find w with
      | none => some (3, 2)
      | some v => if (s.host.qps.find v.qpn).isNone || v.len < o + size then some (3, 2) else none)
  | .reserved => align (some (3, 4))

/-- A scratchpad access (reason 3 of MEM_RANGE). -/
def Block.checkSpad (b : Block) (size off : Nat) : Option (Nat × Nat) :=
  if off % size ≠ 0 then some (2, 0) else if b.spadSize < off + size then some (3, 3) else none

/-- Event code of a check. -/
def memCode : Nat → Nat
  | 0 => 0x0A01
  | 1 => 0x0A04
  | 2 => 0x0A03
  | _ => 0x0A02

/-- The fault of an instruction: the first check that any thread fails, and the lowest thread that fails it. -/
def firstFault (fs : List (Nat × Option (Nat × Nat))) : Option (Nat × Nat × Nat) :=
  (List.range 4).findSome? fun chk => fs.findSome? fun f => match f.2 with
    | some (c, why) => if c = chk then some (f.1, c, why) else none
    | none => none

/-- Raises a fault of R232 (cls: 0 memory, 1 DMA, 2 mma.drain). -/
def State.memFault (s : State) (c b gidx thread chk why opc cls : Nat) (a : DWord) : State :=
  (s.captureFault c thread (memCode chk) a).progFault c b gidx (memCode chk)
    [(101, thread), (106, why), (109, opc), (117, cls)]

/-- A block's read reached a poisoned line (R266, R278): record, capture and grant fault MEM_POISON. -/
def State.memPoison (s : State) (c b gidx thread : Nat) (a : DWord) (remote : Bool) : State :=
  match s.block c b with
  | none => s
  | some k =>
    let s := s.captureFault c thread 0x0C04 a
    (s.record k.desc.home 0x0C04 3 k.part
      (k.faultFields gidx ++ [(101, (s.normal a).toNat / 64 % 2 ^ 18), (119, remote.toNat)])).endBlock c b 0x0C04

end Sys2Proof.Machine
end

