-- ==== Sys2Proof/Machine/Operands.lean ====
section
/-! DEFINITION. Instruction words (R68 to R70), their layouts by class (R74, R79, R81, R83, R85, R86),
the decode checks of R91 that hold for every instruction, and how a row's decode reads its words. -/

namespace Sys2Proof.Machine

/-- An instruction about to issue: which path of which group, and its words. -/
structure Iss where
  core : Nat
  gslot : Nat
  bslot : Nat
  blk : Block
  grp : Group
  pc : DWord
  /-- Threads of the issuing path, lowest first. -/
  path : List Nat
  w0 : DWord
  w1 : DWord
  /-- `MMX_CTRL.SMMA_EN` of the core (R138). -/
  smmaEn : Bool
  ecc : Ecc
  deriving DecidableEq, Repr

namespace Iss

def cls (x : Iss) : Nat := bits x.w0 63 60
/-- FORM: 0 reg, 1 imm, 2 ext (R68). -/
def form (x : Iss) : Nat := bits x.w0 59 58
def pneg (x : Iss) : Bool := x.w0.getLsbD 57
def pred (x : Iss) : Nat := bits x.w0 56 54
def opc (x : Iss) : Nat := bits x.w0 53 46
/-- A field of the first word. -/
def f (x : Iss) (hi lo : Nat) : Nat := bits x.w0 hi lo
/-- A field of the extension word. -/
def ext (x : Iss) (hi lo : Nat) : Nat := bits x.w1 hi lo

/-- The predicate of a thread (R71). -/
def predOf (x : Iss) (t : Nat) : Bool := (x.grp.thread t).pred x.pred != x.pneg

/-- Threads that act in a per-thread instruction (R72). -/
def acting (x : Iss) : List Nat := x.path.filter x.predOf

/-- Whether a per-issue instruction acts: the predicate of the path's lowest thread (R72). -/
def acts (x : Iss) : Bool := match x.path with
  | [] => false
  | t :: _ => x.predOf t

/-- Bytes of the instruction (R69). -/
def size (x : Iss) : Nat := if x.form = 2 then 16 else 8

/-- Address of the next instruction. -/
def next (x : Iss) : DWord := x.pc + BitVec.ofNat 64 x.size

/-- PRED = 0 with PNEG = 0 (R73). -/
def always (x : Iss) : Bool := x.pred == 0 && !x.pneg

/-- Header checks: the reserved predicate of R71 and the marker of an extension word (R69). -/
def headerOk (x : Iss) : Bool :=
  !(x.pred == 0 && x.pneg) && (x.form != 2 || x.ext 63 60 == 0xF)

end Iss

/-- Alignment of a span (R67): the smallest power of two at or above it. -/
def spanAlign (n : Nat) : Nat := 2 ^ ceilLog2 n

/-- A span of g registers whose base obeys R67. -/
def spanOk (sp : Nat × Nat) : Bool := sp.2 == 0 || sp.1 % spanAlign sp.2 == 0

/-- The lowest register of the spans at or above a limit (R46, R60). -/
def rangeReg (limit : Nat) (spans : List (Nat × Nat)) : Option Nat :=
  let bad := spans.filterMap fun sp =>
    if sp.2 = 0 ∨ sp.1 + sp.2 ≤ limit then none else some (max sp.1 limit)
  match bad with
  | [] => none
  | a :: l => some (l.foldl min a)

/-- Opcodes that the tables of chapter 04 list, by class. -/
def listedOpc (cls opc : Nat) : Bool :=
  match cls with
  | 0 => opc ≤ 0x1E || (0x20 ≤ opc && opc ≤ 0x25) || (0x28 ≤ opc && opc ≤ 0x2B) || (0x30 ≤ opc && opc ≤ 0x32)
  | 1 => opc ≤ 0x12
  | 2 => opc ≤ 0x04
  | 3 => opc ≤ 0x06 || opc == 8 || opc == 9
  | 4 => opc ≤ 3
  | 5 => opc ≤ 3 || opc == 5
  | 6 => opc ≤ 2
  | 7 => opc ≤ 4
  | _ => false

/-- How a row's decode reads an instruction: `legal` holds what R91 asks of this opcode, `wr` and `rd` the spans of g
registers that it writes and reads, `ss` the s registers that it reads or writes. -/
structure Shape where
  cls : Nat
  opc : Nat
  legal : Iss → Bool
  wr : Iss → List (Nat × Nat)
  rd : Iss → List (Nat × Nat)
  ss : Iss → List Nat

/-- The spans of g registers that an instruction names. -/
def Shape.gs (sh : Shape) (x : Iss) : List (Nat × Nat) := sh.wr x ++ sh.rd x

/-- Two spans have a register in common. -/
def spansMeet (a b : Nat × Nat) : Bool := a.1 < b.1 + b.2 && b.1 < a.1 + a.2 && a.2 != 0 && b.2 != 0

/-- Threads whose g registers an instruction reads or writes: its path's; for rdlane and wrlane the thread that they name
(R199); for shfl and pick any thread of the group (R154, R194). -/
def Iss.touched (x : Iss) : List Nat :=
  if x.cls = 1 then [(x.grp.sreg (x.f 33 28)).toNat % 32]
  else if x.cls = 0 ∧ (x.opc = 0x28 ∨ x.opc = 0x32) then List.range 32
  else x.path

/-- A register that the instruction reads (R49) or writes (R197) has a result under way. -/
def Iss.due (x : Iss) (sh : Shape) : Bool :=
  (x.grp.gWait.any fun o => (sh.gs x).any fun sp =>
    (List.range sp.2).any fun j => x.touched.any fun t => o.holds t (sp.1 + j)) ||
  x.grp.sWait.any fun w => (sh.ss x).contains w.2

/-- An index register of a bobbin instruction that has not completed would be written, or, of a bmerge with MODE = 1,
read (R174). -/
def Iss.indexHeld (x : Iss) (sh : Shape) (k : Core) : Bool :=
  k.bob.any fun j => j.grp == x.gslot &&
    ((sh.wr x).any (spansMeet (j.data, j.nreg + 1)) || (j.merge && j.mode && (sh.rd x).any (spansMeet (j.data, j.nreg + 1))))

/-- The instruction waits under R49, R174 or R197. -/
def Iss.waits (x : Iss) (sh : Shape) (s : State) : Bool := x.due sh || x.indexHeld sh (s.core x.core)

end Sys2Proof.Machine
end

