-- ==== Sys2Proof/Machine/Flags.lean ====
section
/-! DEFINITION. Lane flags (R187 to R192): what a report sets in a thread's flag word, in the block lane flag
and in the core's LANE_FLAGS. -/

namespace Sys2Proof.Machine

/-- What one thread's part of an instruction writes and reports. -/
structure TEff where
  /-- g registers written. -/
  regs : List (Nat × Word)
  /-- Predicate written. -/
  pred : Option (Nat × Bool)
  /-- Flag bits reported, LNF left out. -/
  report : Nat
  /-- A report met the condition of the block lane flag (R191). -/
  lnf : Bool
  deriving DecidableEq, Repr

def TEff.none : TEff := ⟨[], Option.none, 0, false⟩
def TEff.write (r : Nat) (v : Word) : TEff := ⟨[(r, v)], Option.none, 0, false⟩

/-- The value of an encoding is NaN or infinite. -/
def nonFinite (k : Elem) (code : Nat) : Bool := !(k.decode code).isFin

/-- The block lane flag condition for one element's report and the encoding it wrote (R191). -/
def lnfOf (k : Elem) (code report : Nat) : Bool :=
  nbit report 4 || ((nbit report 2 || nbit report 3) && nonFinite k code)

/-- Flag word of a thread after a report (R187, R189: bits are sticky). -/
def flagAfter (w : Word) (report : Nat) (lnf : Bool) : Word :=
  w ||| BitVec.ofNat 32 (report % 2 ^ 11 + (if lnf then fLNF else 0))

/-- A thread with an effect applied. -/
def Thread.apply (t : Thread) (e : TEff) : Thread :=
  let t := { t with flags := flagAfter t.flags e.report e.lnf }
  let t := match e.pred with
    | some (n, v) => t.setPred n v
    | Option.none => t
  e.regs.foldl (fun t r => t.setReg r.1 r.2) t

/-- A group with the effects of some threads applied. -/
def Group.apply (g : Group) (es : List (Nat × TEff)) : Group :=
  es.foldl (fun g e => g.updThread e.1 fun t => t.apply e.2) g

/-- Bits that a core's LANE_FLAGS takes from reports (R200). -/
def reportBits (es : List (Nat × TEff)) : Nat :=
  es.foldl (fun a e => a ||| (e.2.report % 2 ^ 11) ||| (if e.2.lnf then fLNF else 0)) 0

/-- Some report met R191. -/
def anyLnf (es : List (Nat × TEff)) : Bool := es.any fun e => e.2.lnf

/-- Lands reports: the block lane flag, LANE_FLAGS and LANE_LNF of the core (R192, R200). -/
def State.landReports (s : State) (c b : Nat) (es : List (Nat × TEff)) : State :=
  let s := if reportBits es = 0 then s else s.orReg (.core c 5) 0 (reportBits es)
  if anyLnf es then (s.updBlock c b fun k => { k with lnf := true }).count (.core c 5) 0x20 1 else s

end Sys2Proof.Machine
end

