-- ==== Sys2Proof/Machine/Stage.lean ====
section
/-! DEFINITION. The seam buffer (R234 to R236), fences (R221, R222) and what an instruction that triggers a
seam leaves behind. -/

namespace Sys2Proof.Machine

/-- Blocks that hold block slots on a core. -/
def Core.blockCount (k : Core) : Nat := k.blocks.length

/-- A block's allowance in lines (R235). -/
def Core.allowance (k : Core) : Nat := 8192 / max 1 k.blockCount

/-- Lines that staged management stores take (R217, R234). -/
def Block.mgmtLines (b : Block) : List Nat := (b.mgmt.map fun w => w.1 / 64).eraseDups

/-- The block's staged lines (R235). -/
def Block.stagedLines (b : Block) : Nat := b.wset.length + b.mgmtLines.length

/-- Lines of the seam buffer in use: staged lines, and committed lines that are not freed (R235, R243). -/
def Core.linesUsed (k : Core) : Nat :=
  (k.blocks.map fun e => e.2.stagedLines +
    (e.2.log.map fun r => (r.lines.filter fun l => !l.made).length).sum).sum

/-- A trigger of a seam; an earlier trigger that no seam has met stays (R236). -/
def Block.trigger (b : Block) (t : Trigger) : Block :=
  if b.trig.isNone then { b with trig := some t } else b

/-- The block takes an overflow trigger when its staged lines reach the high-water mark (R235, R236). -/
def Block.checkMark (b : Block) (allow : Nat) : Block :=
  if allow - 128 ≤ b.stagedLines then b.trigger .overflow else b

/-- Lines that a write would newly take. -/
def Block.newLines (b : Block) (ls : List DWord) : Nat :=
  (ls.eraseDups.filter fun l => !b.wset.any fun x => x.addr == l).length

/-- Writes of a block's instruction: a scratchpad byte run, a run staged at a global address, or a
management store (R217). -/
inductive Write where
  | spad (off : Nat) (bytes : List Byte)
  | glob (addr : DWord) (bytes : List Byte)
  | mgmt (addr : Nat) (v : Word)
  deriving DecidableEq, Repr

/-- Pages with those of a write of `n` bytes at a scratchpad offset. -/
def touched (ps : List Nat) (o n : Nat) : List Nat :=
  (List.range (ceilDiv (o % 4096 + n) 4096)).foldl (fun l i => if l.contains (o / 4096 + i) then l else l ++ [o / 4096 + i]) ps

/-- The pages of a write of `n` bytes at a scratchpad offset are written (R239). -/
def Block.touch (b : Block) (o n : Nat) : Block :=
  { b with dirtyP := touched b.dirtyP o n, wroteP := touched b.wroteP o n }

/-- The writes applied to the block; `rel` is the scope of a release store, whose lines it marks (R222). -/
def Block.write (b : Block) (rel : Nat) : Write → Block
  | .spad o v => (b.writeSpad o v).touch o v.length
  | .glob a v => b.stageBytes a rel v
  | .mgmt a v => { b with mgmt := b.mgmt ++ [(a, v)] }

/-- Lines of the management window that writes would newly take. -/
def Block.newMgmt (b : Block) (ws : List Write) : Nat :=
  ((ws.filterMap fun w => match w with
    | .mgmt a _ => some (a / 64)
    | _ => none).eraseDups.filter fun l => !b.mgmtLines.contains l).length

/-- Lines that writes touch. -/
def linesOf : List Write → List DWord
  | [] => []
  | .glob a v :: l =>
    ((List.range (ceilDiv (lineOff a + v.length) 64)).map fun i => lineOf a + BitVec.ofNat 64 (64 * i)) ++ linesOf l
  | _ :: l => linesOf l

/-- Stages an instruction's writes: none where no free line is left (R235: the group then waits). -/
def State.stage (s : State) (c b : Nat) (rel : Nat) (ws : List Write) : Option State :=
  let k := s.core c
  match k.blocks.find b with
  | none => some s
  | some blk =>
    if 8192 < k.linesUsed + blk.newLines (linesOf ws) + blk.newMgmt ws then none
    else some (s.setBlock c b ((ws.foldl (fun q w => q.write rel w) blk).checkMark k.allowance))

/-- The tile sequencer has images of a staged instruction to read (R131, R132, R137). -/
def Staged.reading (x : Staged) : Bool :=
  match x.kind with
  | .s _ n next => next + 1 < n || x.a.isNone
  | .sm reqs => 1 < reqs.length || x.a.isNone
  | _ => false

/-- The tile sequencer reads the scratchpad for a group (R132). -/
def Core.tileReads (k : Core) (g : Nat) : Bool := k.staged.any fun x => x.grp == g && x.reading

/-- The group has an access that is not made at its target: a load under way, a drain, bobbin work, or reads of the
tile sequencer (R132, R220, R221). -/
def State.groupBusy (s : State) (c g : Nat) : Bool :=
  let k := s.core c
  (k.ni.any fun e => e.2.grp == g && !e.2.dead && match e.2.kind with
    | .write | .bob | .dma _ => false
    | _ => true) || k.drainDue g || k.tileReads g || k.bob.any fun j => j.grp == g

/-- A device- or system-scope acquire: the acquire mark becomes the core's next fill number (R213). -/
def State.acquire (s : State) (c b : Nat) : State :=
  let n := (s.core c).nextFill
  (s.updBlock c b fun k => { k with acq := n }).count (.core c 7) 0x28 1

/-- All lines of a record that the hold's scope waits for are made: local homes, and for system scope the
acknowledged ones too (R221, R244). -/
def State.linesMade (s : State) (scope : Nat) (r : SeamRec) : Bool :=
  r.lines.all fun l => l.made || (scope == 2 && match s.classify l.addr with
    | .hbm _ | .lpx _ => false
    | _ => true)

/-- A hold's seam has been made as its scope asks. -/
def State.holdDone (s : State) (b : Block) (scope : Nat) (seam : Option DWord) : Bool :=
  match seam with
  | none => false
  | some st => b.log.all fun r => r.stamp != st || s.linesMade scope r

/-- Releases the groups of a block whose hold is satisfied: a fence's acquire mark is set, and a
scratchpad release store is made (R221, R222). -/
def State.releaseHolds (s : State) (c b : Nat) : State :=
  match s.block c b with
  | none => s
  | some blk => blk.gslots.foldl (fun s g => match s.group c g with
      | none => s
      | some k => match k.hold with
        | .fence scope seam =>
          if s.holdDone blk scope seam then (s.setGroup c g { k with hold := .none }).acquire c b else s
        | .relSpad scope seam ws =>
          if s.holdDone blk scope seam then
            ((s.setGroup c g { k with hold := .none }).updBlock c b fun q =>
              ws.foldl (fun q w => q.write 0 (.spad w.1 [w.2])) q).acquire c b
          else s
        | _ => s) s

end Sys2Proof.Machine
end

