-- ==== Sys2Proof/Machine/Fabric.lean ====
section
/-! DEFINITION. Routes between packages (R297 to R301), the bodies that messages fill (R290), and how frames
leave on a tatting link (R288, R291, R292, R302, R303, R306). -/

namespace Sys2Proof.Machine

/-! ### Routes -/

/-- X and Y of `FAB_TOPO` (R297). -/
def State.torusX (s : State) : Nat := bits (s.regWord (Blk.base (.dFab 0))) 5 0 + 1
def State.torusY (s : State) : Nat := bits (s.regWord (Blk.base (.dFab 0))) 13 8 + 1

/-- Direction 0 (plus) or 1 (minus) of fewer hops from `a` to `b` round a ring; plus on a tie (R300). -/
def ringDir (n a b : Nat) : Nat :=
  let f := (b + n - a) % n
  if f ≤ n - f then 0 else 1

/-- What the next hop towards a package is: a far direction (0 +X, 1 −X, 2 +Y, 3 −Y) or a near distance. -/
inductive Leg where
  | far (dir : Nat)
  | near (d : Nat)
  deriving DecidableEq, Repr

/-- The next leg from this package; none at the destination. -/
def State.leg (s : State) (pkg : Nat) : Option Leg :=
  let own := s.pkgIdNat
  let x := s.torusX
  let y := s.torusY
  let gx := own / 8 % x
  let gy := own / 8 / x
  let tx := pkg / 8 % x
  let ty := pkg / 8 / x
  if gx ≠ tx then some (.far (ringDir x gx tx))
  else if gy ≠ ty then some (.far (2 + ringDir y gy ty))
  else if own % 8 ≠ pkg % 8 then some (.near (Nat.xor (own % 8) (pkg % 8)))
  else none

/-- The link of die `n` for a leg, if it has one (R298, R299). -/
def Leg.linkOf (n : Nat) : Leg → Option Nat
  | .far j => some (32 + 4 * n + j)
  | .near d => if (d + 8 - n) % 8 < 4 then some (4 * n + (d + 8 - n) % 8) else none

/-- The link on which a frame from die `n` takes a leg: die `n`'s own, else that of the lowest die whose link
is UP (R300). -/
def pickLink (up : List Nat) (n : Nat) (g : Leg) : Option Nat :=
  (n :: List.range 8).findSome? fun d => match g.linkOf d with
    | some l => if up.contains l then some l else none
    | none => none

/-- The first link of the route from die `n` to a package under a set of links that are UP. -/
def State.routeWith (s : State) (up : List Nat) (n pkg : Nat) : Option Nat :=
  match s.leg pkg with
  | some g => pickLink up n g
  | none => none

/-- The route in force, computed at the last boundary (R301). -/
def State.route (s : State) (n pkg : Nat) : Option Nat := s.routeWith s.routeUp n pkg

/-- Dimension of a link: 0 X, 1 Y, 2 near. -/
def linkDim (l : Nat) : Nat := if l < 32 then 2 else l % 4 / 2

/-- A hop round a ring of `n`, forward or back from `c`, goes from n − 1 to 0 or from 0 to n − 1 (R300). -/
def crossesEdge (n c : Nat) (back : Bool) : Bool :=
  let d := if back then (c + n - 1) % n else (c + 1) % n
  (c == n - 1 && d == 0) || (c == 0 && d == n - 1)

/-- A hop on a far link crosses the edge of the torus (R300). -/
def State.wraps (s : State) (l : Nat) : Bool :=
  let g := s.pkgIdNat / 8
  let x := s.torusX
  32 ≤ l && if l % 4 < 2 then crossesEdge x (g % x) (l % 2 == 1) else crossesEdge s.torusY (g / x) (l % 2 == 1)

/-- Virtual channel of a hop on link `l` after an earlier hop in dimension and channel `prev` (R300). -/
def State.channel (s : State) (l : Nat) (resp : Bool) (prev : Option (Nat × Nat)) : Nat :=
  let start := if resp then 2 else 0
  if s.wraps l then start + 1
  else match prev with
    | some (d, vc) => if d = linkDim l then vc else start
    | none => start

/-! ### Frames on a link -/

/-- Bytes of a message in a body (R290). -/
def msgLen (m : Msg) : Nat :=
  match m.mtype with
  | 2 => 88
  | 3 | 6 => 32
  | 4 => 80
  | _ => 16

/-- Class of a frame on a link: exchange, then responses, then requests (R302). -/
def OutFrame.cls (f : OutFrame) : Nat :=
  match f.body with
  | .exch _ => 0
  | .notice _ => 1
  | _ => if f.resp then 1 else 2

/-- The frame uses a virtual channel and its credit (R291). -/
def OutFrame.usesCredit (f : OutFrame) : Bool :=
  match f.body with
  | .exch _ | .idle => false
  | _ => true

/-- DIST that this package sends (R303). -/
def State.distOut (s : State) : Nat :=
  if s.regWord (Blk.base .time + 8) &&& 1 = 1 ∧ s.boot.ready then 0
  else if !s.inSync then 255
  else min 254 (1 + (s.link s.time.link).dist)

/-- A link can send this frame now (R291, R292). -/
def Link.canSend (k : Link) (f : OutFrame) : Bool :=
  k.st == .up && k.replay.length < 256 && (!f.usesCredit || 0 < k.credits.getD f.vc 0)

/-- Order of waiting frames: class, then rotation by source partition, then age. -/
def Link.urgency (k : Link) (f : OutFrame) : Nat := 8 * f.cls + (f.srcPart + 7 - k.served) % 8

/-- The waiting frame that leaves next, by its place. -/
def Link.pick (k : Link) : Option Nat :=
  let c := (List.range k.queue.length).filterMap fun i => match k.queue[i]? with
    | some f => if k.canSend f then some (k.urgency f, i) else none
    | none => none
  match c with
  | [] => none
  | a :: l => some (l.foldl (fun b x => if x.1 < b.1 then x else b) a).2

/-- Receive buffers of a channel of a link (R291). -/
def rxBuffers : Nat := 32

/-- Receive buffers in use of a channel of a link: by frames whose messages wait for their homes, and by frames in transit
that wait for their next link (R291). -/
def State.rxUse (s : State) (l vc : Nat) : Nat :=
  ((s.inbox.filter fun m => m.link == l && m.vc == vc).map (·.seq)).eraseDups.length +
    (s.links.map fun e => (e.2.queue.filter fun f => f.held && f.via == some (l, vc)).length).sum

/-- Receive buffers of a channel freed since the last report, as a 5-bit field holds them (R288). -/
def State.freed (s : State) (l vc : Nat) : Nat := min 31 ((s.link l).lent.getD vc 0 - s.rxUse l vc)

/-- The hop header that a link's next frame carries. An idle frame has all of it: its other bytes that are zero are those
after the hop header (R288; the words can be read otherwise, notes/assumptions/150). -/
def State.hopFor (s : State) (l : Nat) (seq : BitVec 12) : Hop :=
  let k := s.link l
  { seq := seq, ack := k.nextRx - 1, nak := k.nakPend, dist := s.distOut, lanes := k.lanes
    credits := (List.range 4).map (s.freed l)
    time := if k.synced then none else some s.time.tsc }

/-- After a header has left: what it reported is reported. -/
def State.hopSent (s : State) (l : Nat) : State :=
  let f := (List.range 4).map (s.freed l)
  s.updLink l fun k => { k with
    nakPend := false, synced := true, lent := (List.range 4).map fun i => k.lent.getD i 0 - f.getD i 0 }

/-- An idle frame, which carries ACK, NAK and credits (R288). -/
def State.sendIdle (s : State) (l : Nat) : State :=
  if (s.link l).st == .up then
    (s.emit (.linkFrame l (s.hopFor l 0) ⟨0, false, 0, 0, 0, 0, 0, 0, .idle, none, none, false⟩)).hopSent l
  else s

/-- The frame with its origin and counter: a body is encrypted when it leaves its source package; a
notice's is cleartext (R290, R306). None when the partition holds no key (R308). -/
def State.seal (s : State) (l : Nat) (f : OutFrame) : Option (OutFrame × State) :=
  match f.body with
  | .notice _ => some ({ f with origin := l }, s)
  | _ =>
    if f.counter ≠ 0 ∨ f.srcPkg ≠ s.pkgIdNat then some (f, s)
    else if !(s.part f.srcPart).keys then none
    else
      let n := (s.part f.srcPart).txCtr.get l 0 + 1
      some ({ f with origin := l, counter := BitVec.ofNat 64 n, key := some (s.part f.srcPart).linkKey },
        s.updPart f.srcPart fun p => { p with txCtr := p.txCtr.put l n })

/-- Sends one frame: it takes the next SEQ and stays in the replay buffer (R292). -/
def State.transmit (s : State) (l : Nat) (f : OutFrame) : State :=
  match s.seal l f with
  | none => s
  | some (f, s) =>
    let seq := (s.link l).nextTx
    let spent (c : List Nat) : List Nat := if f.usesCredit then c.modify f.vc (· - 1) else c
    let f := { f with held := false }
    let s := s.emit (.linkFrame l (s.hopFor l seq) f)
    let s := s.updLink l fun k => { k with
      nextTx := k.nextTx + 1, replay := k.replay ++ [⟨seq, f, false⟩], credits := spent k.credits, served := f.srcPart }
    ((s.hopSent l).count (.tl l) 0x40 1)

/-- Sends what a link's waiting frames allow. -/
def State.pumpN (s : State) (l : Nat) : Nat → State
  | 0 => s
  | n + 1 => match (s.link l).pick with
    | none => s
    | some i => match (s.link l).queue[i]? with
      | none => s
      | some f => State.pumpN ((s.updLink l fun k => { k with queue := k.queue.eraseIdx i }).transmit l f) l n

/-- A link starts no new frame while the retirement decision on one of its lanes is late (R31). -/
def State.laneLate (s : State) (l : Nat) : Bool := (List.range 4).any fun k => s.lateAt (unitLane l k)

def State.pump (s : State) (l : Nat) : State := if s.laneLate l then s else s.pumpN l (s.link l).queue.length

/-- A frame joins a link's waiting frames and leaves as soon as it can. -/
def State.sendOn (s : State) (l : Nat) (f : OutFrame) : State :=
  (s.updLink l fun k => { k with queue := k.queue ++ [f] }).pump l

/-- Resends a link's kept frames from a place on, with their numbers (R292). -/
def State.resend (s : State) (l : Nat) (fs : List Sent) : State :=
  fs.foldl (fun s x => ((s.emit (.linkFrame l (s.hopFor l x.seq) x.frame)).hopSent l).count (.tl l) 0x50 1) s

/-! ### Bodies -/

/-- A body leaves as a frame on its route; where no route exists it goes nowhere (R300). -/
def State.sendBody (s : State) (die : Nat) (b : Filling) : State :=
  match s.route die b.pkg with
  | none => s
  | some l => s.sendOn l ⟨s.channel l b.resp none, b.resp, b.pkg, s.pkgIdNat, b.dstPart, b.part, 0, 0,
      .fabric b.msgs, none, none, false⟩

/-- Bytes in use of a body. -/
def Filling.len (b : Filling) : Nat := (b.msgs.map msgLen).sum

/-- A body holds no further message, of which the smallest has 16 bytes (R290). -/
def Filling.full (b : Filling) : Bool := 1024 < b.len + 16

/-- A body takes its place among those of a die, or leaves where it is full (R290). -/
def State.putFill (s : State) (die i : Nat) (b : Filling) : State :=
  if b.full then (s.updDie die fun d => { d with fill := d.fill.del i }).sendBody die b
  else s.updDie die fun d => { d with fill := d.fill.put i b }

/-- A message enters the body that a die's router fills for its partitions and destination; a body that has
no room for it is sent first, and one that it fills is sent at once (R290). -/
def State.post (s : State) (die part pkg dstPart : Nat) (resp : Bool) (m : Msg) : State :=
  let fill := (s.die die).fill
  let same (e : Nat × Filling) : Bool :=
    e.2.part == part && e.2.pkg == pkg && e.2.dstPart == dstPart && e.2.resp == resp
  match fill.find? same with
  | some (i, b) =>
    if b.len + msgLen m ≤ 1024 then s.putFill die i { b with msgs := b.msgs ++ [m] }
    else ((s.updDie die fun d => { d with fill := d.fill.del i }).sendBody die b).putFill die i
      { b with since := s.time.tsc.toNat, msgs := [m] }
  | none => s.putFill die ((fill.free 4096).getD 0) ⟨s.time.tsc.toNat, part, pkg, dstPart, resp, [m]⟩

/-- Ticks after which a body that is not full leaves (R290). -/
def flushTicks : Nat := 32

/-- FRAME_FLUSH_TIMER: a body leaves 32 ticks after its first message entered it (R290). -/
def execFrameFlushTimer (die i : Nat) (s : State) : Res :=
  needUnit "die" die 8 <|
  needSome s ((s.die die).fill.find i) /- no such body is being filled -/ fun b =>
  needTick s (b.since + flushTicks) fun s =>
  .next ((s.updDie die fun d => { d with fill := d.fill.del i }).sendBody die b)

/-- The partition of a package that the peer table names, for system addresses of that package (R204). -/
def State.peerPart (s : State) (part pkg : Nat) : Nat :=
  match (s.part part).peer pkg with
  | some e => e.part
  | none => 0

/-- TAG of a request (R283). -/
def tagOf (entry attempt : Nat) : Nat := attempt % 8 * 256 + entry

/-- SRCUNIT of a core's requests: its logical core's unit number (R12). -/
def coreMsg (core entry attempt mtype aop size : Nat) (a mask : DWord) (data : Line) : Msg :=
  ⟨mtype, aop, size, core, tagOf entry attempt, 0, 0, 0, BitVec.ofNat 64 (bits a 48 0), mask, data⟩

end Sys2Proof.Machine
end

