-- ==== Sys2Proof/Machine/Frames.lean ====
section
/-! DEFINITION. The bytes of a frame on a tatting link: headers (R288, R289), messages and bodies (R290, R322), link
encryption (R306), lane striping and lane CRCs (R286, R287). -/

namespace Sys2Proof.Machine

/-! ### Headers -/

/-- TYPE of a frame (R288). -/
def OutFrame.typeCode (f : OutFrame) : Nat :=
  match f.body with
  | .idle => 0
  | .fabric _ => 1
  | .exch _ => 2
  | .notice _ => 3

/-- Bytes 0 to 15: the hop header (R288). -/
def hopBytes (h : Hop) (f : OutFrame) : List Byte :=
  natLe 8 (word ([(0, h.seq.toNat), (12, h.ack.toNat), (24, h.nak.toNat), (25, h.time.isSome.toNat), (26, f.vc % 4),
      (28, f.typeCode), (32, h.dist % 256), (40, h.lanes.toNat)] ++
      (List.range 4).map fun i => (44 + 5 * i, h.credits.getD i 0 % 32))) ++
    natLe 8 ((h.time.getD 0).toNat)

/-- Bytes of the body in use: LEN (R289, R290, R322). -/
def bodyLen : FrameBody → Nat
  | .idle => 0
  | .fabric ms => (ms.map msgLen).sum
  | .exch b => 32 + 4 * b.payload.length
  | .notice _ => 8

/-- First word of the route header (R289). -/
def OutFrame.routeWord (f : OutFrame) : Nat :=
  word [(0, f.dstPkg % 2 ^ 14), (14, f.srcPkg % 2 ^ 14), (28, f.dstPart % 8), (31, f.srcPart % 8), (34, f.origin % 64),
    (48, bodyLen f.body)]

/-- Bytes 16 to 31: the route header (R289); an idle frame's are zero (R288). -/
def routeBytes (f : OutFrame) : List Byte :=
  match f.body with
  | .idle => natLe 16 0
  | .notice _ => natLe 8 f.routeWord ++ natLe 8 0
  | _ => natLe 8 f.routeWord ++ natLe 8 f.counter.toNat

/-! ### Bodies -/

/-- The 16-byte header of a message (R290). -/
def msgHeader (m : Msg) : List Byte :=
  natLe 16 (word [(0, m.mtype % 16), (4, m.aop % 16), (8, m.size % 8), (11, m.srcUnit % 2 ^ 18), (29, m.tag % 2 ^ 12),
    (41, m.status % 2 ^ 7), (48, m.jthread % 32), (53, m.jslot % 16), (64, bits m.addr 48 0)])

/-- A message: its header and what follows by MTYPE (R290). -/
def msgBytes (m : Msg) : List Byte :=
  msgHeader m ++ match m.mtype with
    | 2 => natLe 8 m.mask.toNat ++ natLe 64 m.data.toNat
    | 3 | 6 => natLe 16 m.data.toNat
    | 4 => natLe 64 m.data.toNat
    | _ => []

/-- The bytes of an exchange frame's body (R322). -/
def exchBytes (b : ExchBody) : List Byte :=
  natLe 4 b.step.toNat ++ natLe 4 b.frame ++ natLe 2 b.entry ++ natLe 1 b.kind ++ natLe 1 b.last.toNat
    ++ natLe 4 b.start.toNat ++ natLe 8 b.value.toNat ++ natLe 8 0 ++ b.payload.flatMap fun w => natLe 4 w.toNat

/-- The body before encryption: its bytes in use, then zeros (R290, R322; the zeros are a choice, notes/assumptions/152). -/
def plainBody (b : FrameBody) : List Byte :=
  let bs := match b with
    | .idle => []
    | .fabric ms => ms.flatMap msgBytes
    | .exch x => exchBytes x
    | .notice r => natLe 8 r
  (bs ++ natLe (1024 - bs.length) 0).take 1024

/-- The 96-bit IV (R306). -/
def OutFrame.iv (f : OutFrame) : BitVec 96 :=
  BitVec.ofNat 96 (word [(82, f.srcPkg % 2 ^ 14), (79, f.srcPart % 8), (73, f.origin % 64), (0, f.counter.toNat)])

/-- Bytes 32 to 1,071: the body and the tag, ciphertext under the source partition's link key with the route header as
additional authenticated data; an idle frame and a notice are cleartext without a tag (R287, R290, R306). -/
def sealedBytes (f : OutFrame) : List Byte :=
  match f.key with
  | some k => (List.range 1040).map (Config.gcmByte k f.iv (routeBytes f) (plainBody f.body))
  | none => plainBody f.body ++ natLe 16 0

/-! ### Lanes (R286, R287) -/

/-- CRC-32C of one more byte: polynomial 0x1EDC_6F41, reflected. -/
def crc32cByte (c : Nat) (b : Byte) : Nat :=
  (List.range 8).foldl (fun c _ => if c % 2 = 1 then Nat.xor (c / 2) 0x82F63B78 else c / 2) (Nat.xor c b.toNat)

/-- CRC-32C. -/
def crc32c (bs : List Byte) : Nat := Nat.xor (bs.foldl crc32cByte (2 ^ 32 - 1)) (2 ^ 32 - 1)

/-- The lane that carries byte `i` of a frame: the (i mod L)-th of the L lanes in service. -/
def laneOfByte (lanes : BitVec 4) (i : Nat) : Option Nat :=
  let ls := (List.range 4).filter fun k => lanes.getLsbD k
  ls[i % ls.length]?

/-- The bytes that a lane carries. -/
def laneBytes (lanes : BitVec 4) (k : Nat) (bs : List Byte) : List Byte :=
  ((List.range bs.length).zip bs).filterMap fun e => if laneOfByte lanes e.1 = some k then some e.2 else none

/-- The four lane CRCs; the field of a lane out of service is zero. -/
def laneCrcs (lanes : BitVec 4) (bs : List Byte) : List Byte :=
  (List.range 4).flatMap fun k => natLe 4 (if lanes.getLsbD k then crc32c (laneBytes lanes k bs) else 0)

/-- The 1,088 bytes of a frame (R287). -/
def frameBytes (h : Hop) (f : OutFrame) : List Byte :=
  let bs := hopBytes h f ++ routeBytes f ++ sealedBytes f
  bs ++ laneCrcs h.lanes bs

/-- What lane `k` carries of what a link sends: one frame's share (R286). -/
def Out.onLane (o : Out) (l k : Nat) : List Byte :=
  match o with
  | .linkFrame n h f => if n = l then laneBytes h.lanes k (frameBytes h f) else []
  | _ => []

end Sys2Proof.Machine
end

