-- ==== Sys2Proof/Machine/Buckets.lean ====
section
/-! DEFINITION. Channels, their leaky buckets and budgets (R409, R410), and the decisions that wait for the
next boundary (R415). -/

namespace Sys2Proof.Machine

/-- A channel's level. -/
def State.levelOf (s : State) : Channel → Nat
  | .lane l k => (s.link l).level.get k 0
  | .pseudo m p => (s.memUnit m).level.get p 0
  | .lpx m ch => (s.memUnit (0x10 + m)).level.get ch 0
  | .phys d i => ((s.die d).phys.get i PhysSt.fresh).level
  | .reservation p d => ((s.part p).ex.res.get d Resv.fresh).level

def State.setLevel (s : State) (ch : Channel) (v : Nat) : State :=
  match ch with
  | .lane l k => s.updLink l fun x => { x with level := x.level.put k v }
  | .pseudo m p => s.updMemUnit m fun x => { x with level := x.level.put p v }
  | .lpx m c => s.updMemUnit (0x10 + m) fun x => { x with level := x.level.put c v }
  | .phys d i => s.updDie d fun x => { x with phys := x.phys.upd i PhysSt.fresh fun q => { q with level := v } }
  | .reservation p d => s.updEx p fun x => { x with res := x.res.upd d Resv.fresh fun q => { q with level := v } }

/-- A retired channel's counter keeps its last value (R409). -/
def State.retiredCh (s : State) : Channel → Bool
  | .lane l k => (s.link l).laneRet.getLsbD k || (s.link l).st == .retired
  | .pseudo m p => (s.memUnit m).pcRet.getLsbD p
  | .lpx m ch => (s.memUnit (0x10 + m)).pcRet.getLsbD ch
  | .phys d i => ((s.die d).phys.get i PhysSt.fresh).retired
  | .reservation p d => !((s.part p).ex.res.get d Resv.fresh).active

/-- Budgets (R410). -/
def chBudget : Channel → Nat
  | .lane _ _ => 32
  | .pseudo _ _ | .lpx _ _ => 256
  | .phys _ _ => 2
  | .reservation _ _ => 4

/-- Leak periods in beats (R410); a reservation leaks at step boundaries. -/
def chLeak : Channel → Option Nat
  | .lane _ _ => some 256
  | .pseudo _ _ | .lpx _ _ => some 1024
  | .phys _ _ => some 16777216
  | .reservation _ _ => none

/-- A decision joins those that wait, in R36 order of the triggering records; a second one of the same unit adds
nothing. -/
def State.decisionDue (s : State) (unit : Nat) (p : Pending) : State :=
  if s.mf.pending.any fun d => d.what == p then s
  else
    let e : Due := ⟨s.time.tsc, s.source unit, p⟩
    let before (d : Due) : Bool := d.tsc.toNat < e.tsc.toNat || (d.tsc == e.tsc && d.src ≤ e.src)
    s.updMf fun m => { m with pending := m.pending.filter before ++ e :: m.pending.filter fun d => !before d }

/-- An error event on a channel (R409): the level rises, and a level above the budget calls for a decision. -/
def State.bump (s : State) (ch : Channel) : State :=
  if s.retiredCh ch then s
  else
    let v := satAdd 16 (s.levelOf ch) 1
    let s := s.setLevel ch v
    if v ≤ chBudget ch then s
    else match ch with
      | .lane l k => s.decisionDue (unitLane l k) (.lane l k)
      | .pseudo m p => s.decisionDue (unitPseudo m p) (.pseudo m p)
      | .lpx m c => s.decisionDue (unitLpxCh m c) (.lpx m c)
      | .phys _ _ => s
      | .reservation p d => s.updEx p fun x =>
          if x.resPend.any fun r => r.1 == d then x else { x with resPend := x.resPend ++ [(d, 2)] }

/-- LEAKY_BUCKET_LEAK: at a leak boundary a channel's level falls by 1 (R409). -/
def execLeakyBucketLeak (ch : Channel) (s : State) : Res :=
  match chLeak ch with
  | none => .next s -- a reservation leaks at step boundaries (R410)
  | some period =>
    need s (s.time.tsc.toNat % (2048 * period) == 0) /- this tick is no leak boundary of the channel -/ <|
    need s (!s.mf.leaked.contains ch) /- the channel has leaked at this boundary -/ <|
    let s := s.updMf fun m => { m with leaked := m.leaked ++ [ch] }
    .next (if s.retiredCh ch ∨ s.levelOf ch = 0 then s else s.setLevel ch (s.levelOf ch - 1))

end Sys2Proof.Machine
end

