-- ==== Sys2Proof/Machine/Home.lean ====
section
/-! DEFINITION. What a home does with a line of its stack or module (chapter 12): protection, poison, command
retries, remapping, patrol scrub and retrain. -/

namespace Sys2Proof.Machine

/-- A module's memory number. -/
def isLpx (mem : Nat) : Bool := 16 ≤ mem

/-- The channel of an offset: pseudo-channel o[12:8] of a stack (R264), channel o[10:8] of a module (R471). -/
def chanOf (mem off : Nat) : Channel :=
  if isLpx mem then .lpx (mem - 16) (off / 256 % 8) else .pseudo mem (off / 256 % 32)

/-- Unit number of an offset's channel. -/
def chanUnit (mem off : Nat) : Nat :=
  if isLpx mem then unitLpxCh (mem - 16) (off / 256 % 8) else unitPseudo mem (off / 256 % 32)

/-- The register block of a memory. -/
def memBlk (mem : Nat) : Blk := if isLpx mem then .lpx (mem - 16) else .dHbm mem

/-- PART of a home's record. -/
def State.memPart (s : State) (mem : Nat) : Nat := partField (s.partOfDie (dieOfMem mem))

/-- The grant fault of work that needs a compute die that failed in service (R413). -/
def codeDieFailed : Nat := 0x1205

/-- A hub is lost (R414). -/
def State.hubGone (s : State) (h : Nat) : Bool := if h = 0 then s.boot.hub0.lost else s.boot.hub1.lost

/-- The home has left service: its die has failed in service, or its module's hub is lost (R413, R414). -/
def State.homeLost (s : State) (mem : Nat) : Bool :=
  (s.die (dieOfMem mem)).failedService ||
    isLpx mem && s.hubGone (hubOfDie (dieOfMem mem))

/-- The access waits at the home: a retrain runs, its page is being copied, or a decision on its channel is late (R31, R268,
R270). -/
def State.homeHeld (s : State) (mem off : Nat) : Bool :=
  let u := s.memUnit mem
  (u.retrain || u.copies.any fun (c : Nat × Nat) => c.1 == off / 0x1_0000) || s.lateAt (chanUnit mem off)

/-- A correction (R265, R277): record, count and level. -/
def State.corrected (s : State) (mem off : Nat) : State :=
  let s := s.updMemUnit mem fun u => { u with lastErr := u.lastErr.put (off / 256 % 32) (off / 0x1_0000) }
  if isLpx mem then
    ((s.record (chanUnit mem off) 0x0C07 1 (s.memPart mem) [(0, off)]).count (memBlk mem) 0x80 1).bump (chanOf mem off)
  else ((s.record (chanUnit mem off) 0x0C01 1 (s.memPart mem) [(0, off)]).count (memBlk mem) 0xC0 1).bump (chanOf mem off)

/-- Entries of a module's poison table (R277). -/
def poisonTable : Nat := 256

/-- The module or stack is to leave the interleave; recorded when LEAVE is first set. -/
def State.setLeave (s : State) (mem : Nat) : State :=
  if (s.memUnit mem).leave then s
  else
    let s := if mem < 16 then s.dropSaved 0 mem else s.dropSaved 1 (mem - 16)
    (s.updMemUnit mem fun u => { u with leave := true }).record (unitMem mem) 0x0C08 2 (s.memPart mem) [(0, mem)]

/-- A line that protection cannot correct becomes poisoned (R266, R277, R411). -/
def State.poisonLine (s : State) (mem off : Nat) : State :=
  if s.poisoned mem off then s
  else
    let lpx := isLpx mem
    let s := s.record (chanUnit mem off) 0x0C03 3 (s.memPart mem) [(0, off / 64 * 64), (64, lpx.toNat)]
    let s := s.count (memBlk mem) (if lpx then 0x88 else 0xC8) 1
    if lpx then
      if poisonTable ≤ (s.memUnit mem).poison.length then s.updMemUnit mem fun u => { u with allPoison := true }
      else
        let s := s.updMemUnit mem fun u => { u with poison := u.poison ++ [off / 64] }
        if poisonTable ≤ (s.memUnit mem).poison.length then s.setLeave mem else s
    else
      (s.updMemUnit mem fun u => { u with poison := u.poison ++ [off / 64] }).decisionDue (chanUnit mem off)
        (.page mem (off / 0x1_0000))

/-- Retries of one command after which it has failed (R270). -/
def retryLimit : Nat := 3

/-- `n` retries of one command (R260, R265): counted. -/
def State.retries (s : State) (mem off : Nat) : Nat → State
  | 0 => s
  | n + 1 => State.retries ((s.count (memBlk mem) 0xD0 1).bump (chanOf mem off)) mem off n

/-- What a home answers to a read: the state, and the line with its poison, or nothing while it is held. -/
structure HomeAns where
  st : State
  ans : Option (Line × Bool)
  deriving DecidableEq, Repr

/-- A read of a line at its home (R265, R266, R270, R277). -/
def State.homeRead (s : State) (mem off : Nat) (ecc : Ecc) : HomeAns :=
  let o := off / 64 * 64
  if s.homeHeld mem off then ⟨s, none⟩
  else if s.unreadable mem off then
    let s := s.poisonLine mem o
    ⟨s, some (s.memLine mem o, true)⟩
  else match ecc with
    | .clean => ⟨s, some (s.memLine mem o, false)⟩
    | .corrected =>
      let s := s.corrected mem o
      ⟨s, some (s.memLine mem o, false)⟩
    | .uncorrectable =>
      let s := s.poisonLine mem o
      ⟨s, some (s.memLine mem o, true)⟩
    | .retried n =>
      let s := if isLpx mem then s else s.retries mem o (min n retryLimit)
      if n ≤ retryLimit ∨ isLpx mem then ⟨s, some (s.memLine mem o, false)⟩
      else ⟨s.updMemUnit mem fun u => { u with retrain := true }, none⟩

/-- An access at a home: found in the pool cache or not, with a line written back for it or not, which no rule decides
(R215; notes/assumptions/17). -/
def State.pooled (s : State) (mem : Nat) : State :=
  let w := s.drawWord.1
  let d := Blk.dAmap (dieOfMem mem)
  (s.drawWord.2.count d (if w.getLsbD 0 then 0x20 else 0x28) 1).count d 0x30 (w.getLsbD 1).toNat

/-- A read of a line through its home's pool cache (R215). -/
def State.poolRead (s : State) (mem off : Nat) (ecc : Ecc) : HomeAns :=
  let r := s.homeRead mem off ecc
  if r.ans.isSome then ⟨r.st.pooled mem, r.ans⟩ else r

/-- Drops a write to a poisoned line, with its event; a wholly poisoned module's once per beat (R266, R277). -/
def State.dropWrite (s : State) (mem off : Nat) : State :=
  let u := s.memUnit mem
  if u.allPoison && u.dropRec then s
  else
    (if u.allPoison then s.updMemUnit mem fun u => { u with dropRec := true } else s).record
      (chanUnit mem off) 0x0C05 2 (s.memPart mem) [(0, off / 64 * 64), (64, (isLpx mem).toNat)]

/-- The write of some bytes of a line as one update (R218), where it is not held: a full line clears poison. -/
def State.lineUpdate (s : State) (mem off : Nat) (data : Line) (mask : DWord) : State :=
  let o := off / 64 * 64
  if (s.memUnit mem).allPoison then s.dropWrite mem o
  else if !s.poisoned mem o then s.setMemLine mem o data mask
  else if mask = BitVec.allOnes 64 then
    (s.updMemUnit mem fun u => { u with poison := u.poison.filter (· != o / 64) }).setMemLine mem o data mask
  else s.dropWrite mem o

/-- A write of a line at its home; false while it is held. The verdict `uncorrectable` is that of the dirty line's write-back,
which then poisons it (R266). -/
def State.homeWrite (s : State) (mem off : Nat) (data : Line) (mask : DWord) (ecc : Ecc) : State × Bool :=
  if s.homeHeld mem off then (s, false)
  else match ecc with
    | .retried n =>
      let s := if isLpx mem then s else s.retries mem off (min n retryLimit)
      if n ≤ retryLimit ∨ isLpx mem then ((s.lineUpdate mem off data mask).pooled mem, true)
      else (s.updMemUnit mem fun u => { u with retrain := true }, false)
    | .uncorrectable => (((s.lineUpdate mem off data mask).pooled mem).poisonLine mem (off / 64 * 64), true)
    | _ => ((s.lineUpdate mem off data mask).pooled mem, true)

/-! ### Upkeep -/

/-- Lines of a memory: 128 GB of a stack, the declared capacity of a module. -/
def State.memLines (s : State) (mem : Nat) : Nat :=
  if isLpx mem then (s.memUnit mem).gb * 0x4000_0000 / 64 else 0x20_0000_0000 / 64

/-- The offset whose line lies at a place of a stack: a spare page in use holds the lines of a retired page (R268). -/
def State.lineAt (s : State) (mem off : Nat) : Nat :=
  if off < 0x1F_C000_0000 then off
  else match (s.memUnit mem).remap.find? fun e => e.2 == (off - 0x1F_C000_0000) / 0x1_0000 with
    | some e => e.1 * 0x1_0000 + off % 0x1_0000
    | none => off

/-- PATROL_SCRUB: the next line of an in-service memory is read, corrected or poisoned (R267); a line of a page
that a remap has moved away is passed over. -/
def execPatrolScrub (mem : Nat) (ecc : Ecc) (s : State) : Res :=
  needUnit "memory" mem 24 <|
  let u := s.memUnit mem
  need s (u.insvc && !s.mf.tripped) /- the memory is not in service -/ <|
  need s (isLpx mem || s.reg (.dHbm mem) 0x0C / 2 ^ 31 == 1) /- patrol scrub is off (HBM_SCRUB.EN) -/ <|
  let off := u.scrub * 64
  let next (s : State) : State :=
    s.updMemUnit mem fun v => { v with scrub := if s.memLines mem = 0 then 0 else (u.scrub + 1) % s.memLines mem }
  if (u.remap.find (off / 0x1_0000)).isSome then .next (next s)
  else
    let r := s.homeRead mem (s.lineAt mem off) ecc
    .next (if r.ans.isSome then next r.st else r.st)

/-- The copy's reads of a page, with correction: verdicts by stack offset (R268). -/
def State.copyChecks (s : State) (stack page : Nat) (v : Verdicts) : State :=
  (v.filter fun e => e.1.toNat / 0x1_0000 == page).foldl (fun s e => match e.2 with
    | .corrected => if s.poisoned stack e.1.toNat then s else s.corrected stack e.1.toNat
    | .uncorrectable => s.poisonLine stack (e.1.toNat / 64 * 64)
    | .retried n => s.retries stack e.1.toNat (min n retryLimit)
    | .clean => s) s

/-- REMAP_COPY_DONE: the copy of a retired page is complete; its entry is valid and the held accesses reach
the spare page (R268). -/
def execRemapCopyDone : Reads → State → Res
  | ⟨stack, v⟩, s =>
    needUnit "stack" stack 16 <|
    needSome s (s.memUnit stack).copies.head? /- no page of the stack is being copied -/ fun c =>
    let s := s.copyChecks stack c.1 v
    let bytes := s.mem.filter fun e => stack * 2 ^ 40 + c.1 * 0x1_0000 ≤ e.1 ∧ e.1 < stack * 2 ^ 40 + (c.1 + 1) * 0x1_0000
    let base := stack * 2 ^ 40 + 0x1F_C000_0000 + c.2 * 0x1_0000
    let copied := (List.range 0x1_0000).foldl (fun (m : List Host.Cell) i =>
      Tab.put (α := Byte) m (base + i) (s.memByte stack (c.1 * 0x1_0000 + i))) s.mem
    .next ({ s with mem := copied.filter fun e => !bytes.any fun b => b.1 == e.1 }.updMemUnit stack fun u =>
      { u with copies := u.copies.drop 1, remap := u.remap.put c.1 c.2 })

/-- A field retirement entry is due for the fuses (R416). -/
def State.fieldDue (s : State) (kind index : Nat) : State :=
  s.updMf fun m => { m with dueField := m.dueField ++ [BitVec.ofNat 24 (kind * 2 ^ 20 + index)] }

/-- A pseudo-channel is retired (R269, R270). -/
def State.retirePseudo (s : State) (m pc : Nat) : State :=
  if (s.memUnit m).pcRet.getLsbD pc then s
  else
    let s := s.updMemUnit m fun u => { u with pcRet := setBit u.pcRet pc true }
    ((s.count .flt 0x18 1).fieldDue 3 (unitPseudo m pc)).setLeave m

/-- MEM_RETRAIN_DONE: the interface retrain of a stack ends (R270). -/
def execMemRetrainDone (stack : Nat) (ok : Bool) (s : State) : Res :=
  needUnit "stack" stack 16 <|
  need s (s.memUnit stack).retrain /- no retrain of the stack runs -/ <|
  let s := (s.dropSaved 0 stack).updMemUnit stack fun u => { u with retrain := false, retrainFailed := !ok }
  let s := s.record (unitStack stack) 0x0C06 1 (s.memPart stack) [(0, (!ok).toNat)]
  .next (if ok then s else (s.setLeave stack).fieldDue 2 (unitStack stack))

end Sys2Proof.Machine
end

