-- ==== Sys2Proof/Machine/Ni.lean ====
section
/-! DEFINITION. The NI of a core: its entries (R283), the order of its requests (R224, R301), the read cache
(R212, R213), and how a returned line reaches registers (R214). -/

namespace Sys2Proof.Machine

/-- Entries of an NI (R283). -/
def niSize : Nat := 200

/-- Lines that the read cache keeps: 256 KiB (R212). The line that leaves a full cache is the one filled
first (DESIGN CHOICE, notes/assumptions/14). -/
def rcLines : Nat := 4096

/-- `n` free entries of a core's NI, lowest first; none while fewer are free. -/
def Core.niFree (k : Core) (n : Nat) : Option (List Nat) :=
  let l := lowestFree niSize n (k.ni.map (·.1))
  if l.length = n then some l else none

/-- The package of a remote address. -/
def State.remotePkg (s : State) (a : DWord) : Option Nat :=
  match s.classify a with
  | .remote pkg _ => some pkg
  | _ => none

/-- The address lies in a host window. -/
def State.isWindow (s : State) (a : DWord) : Bool :=
  match s.classify a with
  | .window _ _ => true
  | _ => false

/-- The address lies in the partition's own memory. -/
def State.isLocal (s : State) (a : DWord) : Bool :=
  match s.classify a with
  | .hbm _ | .lpx _ => true
  | _ => false

/-- New requests of the core to a package wait until those sent on the old route have answers (R301). -/
def State.routeHeld (s : State) (c pkg : Nat) : Bool :=
  let k := s.core c
  k.reroute.contains pkg && k.ni.any fun e => s.remotePkg e.2.addr == some pkg

/-- RDMA READs that a QP has outstanding at most, in each role (R359). -/
def rdmaReads : Nat := 16

/-- Sends what an entry asks for, where it does not go to a home of this package: a message of a fabric body,
or an RDMA operation of the window's QP (R210, R290). -/
def State.niSend (s : State) (c n : Nat) (e : NiEntry) (m : Nat × Nat × Nat × DWord × Line) : State :=
  let part := (s.partOfCore c).getD 0
  match s.classify e.addr with
  | .remote pkg _ =>
    s.post (dieOfCore c) part pkg (s.peerPart part pkg) false
      (let b := coreMsg c n e.attempt m.1 m.2.1 m.2.2.1 e.addr m.2.2.2.1 m.2.2.2.2
       match e.kind, e.dests with
       | .atom _ _ _ _ _, d :: _ => { b with jthread := d.thread, jslot := e.bslot }
       | _, _ => b)
  | .window w o => match (s.part part).windows.find w with
    | none => s
    | some v =>
      let va := v.va + BitVec.ofNat 64 o
      if m.1 = 2 then s.emit (.rdmaWriteOut v.qpn va v.rkey m.2.2.2.1 m.2.2.2.2)
      else match s.host.qps.find v.qpn with
        | none => s
        | some q =>
          let put (q : Qp) : State := s.updHost fun h => { h with qps := h.qps.put v.qpn q }
          if q.reads < rdmaReads then (put { q with reads := q.reads + 1 }).emit (.rdmaReadOut v.qpn va v.rkey)
          else put { q with waiting := q.waiting ++ [(c, n)] }
  | _ => s

/-- An RDMA READ of a QP has ended: the one that has waited longest is sent (R359). -/
def State.readEnded (s : State) (qpn : Nat) : State :=
  match s.host.qps.find qpn with
  | none => s
  | some q =>
    let put (q : Qp) : State := s.updHost fun h => { h with qps := h.qps.put qpn q }
    match q.waiting with
    | [] => put { q with reads := q.reads - 1 }
    | x :: rest =>
      let s := put { q with reads := q.reads - 1, waiting := rest }
      match (s.core x.1).ni.find x.2 with
      | some e => s.niSend x.1 x.2 e (1, 0, 0, 0, 0)
      | none => s

/-- Takes an entry for a request and sends it; a device- or system-scope atomic is counted at the router (R284). -/
def State.niTake (s : State) (c n : Nat) (e : NiEntry) (m : Nat × Nat × Nat × DWord × Line) : State :=
  let k := s.core c
  let e := { e with seq := k.nextSeq, sentBeat := s.time.tsc.toNat / 2048 }
  let s := s.setCore c { k with ni := k.ni.put n e, nextSeq := k.nextSeq + 1 }
  let s := match e.kind with
    | .atom _ _ _ _ _ => s.updDie (dieOfCore c) fun d => { d with atoms := d.atoms.upd c 0 (· + 1) }
    | _ => s
  s.niSend c n e m

/-- Frees an entry; an atomic leaves its router's count. -/
def State.niDrop (s : State) (c n : Nat) : State :=
  match (s.core c).ni.find n with
  | none => s
  | some e =>
    let s := s.updCore c fun k => { k with ni := k.ni.del n }
    match e.kind with
    | .atom _ _ _ _ _ => s.updDie (dieOfCore c) fun d => { d with atoms := (d.atoms.upd c 0 (· - 1)).filter fun x => x.2 != 0 }
    | _ => s

/-! ### Lines of a read -/

/-- What an instruction reads of one line. -/
structure LineReq where
  line : DWord
  dests : List NiDest
  deriving DecidableEq, Repr

/-- The reads of an instruction by line, in the order of its threads. -/
def byLine (l : List (DWord × NiDest)) : List LineReq :=
  (l.map fun x => lineOf x.1).eraseDups.map fun a => ⟨a, (l.filter fun x => lineOf x.1 == a).map (·.2)⟩

/-- Bytes of the line that the destinations need. -/
def LineReq.mask (r : LineReq) : DWord := r.dests.foldl (fun m d => m ||| spanMask d.off d.len) 0

/-- The read cache serves the block's loads (R213, R233). -/
def State.rcOn (s : State) (c : Nat) : Bool := s.reg (.core c 7) 0 % 2 == 0

/-- The line of the read cache that a block's load hits (R213). -/
def Core.rcHit (k : Core) (acq : Nat) (l : DWord) : Option RcLine :=
  k.rc.find? fun x => x.addr == l && acq ≤ x.fill

/-- What of a line the core can give at once: the block's staged bytes, and the read cache where it may
serve (R214). -/
def State.lineNow (s : State) (c b : Nat) (cached : Bool) (r : LineReq) : Option Line :=
  match s.block c b with
  | none => none
  | some blk =>
    let st := blk.stagedLine r.line
    if r.mask &&& ~~~st.1 = 0 then some st.2
    else if cached && s.rcOn c && s.isLocal r.line then
      match (s.core c).rcHit blk.acq r.line with
      | some x => some (lineMerge x.data st.2 st.1)
      | none => none
    else none

/-- Counts of a line read: staged bytes, hit, fill request (chapter 10). -/
def State.countRead (s : State) (c b : Nat) (cached : Bool) (r : LineReq) (now : Bool) : State :=
  let st := match s.block c b with
    | some blk => (blk.stagedLine r.line).1
    | none => 0
  let s := if r.mask &&& st = 0 then s else s.count (.core c 7) 0x20 1
  if !(cached && s.rcOn c && s.isLocal r.line) || r.mask &&& ~~~st == 0 then s
  else s.count (.core c 7) (if now then 0x10 else 0x18) 1

/-- Bytes of a destination out of its line. -/
def NiDest.value (d : NiDest) (data : Line) : List Byte := (List.range d.len).map fun i => lineByte data (d.off + i)

/-- Registers of a destination. -/
def NiDest.span (d : NiDest) : Nat := max 1 (d.len / 4)

/-- Register `i` of a destination out of its bytes: values of 1 or 2 bytes are zero-extended (R83). -/
def regOf (v : List Byte) (i : Nat) : Word := BitVec.ofNat 32 (leNat ((v.drop (4 * i)).take 4))

/-- A value lands in registers at once. -/
def Group.landValue (g : Group) (d : NiDest) (v : List Byte) : Group :=
  if d.s then g.setSreg d.reg (BitVec.ofNat 64 (leNat v))
  else (List.range d.span).foldl (fun g i => g.setReg d.thread (d.reg + i) (regOf v i)) g

/-- A line's destinations land at once. -/
def Group.land (g : Group) (data : Line) (ds : List NiDest) : Group :=
  ds.foldl (fun g d => g.landValue d (d.value data)) g

/-- A value that the request `tag` owes lands. -/
def Group.payValue (g : Group) (tag : Nat) (d : NiDest) (v : List Byte) : Group :=
  if d.s then (if g.sWait.contains (tag, d.reg) then g.setSreg d.reg (BitVec.ofNat 64 (leNat v)) else g)
  else (List.range d.span).foldl (fun g i => g.pay tag d.thread (d.reg + i) (regOf v i)) g

/-- The line of the request `tag` lands (R214). -/
def Group.payLine (g : Group) (tag : Nat) (data : Line) (ds : List NiDest) : Group :=
  (ds.foldl (fun g d => g.payValue tag d (d.value data)) g).paid tag

/-- The destinations of the request `tag` wait for its line (R49). -/
def Group.awaitLine (g : Group) (tag : Nat) (ds : List NiDest) : Group :=
  ds.foldl (fun g d =>
    if d.s then { g with sWait := g.sWait ++ [(tag, d.reg)] }
    else g.await tag (BitVec.ofNat 32 (2 ^ d.thread)) d.reg d.span) g

/-- A fresh entry of a block's request. -/
def Block.entry (b : Block) (bslot grp : Nat) (kind : NiKind) (a : DWord) (ds : List NiDest) (opc : Nat) : NiEntry :=
  ⟨kind, 0, b.attempt, bslot, grp, a, ds, 0, 0, none, opc, 0, false, none, none⟩

/-- Issues the reads of an instruction: what is there lands, the rest takes an entry for each line. None
while the NI has too few entries or a route changes under it. `g` is the group so far. -/
def State.issueReads (s : State) (c b gs : Nat) (g : Group) (kind : NiKind) (cached : Bool) (opc : Nat)
    (reqs : List LineReq) : Option (State × Group) :=
  let now := reqs.filterMap fun r => (s.lineNow c b cached r).map fun d => (r, d)
  let pend := reqs.filter fun r => (s.lineNow c b cached r).isNone
  let held := pend.any fun r => match s.remotePkg r.line with
    | some p => s.routeHeld c p
    | none => false
  if held then none
  else match (s.core c).niFree pend.length, s.block c b with
    | some ns, some blk =>
      let s := reqs.foldl (fun s r => s.countRead c b cached r (s.lineNow c b cached r).isSome) s
      let g := now.foldl (fun g x => g.land x.2 x.1.dests) g
      let g := (pend.zip ns).foldl (fun g x => g.awaitLine x.2 x.1.dests) g
      let s := (pend.zip ns).foldl (fun s x =>
        let st := blk.stagedLine x.1.line
        let fill := cached && s.rcOn c && s.isLocal x.1.line
        let n := (s.core c).nextFill
        let e := { blk.entry b gs kind x.1.line x.1.dests opc with
          stagedMask := st.1, stagedData := st.2, cache := if fill then some n else none }
        let s := if fill then s.updCore c fun k => { k with nextFill := n + 1 } else s
        s.niTake c x.2 e (1, 0, 0, 0, 0)) s
      some (s, g)
    | _, _ => none

/-- The last `n` of a list. -/
def lastOf {α : Type} (n : Nat) (l : List α) : List α := l.drop (l.length - n)

/-- A line enters the read cache (R212). -/
def Core.rcFill (k : Core) (l : RcLine) : Core :=
  { k with rc := lastOf rcLines ((k.rc.filter fun x => x.addr != l.addr) ++ [l]) }

end Sys2Proof.Machine
end

