-- ==== Sys2Proof/Machine/Engine.lean ====
section
/-! DEFINITION. What the bobbin and DMA engines read: the block's view of global memory (R214), from this package's homes
with their protection (R265, R266, R270), and from other packages and the host through the NI. -/

namespace Sys2Proof.Machine

/-- A line as an engine's read finds it. -/
inductive Got where
  | data (l : Line)
  | poisoned
  /-- The home holds the access, or another package or the host has not answered yet. -/
  | absent
  deriving DecidableEq, Repr

/-- The lines that cover `n` bytes from an address, with the bytes of each that are wanted. -/
def linesAt (a : DWord) (n : Nat) : List (DWord × DWord) :=
  (List.range (ceilDiv (lineOff a + n) 64)).map fun i =>
    let lo := if i = 0 then lineOff a else 0
    (lineOf a + BitVec.ofNat 64 (64 * i), spanMask lo (min 64 (lineOff a + n - 64 * i) - lo))

/-- The block's view of a line of which it wants some bytes: the seam buffer's bytes first, then the home's line, or what
the NI has brought from another package or the host (R214). -/
def State.viewLine (s : State) (blk : Block) (far : List (DWord × Line)) (l : DWord × DWord) : Got :=
  let st := blk.stagedLine l.1
  if l.2 &&& ~~~st.1 = 0 then .data st.2
  else if s.isLocal l.1 then
    match s.home blk.part l.1 with
    | some (m, o) =>
      if s.homeHeld m o then .absent
      else if s.unreadable m o then .poisoned
      else .data (lineMerge (s.memLine m o) st.2 st.1)
    | none => .absent
  else match far.lookup l.1 with
    | some d => .data (lineMerge d st.2 st.1)
    | none => .absent

/-- Some line of a span is poisoned. -/
def State.viewPoison (s : State) (blk : Block) (a : DWord) (n : Nat) : Bool :=
  (linesAt a n).any fun l => s.viewLine blk [] l == .poisoned

/-- Lines of a span that are not there. -/
def State.viewAbsent (s : State) (blk : Block) (far : List (DWord × Line)) (a : DWord) (n : Nat) : List DWord :=
  ((linesAt a n).filter fun l => s.viewLine blk far l == .absent).map (·.1)

/-- Bytes of the block's view. -/
def State.viewBytes (s : State) (blk : Block) (far : List (DWord × Line)) (a : DWord) (n : Nat) : List Byte :=
  (((linesAt a n).flatMap fun l => match s.viewLine blk far l with
    | .data d => lineBytes d
    | _ => List.replicate 64 0).drop (lineOff a)).take n

/-- The homes check the lines that an engine reads of them (R265, R266). -/
def State.viewCheck (s : State) (blk : Block) (v : Verdicts) (ls : List (DWord × DWord)) : State :=
  (((ls.filter fun l => l.2 &&& ~~~(blk.stagedLine l.1).1 != 0).map (·.1)).eraseDups.filterMap
    fun l => (s.home blk.part l).map fun h => (h, (v.lookup l).getD .clean)).foldl
      (fun s h => (s.poolRead h.1.1 h.1.2 h.2).st) s

/-- The NI asks for the lines of other packages and of the host that an engine needs and nobody has asked for, as entries
are free (R283). `t` is the thread that a refusal names. -/
def State.fetchFar (s : State) (c b gs t : Nat) (kind : NiKind) (opc : Nat) (ls : List DWord) : State :=
  (ls.eraseDups.filter fun l => !s.isLocal l).foldl (fun s l =>
    let asked := (s.core c).ni.any fun e => e.2.kind == kind && e.2.addr == l && !e.2.dead
    let held := match s.remotePkg l with
      | some p => s.routeHeld c p
      | none => false
    if asked || held then s
    else match (s.core c).niFree 1, s.block c b with
      | some (n :: _), some blk => s.niTake c n (blk.entry b gs kind l [⟨t, 0, false, 0, 0, 0⟩] opc) (1, 0, 0, 0, 0)
      | _, _ => s) s

end Sys2Proof.Machine
end

