-- ==== Sys2Proof/Machine/Issue.lean ====
section
/-! DEFINITION. The issue of an instruction: which path of a group issues (R49, R51), its fetch (R212, R469), the checks of
R91, and what every instruction leaves behind (R51, R52). -/

namespace Sys2Proof.Machine

/-! ### The issue of an instruction -/

/-- FETCH_RANGE of an instruction address (R469, R93): the reason, none where it lies in range. -/
def State.fetchReason (s : State) (p : Nat) (a : DWord) : Option Nat :=
  if a.getLsbD 63 then some 0
  else match classLocal a.toNat with
    | .hbm x => if (s.part p).hbmSize ≤ x then some 1 else none
    | .lpx x => if (s.part p).lpxSize ≤ x then some 2 else none
    | _ => some 0

/-- The group of an issue, where the part could issue from it (R49, R51): a running block, no group-wide
wait, and a path that does not wait. -/
def withIssue (i : Issue) (s : State) (k : Iss → Res) : Res :=
  needUnit "logical core" i.core 1280 <|
  needUnit "group slot" i.grp 32 <|
  needSome s (s.group i.core i.grp) /- the slot holds no group -/ fun g =>
  needSome s (s.block i.core g.bslot) /- the group has no block -/ fun b =>
  need s (s.physOf i.core).isSome /- the logical core is vacant (R43) -/ <|
  need s (b.st == .running && !b.stopped && b.phase == .run) /- the block does not issue (R44, R59, R237) -/ <|
  need s b.trig.isNone /- a seam of the block is due (R237) -/ <|
  need s (g.hold == .none) /- the group waits (R49, R221) -/ <|
  need s (!s.cinch.gated.contains i.core) /- the core is gated (R435) -/ <|
  need s (!g.guardDue) /- the starvation guard is due (R52) -/ <|
  needSome s g.issuePc /- every path waits or has exited (R51) -/ fun pc =>
  k { core := i.core, gslot := i.grp, bslot := g.bslot, blk := b, grp := g, pc := pc,
      path := g.pathAt pc, w0 := i.w0, w1 := i.w1,
      smmaEn := s.reg (.core i.core 2) 4 % 2 == 1, ecc := i.ecc }

/-- Raises a program fault of an instruction of chapter 04 (R93). -/
def Iss.fault (x : Iss) (s : State) (code : Nat) (extra : List (Nat × Nat)) : State :=
  s.progFault x.core x.bslot x.grp.gidx code extra

/-- ILLEGAL_OP (R91, R93). -/
def Iss.illegal (x : Iss) (s : State) : State := x.fault s 0x0401 [(101, x.f 63 46)]

/-- Lines that an instruction's words lie in: one, or two where an ext form's words straddle (R69). -/
def Iss.lines (x : Iss) : List DWord := [lineOf x.pc, lineOf (x.pc + BitVec.ofNat 64 (x.size - 8))].eraseDups

/-- What the fetch of a line finds: it is there, it waits for the home, or it is poisoned (R266, R469). -/
inductive Fetch where
  | done | held | poison | lost
  deriving DecidableEq, Repr

/-- The fetch of one line (R212): from the read cache whatever the acquire marks, else from the line's home, which fills
the cache. -/
def Iss.fetchLine (x : Iss) (s : State) (l : DWord) : State × Fetch :=
  if s.rcOn x.core && ((s.core x.core).rcHit 0 l).isSome then (s.count (.core x.core 7) 0x10 1, .done)
  else match s.home x.blk.part l with
    | none => (s, .done)
    | some (m, o) =>
      if s.homeLost m then (s, .lost)
      else
        let r := s.poolRead m o x.ecc
        match r.ans with
        | none => (r.st, .held)
        | some (_, true) => (r.st, .poison)
        | some (d, false) =>
          if s.rcOn x.core then
            ((r.st.count (.core x.core 7) 0x18 1).updCore x.core fun k =>
              { k.rcFill ⟨l, k.nextFill, d⟩ with nextFill := k.nextFill + 1 }, .done)
          else (r.st, .done)

/-- The fetch of an instruction's lines, the first that is not there ending it. -/
def Iss.fetchAll (x : Iss) (s : State) : List DWord → State × Fetch
  | [] => (s, .done)
  | l :: ls => match x.fetchLine s l with
    | (t, .done) => x.fetchAll t ls
    | r => r

/-- The fetch of an instruction. -/
def Iss.fetch (x : Iss) (s : State) : State × Fetch := x.fetchAll s x.lines

/-- Every issue command: the checks of R91 in order, the waits of R49 and R174, then the row's own effect. Words that
name another listed instruction belong to another command. -/
def issueRow (sh : Shape) (i : Issue) (s : State) (body : Iss → State → Res) : Res :=
  withIssue i s fun x =>
    match s.fetchReason x.blk.part x.pc with
    | some why =>
      .next (x.fault (s.captureFault x.core 0 0x0404 x.pc) 0x0404 [(101, why)])
    | none => match x.fetch s with
      | (s, .held) => .next s
      | (s, .lost) => .next (s.endBlock x.core x.bslot codeDieFailed)
      | (s, .poison) => .next (s.memPoison x.core x.bslot x.grp.gidx 0 x.pc false)
      | (s, .done) =>
        if x.cls = sh.cls ∧ x.opc = sh.opc then
          if !(x.headerOk && sh.legal x && (sh.gs x).all spanOk) then .next (x.illegal s)
          else match rangeReg x.blk.desc.rpt (sh.gs x) with
            | some r => .next (x.fault s 0x0303 [(111, r)])
            | none => if x.waits sh s then .next s else body x s
        else if listedOpc x.cls x.opc then .refused .otherInstruction
        else .next (x.illegal s)

/-- The instruction has issued: the path's threads go on, the guard accounts for it (R51, R52). `g` is the
group with the instruction's effect. -/
def Iss.advanceTo (x : Iss) (g : Group) (next : DWord) : Group :=
  (x.path.foldl (fun k t => k.updThread t fun th => { th with pc := next }) g).account x.grp x.pc next

def Iss.advance (x : Iss) (g : Group) : Group := x.advanceTo g x.next

/-- The state with the group after an instruction. -/
def Iss.commit (x : Iss) (s : State) (g : Group) : State := s.setGroup x.core x.gslot (x.advance g)

end Sys2Proof.Machine
end

