-- ==== Sys2Proof/Machine/Shapes.lean ====
section
/-! DEFINITION. The fields and the decode shapes of the control, synchronisation, system, memory, bobbin, DMA and matrix
instructions (R79 to R91, R468). -/

namespace Sys2Proof.Machine

/-! ### Control, synchronisation and system instructions (R86, R87) -/

/-- A layout with no field in use beyond the header. -/
def noFields (x : Iss) : Bool := x.f 45 0 == 0

def shNop : Shape := ⟨5, 0, fun x => x.form == 0 && noFields x, fun _ => [], fun _ => [], fun _ => []⟩

/-- Target of bra and call: the instruction's address + 8 × OFF32. -/
def Iss.target (x : Iss) : DWord := x.pc + BitVec.ofInt 64 (8 * toSigned 32 (x.f 45 14))

def shBra : Shape := ⟨5, 1, fun x => x.form == 1 && x.f 13 0 == 0, fun _ => [], fun _ => [], fun _ => []⟩

def shJmp : Shape := ⟨5, 2, fun x => x.form == 0 && x.f 39 0 == 0, fun _ => [], fun _ => [], fun x => [x.f 45 40]⟩

def shCall : Shape := ⟨5, 3, fun x => x.form == 1 && x.f 7 0 == 0, fun _ => [], fun _ => [], fun x => [x.f 13 8]⟩

def shExit : Shape := ⟨5, 5, fun x => x.form == 0 && noFields x, fun _ => [], fun _ => [], fun _ => []⟩

def shBarG : Shape := ⟨6, 0, fun x => x.form == 0 && x.always && x.f 41 0 == 0, fun _ => [], fun _ => [], fun _ => []⟩

def shBarB : Shape := ⟨6, 1, fun x => x.form == 0 && x.always && x.f 41 0 == 0, fun _ => [], fun _ => [], fun _ => []⟩

def shFence : Shape :=
  ⟨6, 2, fun x => x.form == 0 && x.always && x.f 45 42 == 0 && x.f 39 0 == 0, fun _ => [], fun _ => [], fun _ => []⟩

/-- Legality of a system instruction by the fields it uses. -/
def sysLegal (d a imm : Bool) (x : Iss) : Bool :=
  x.form == 0 && (d || x.f 45 40 == 0) && (a || x.f 39 34 == 0) && (imm || x.f 33 18 == 0) && x.f 17 0 == 0

def shTsc : Shape := ⟨7, 0, sysLegal true false false, fun _ => [], fun _ => [], fun x => [x.f 45 40]⟩

def shBeat : Shape := ⟨7, 1, sysLegal true false false, fun _ => [], fun _ => [], fun x => [x.f 45 40]⟩

def shWbeat : Shape := ⟨7, 2, sysLegal false true false, fun _ => [], fun _ => [], fun x => [x.f 39 34]⟩

def shTrap : Shape := ⟨7, 3, sysLegal false false true, fun _ => [], fun _ => [], fun _ => []⟩

def shRdpc : Shape := ⟨7, 4, sysLegal true false false, fun _ => [], fun _ => [], fun x => [x.f 45 40]⟩

/-! ### Memory instructions (R83, R84) -/

namespace Iss

def data (x : Iss) : Nat := x.f 45 38
def off (x : Iss) : Nat := x.f 37 30
def base (x : Iss) : Nat := x.f 29 24
def sizeCode (x : Iss) : Nat := x.f 23 21
def scope (x : Iss) : Nat := x.f 20 19
def isSpad (x : Iss) : Bool := x.w0.getLsbD 18
def noOff (x : Iss) : Bool := x.w0.getLsbD 17
def imm13 (x : Iss) : DWord := sext64 13 (x.f 16 4)
def aop (x : Iss) : Nat := x.f 3 0
/-- Bytes of an access. -/
def bytes (x : Iss) : Nat := 2 ^ x.sizeCode
/-- Registers of DATA (R468). -/
def dataSpan (x : Iss) : Nat := max 1 (x.bytes / 4)

/-- The address of a thread's access (R83). -/
def addr (x : Iss) (t : Nat) : DWord :=
  (if x.isSpad then 0 else x.grp.sreg x.base) +
  (if x.noOff then 0 else (x.grp.reg t x.off).zeroExtend 64) + x.imm13

/-- Offset of a scratchpad access: g[OFF] + IMM13 modulo 2^64. -/
def spadOff (x : Iss) (t : Nat) : Nat := (x.addr t).toNat

/-- What every memory instruction of the reg form asks of its fields. -/
def memForm (x : Iss) : Bool :=
  x.form == 0 && x.sizeCode ≤ 4 && (!x.isSpad || x.base == 0) && (!x.noOff || x.off == 0)

def offSpan (x : Iss) : List (Nat × Nat) := if x.noOff then [] else [(x.off, 1)]
def baseReg (x : Iss) : List Nat := if x.isSpad then [] else [x.base]

end Iss

def loadShape (opc : Nat) (acq : Bool) : Shape :=
  ⟨3, opc, fun x => x.memForm && (acq || x.scope == 0) && x.aop == 0,
    fun x => [(x.data, x.dataSpan)], Iss.offSpan, Iss.baseReg⟩

def shLdS : Shape :=
  ⟨3, 5, fun x => x.form == 0 && x.f 45 44 == 0 && x.noOff && x.off == 0 && !x.isSpad && x.sizeCode == 3 &&
    x.scope == 0 && x.aop == 0, fun _ => [], fun _ => [], fun x => [x.base, x.f 43 38]⟩

def shPrefetch : Shape :=
  ⟨3, 6, fun x => x.form == 0 && x.data == 0 && x.sizeCode == 0 && x.scope == 0 && !x.isSpad && x.aop == 0 &&
    (!x.noOff || x.off == 0), fun _ => [], Iss.offSpan, fun x => [x.base]⟩

def storeShape (opc : Nat) (rel : Bool) : Shape :=
  ⟨3, opc, fun x => x.memForm && (rel || x.scope == 0) && x.aop == 0,
    fun _ => [], fun x => (x.data, x.dataSpan) :: x.offSpan, Iss.baseReg⟩

def shAtom : Shape :=
  ⟨3, 4, fun x => x.form == 0 && !x.isSpad && x.aop ≤ 8 && (x.sizeCode == 2 || (x.sizeCode == 3 && x.aop != 1)) &&
      (!x.noOff || x.off == 0),
    fun x => [(x.data, x.dataSpan)],
    fun x => (x.data, if x.aop = 8 then 2 * x.dataSpan else x.dataSpan) :: x.offSpan, fun x => [x.base]⟩

/-! ### Bobbin instructions (R84) -/

namespace Iss

def doff (x : Iss) : Nat := x.ext 13 0
def rowLen (x : Iss) : Nat := x.ext 27 14
def nreg (x : Iss) : Nat := x.ext 30 28
def bMode (x : Iss) : Bool := x.w1.getLsbD 31
def limit (x : Iss) : Nat := x.ext 59 32

end Iss

def shBob (opc : Nat) : Shape :=
  ⟨3, opc, fun x => x.form == 2 && x.off == 0 && x.f 23 0 == 0 && x.rowLen != 0 && x.limit != 0,
    fun x => if opc == 9 && x.bMode then [(x.data, x.nreg + 1)] else [], fun x => [(x.data, x.nreg + 1)], fun x => [x.base]⟩

/-! ### DMA instructions (R85) -/

namespace Iss

def dSrc (x : Iss) : Nat := x.f 45 40
def dDst (x : Iss) : Nat := x.f 39 34
def dTag (x : Iss) : Nat := x.f 27 22
def dRemote (x : Iss) : Bool := x.w0.getLsbD 21
def dAll (x : Iss) : Bool := x.w0.getLsbD 0
def dRow (x : Iss) : Nat := x.ext 23 0
def dRows (x : Iss) : Nat := x.ext 39 24 + 1

end Iss

def shDma (opc : Nat) (fill : Bool) : Shape :=
  ⟨4, opc, fun x => x.form == 2 && x.f 33 28 == 0 && x.f 20 0 == 0 && x.dRow != 0 &&
      (!fill || (!x.dRemote && x.ext 49 40 == 0)), fun _ => [], fun _ => [], fun x => [x.dSrc, x.dDst]⟩

def shDmaWait : Shape :=
  ⟨4, 2, fun x => x.form == 0 && x.f 45 28 == 0 && x.f 21 1 == 0 && (!x.dAll || x.dTag == 0), fun _ => [], fun _ => [], fun _ => []⟩

def shDmaPoll : Shape :=
  ⟨4, 3, fun x => x.form == 0 && x.dSrc == 0 && x.f 33 0 == 0, fun _ => [], fun _ => [], fun x => [x.dDst]⟩

/-! ### Matrix instructions (R81, R82, R117 to R119) -/

/-- Where an operand's element, index and scale registers lie (R118): counts, offsets and span. -/
structure FragLayout where
  el : Nat
  idx : Nat
  idxAt : Nat
  sc : Nat
  scAt : Nat
  span : Nat
  deriving DecidableEq, Repr

/-- Six-bit elements fill 6 of every 8 registers. -/
def fragRegs (fmt n : Nat) : Nat := if fmt = 7 ∨ fmt = 8 then n * 6 / 8 else n

/-- The layout of an operand: B when `isB`, in 2:4 form when `s24`. -/
def fragLayout (isB : Bool) (fmt : Nat) (s24 b16 : Bool) : FragLayout :=
  let mx := isMx fmt
  let wide := if fmt = 9 ∧ b16 then 2 else 1
  if !s24 then ⟨fragRegs fmt 8, 0, 0, if mx then 1 else 0, 8, if mx then 16 else 8⟩
  else if !isB then ⟨fragRegs fmt 16, 0, 0, if mx then wide else 0, 16, if mx then 32 else 16⟩
  else ⟨fragRegs fmt 8, if fmt = 9 then 4 else if fmt ≤ 2 then 1 else 2, 8, if mx then wide else 0, 12, 16⟩

namespace Iss

def mA (x : Iss) : Nat := x.f 45 38
def mB (x : Iss) : Nat := x.f 37 30
def mD (x : Iss) : Nat := x.f 29 22
def mSet (x : Iss) : Nat := x.f 21 21
def fmtA (x : Iss) : Nat := x.f 20 17
def fmtB (x : Iss) : Nat := x.f 16 13
def mZero (x : Iss) : Bool := x.w0.getLsbD 12
def mB16 (x : Iss) : Bool := x.w0.getLsbD 11
def mS24 (x : Iss) : Bool := x.w0.getLsbD 10
def quad (x : Iss) : Nat := x.f 9 8

/-- R82 for multiply formats. -/
def fmtsOk (x : Iss) : Bool :=
  let a := x.fmtA
  let b := x.fmtB
  let pair (u v : Nat) : Bool := (a == u && b == v) || (a == v && b == u)
  a ≤ 0xB && b ≤ 0xB && (a == b || pair 3 4 || pair 5 6 || pair 7 8) &&
  (!x.mB16 || (isMx a && isMx b)) && !(x.mS24 && a == 0)

def layA (x : Iss) : FragLayout := fragLayout false x.fmtA x.mS24 x.mB16
def layB (x : Iss) : FragLayout := fragLayout true x.fmtB x.mS24 x.mB16

end Iss

def shMma (opc : Nat) (quadUsed : Bool) : Shape :=
  ⟨2, opc, fun x => x.form == 0 && x.always && x.fmtsOk && x.mD == 0 && (quadUsed || x.quad == 0) && x.f 7 0 == 0,
    fun _ => [], fun x => [(x.mA, x.layA.span), (x.mB, x.layB.span)], fun _ => []⟩

def shMmaS : Shape :=
  ⟨2, 1, fun x => x.form == 2 && x.always && x.fmtsOk && x.mA == 0 && x.mB == 0 && x.mD == 0 && x.f 9 0 == 0 &&
    x.ext 59 20 == 0, fun _ => [], fun _ => [], fun _ => []⟩

def shSmma : Shape :=
  ⟨2, 3, fun x => x.form == 0 && x.smmaEn && x.fmtsOk && !x.mB16 && !x.mS24 && x.mD == 0 && x.f 9 0 == 0,
    fun _ => [], fun x => [(x.mA, 1), (x.mB, 1)], fun _ => []⟩

def shDrain : Shape :=
  ⟨2, 4, fun x =>
      x.always && x.mB == 0 && x.fmtA ≤ 2 && x.fmtB == 0 && x.f 12 0 == 0 &&
      ((x.form == 0 && x.mA == 0) ||
       (x.form == 2 && x.f 39 38 == 0 && x.mD == 0 && x.ext 59 33 == 0 && (x.ext 32 32 == 0 || x.f 45 40 == 0))),
    fun x => if x.form = 0 then [(x.mD, if x.fmtA = 0 then 32 else 16)] else [], fun _ => [],
    fun x => if x.form = 2 && x.ext 32 32 == 0 then [x.f 45 40] else []⟩

end Sys2Proof.Machine
end

