-- ==== Sys2Proof/Machine/Control.lean ====
section
/-! DEFINITION. Control, synchronisation and system instructions (R86 to R89), barriers (R53 to R58), fences
(R221), and the events of a group: barrier timeout, wbeat release, starvation guard. -/

namespace Sys2Proof.Machine

/-! ### Time within a beat (R25, R30) -/

/-- The beat number (R30). -/
def State.beatNo (s : State) : Nat := s.time.tsc.toNat / 2048

/-- The TSC `t` ticks of the reference after the boundary, with the tick that slewing adds or withholds in this beat;
it never decreases, and stays within the beat (R25, R28). -/
def State.atTick (s : State) (t : Nat) : State :=
  let e := if t % 2048 = 0 then 0 else min 2047 ((t % 2048 : Nat) + s.time.slew).toNat
  let v := s.time.tsc.toNat / 2048 * 2048 + e
  { s with time := { s.time with tsc := BitVec.ofNat 64 (max v s.time.tsc.toNat) } }

/-! ### Barriers -/

/-- Every thread of the group that has not exited waits at `w` (R54). -/
def Group.allWait (g : Group) (w : Wait) : Bool := g.alive.all fun t => (g.thread t).wait == w

/-- The threads that wait at `w` resume after their barrier instruction (R55). -/
def Group.resume (g : Group) (w : Wait) : Group :=
  let wake (t : Thread) : Thread :=
    if !t.exited && t.wait == w then { t with wait := .none, pc := t.pc + 8 } else t
  { g with threads := g.threads.map wake }

/-- Groups of a block that have not ended. -/
def State.blockGroups (s : State) (c : Nat) (b : Block) : List (Nat × Group) :=
  b.gslots.filterMap fun g => (s.group c g).map fun k => (g, k)

/-- Completes a bar.g whose last arrival has come (R53, R54). -/
def State.tryBarG (s : State) (c gs id : Nat) : State :=
  match s.group c gs with
  | none => s
  | some g =>
    if !g.ended && g.allWait (.barG id) then
      (s.setGroup c gs (g.resume (.barG id))).updBlock c g.bslot fun b =>
        { b with wds := b.wds.filter fun w => w.key != .barG gs id }
    else s

/-- Completes a bar.b whose last group has arrived, once every earlier access of the groups is made at its target, as for
fence.block (R53, R54, R221). -/
def State.tryBarB (s : State) (c slot id : Nat) : State :=
  match s.block c slot with
  | none => s
  | some b =>
    let gs := (s.blockGroups c b).filter fun e => !e.2.ended
    if !gs.isEmpty && gs.all (fun e => e.2.allWait (.barB id) && !s.groupBusy c e.1) then
      (gs.foldl (fun s e => s.setGroup c e.1 (e.2.resume (.barB id))) s).updBlock c slot fun b =>
        { b with wds := b.wds.filter fun w => w.key != .barB slot id }
    else s

/-- Completes every barrier that an arrival or an exit of a group completes (R53). -/
def State.tryBarriers (s : State) (c gs slot : Nat) : State :=
  (List.range 16).foldl (fun s id => s.tryBarB c slot id) ((List.range 16).foldl (fun s id => s.tryBarG c gs id) s)

/-- Completes the bar.b at which a block's groups wait, when an access of theirs has been made. -/
def State.retryBarB (s : State) (c slot : Nat) : State :=
  match s.block c slot with
  | none => s
  | some b => match (s.blockGroups c b).find? fun e => !e.2.ended with
    | none => s
    | some e => match e.2.alive.map fun t => (e.2.thread t).wait with
      | .barB id :: _ => s.tryBarB c slot id
      | _ => s

/-- The kind (1 for bar.b) and id of a barrier wait. -/
def Wait.barrier : Wait → Option (Nat × Nat)
  | .barG id => some (0, id)
  | .barB id => some (1, id)
  | _ => Option.none

/-- Starts a barrier watchdog on the first arrival (R57). -/
def Block.arm (b : Block) (k : WdKey) (grp : Nat) : Block :=
  if b.wds.any fun w => w.key == k then b else { b with wds := b.wds ++ [⟨k, 0, grp⟩] }

/-- A path arrives at a barrier (R54, R56): a mismatch faults, else the path waits and the barrier may
complete. -/
def Iss.arrive (x : Iss) (s : State) (w : Wait) (key : WdKey) : State :=
  let me := w.barrier
  let other := (x.grp.alive.filterMap fun t => (x.grp.thread t).wait.barrier).find? fun o => some o != me
  match other, me with
  | some o, some m => x.fault s 0x0301 [(101, m.2), (105, m.1), (106, o.2), (110, o.1)]
  | _, _ =>
    let g := x.path.foldl (fun g t => g.updThread t fun th => { th with wait := w }) x.grp
    let s := s.setGroup x.core x.gslot (g.account x.grp x.pc x.pc)
    (s.updBlock x.core x.bslot fun b => b.arm key x.gslot).tryBarriers x.core x.gslot x.bslot

/-! ### Control -/


def execNop (i : Issue) (s : State) : Res :=
  issueRow shNop i s fun x s => .next (x.commit s x.grp)


/-- The acting threads go to `t`, the path's others to the next instruction; the path may split (R51, R72). -/
def Iss.branch (x : Iss) (g : Group) (t : DWord) : Group :=
  let a := x.acting
  let g := x.path.foldl (fun k u => k.updThread u fun th =>
    { th with pc := if a.contains u then t else x.next }) g
  let low := if a.isEmpty then x.next else if a.length = x.path.length then t
    else if t.toNat ≤ x.next.toNat then t else x.next
  g.account x.grp x.pc low

def execBra (i : Issue) (s : State) : Res :=
  issueRow shBra i s fun x s => .next (s.setGroup x.core x.gslot (x.branch x.grp x.target))

/-- jmp: a misaligned target that a thread would take raises FETCH_ALIGN (R88, R93); the capture names thread 0
(notes/assumptions/146). -/
def execJmp (i : Issue) (s : State) : Res :=
  issueRow shJmp i s fun x s =>
    let t := x.grp.sreg (x.f 45 40)
    if !x.acting.isEmpty && t.toNat % 8 != 0 then
      .next (x.fault (s.captureFault x.core 0 0x0402 t) 0x0402 [(101, t.toNat % 8)])
    else .next (s.setGroup x.core x.gslot (x.branch x.grp t))

/-- call: s[LINK] ← address of the next instruction, then as bra. -/
def execCall (i : Issue) (s : State) : Res :=
  issueRow shCall i s fun x s =>
    let g := if x.acting.isEmpty then x.grp else x.grp.setSreg (x.f 13 8) x.next
    .next (s.setGroup x.core x.gslot (x.branch g x.target))

/-- Frees the accumulator sets that an ended group holds (R122). -/
def State.releaseSets (s : State) (c g : Nat) : State :=
  let drop (a : AccSet) : AccSet := if a.holder = some g ∧ !a.releasing then AccSet.fresh else a
  s.updCore c fun k => { k with sets := k.sets.mapAll drop }

/-- exit: the acting threads exit, which may complete barriers and end the group (R46, R53). -/
def execExit (i : Issue) (s : State) : Res :=
  issueRow shExit i s fun x s =>
    let a := x.acting
    let g := x.path.foldl (fun k u => k.updThread u fun th =>
      if a.contains u then { th with exited := true } else { th with pc := x.next }) x.grp
    let s := s.setGroup x.core x.gslot (g.account x.grp x.pc x.next)
    let s := if g.ended then s.releaseSets x.core x.gslot else s
    .next (s.tryBarriers x.core x.gslot x.bslot)

/-! ### Synchronisation -/

def execBarG (i : Issue) (s : State) : Res :=
  issueRow shBarG i s fun x s => .next (x.arrive s (.barG (x.f 45 42)) (.barG x.gslot (x.f 45 42)))

def execBarB (i : Issue) (s : State) : Res :=
  issueRow shBarB i s fun x s => .next (x.arrive s (.barB (x.f 45 42)) (.barB x.bslot (x.f 45 42)))

/-- A fence of device or system scope has issued: the group waits for a seam that begins from here on. -/
def State.fenceWait (s : State) (c g slot : Nat) (h : Hold) (scope : Nat) : State :=
  (s.updGroup c g fun k => { k with hold := h }).updBlock c slot fun b => b.trigger (.release scope)

/-- fence: waits for the group's accesses; device and system scope then wait for a seam (R221). -/
def execFence (i : Issue) (s : State) : Res :=
  issueRow shFence i s fun x s =>
    if s.groupBusy x.core x.gslot then .next s
    else
      let scope := x.f 41 40
      let s := x.commit s x.grp
      .next (if scope ≤ 1 then s else s.fenceWait x.core x.gslot x.bslot (.fence scope none) scope)

/-! ### System -/


/-- tsc: s[DST] ← TSC at the tick of execution (R90). -/
def execTsc (i : Issue) (tick : Nat) (s : State) : Res :=
  issueRow shTsc i s fun x s =>
    let s := s.atTick tick
    .next (x.commit s (if x.acts then x.grp.setSreg (x.f 45 40) s.time.tsc else x.grp))

def execBeat (i : Issue) (s : State) : Res :=
  issueRow shBeat i s fun x s =>
    .next (x.commit s (if x.acts then x.grp.setSreg (x.f 45 40) (BitVec.ofNat 64 s.beatNo) else x.grp))

/-- wbeat: the path waits until the beat number is at least s[A] (R89). -/
def execWbeat (i : Issue) (s : State) : Res :=
  issueRow shWbeat i s fun x s =>
    let t := x.grp.sreg (x.f 39 34)
    if !x.acts || t.toNat ≤ s.beatNo then .next (x.commit s x.grp)
    else
      let g := x.path.foldl (fun g u => g.updThread u fun th => { th with wait := .wbeat t }) x.grp
      .next ((s.setGroup x.core x.gslot (g.account x.grp x.pc x.pc)).updBlock x.core x.bslot fun b =>
        b.arm (.wbeat x.gslot x.pc t) x.gslot)

/-- WBEAT_RELEASE: the beat that a path waits for has begun (R89). -/
def execWbeatRelease (core grp : Nat) (pc : DWord) (s : State) : Res :=
  needUnit "logical core" core 1280 <|
  needSome s (s.group core grp) /- the slot holds no group -/ fun g =>
  let due (t : Thread) : Bool := !t.exited && t.pc == pc && match t.wait with
    | .wbeat b => decide (b.toNat ≤ s.beatNo)
    | _ => false
  need s (g.threads.any due) /- no path at this address waits for a beat that has begun -/ <|
  let wake (t : Thread) : Thread := if due t then { t with wait := .none, pc := t.pc + 8 } else t
  .next ((s.setGroup core grp { g with threads := g.threads.map wake }).updBlock core g.bslot fun b =>
    { b with wds := b.wds.filter fun w => match w.key with
      | .wbeat g p t => !(g == grp && p == pc && decide (t.toNat ≤ s.beatNo))
      | _ => true })

/-- trap: raises the program fault TRAP (R87, R93). -/
def execTrap (i : Issue) (s : State) : Res :=
  issueRow shTrap i s fun x s =>
    .next (if x.acts then x.fault s 0x0403 [(101, x.f 33 18)] else x.commit s x.grp)

def execRdpc (i : Issue) (s : State) : Res :=
  issueRow shRdpc i s fun x s => .next (x.commit s (if x.acts then x.grp.setSreg (x.f 45 40) x.pc else x.grp))

/-! ### Events of a group -/

/-- STARVATION_GUARD: the next issue goes to the eligible path that has waited longest (R52). -/
def execStarvationGuard (core grp : Nat) (s : State) : Res :=
  needUnit "logical core" core 1280 <|
  needSome s (s.group core grp) /- the slot holds no group -/ fun g =>
  need s g.guardDue /- no path has issued 256 times while another was eligible -/ <|
  .next (s.setGroup core grp { g with forced := g.longest, consec := 0 })

/-- The watchdog limit of a block: 0 selects 4,096 beats (R57). -/
def Block.wdLimit (b : Block) : Nat := if b.desc.wdog = 0 then 4096 else b.desc.wdog

/-- BARRIER_TIMEOUT: a watchdog has counted the grant's limit (R57, R60). -/
def execBarrierTimeout (core : Nat) (wd : WdKey) (s : State) : Res :=
  needUnit "logical core" core 1280 <|
  let hit := (s.core core).blocks.findSome? fun e =>
    if e.2.st == .running then
      (e.2.wds.find? fun w => w.key == wd && e.2.wdLimit ≤ w.count).map fun w => (e.1, w)
    else none
  needSome s hit /- no watchdog of this barrier has reached its limit -/ fun h =>
  let gidx := match s.group core h.2.grp with
    | some g => g.gidx
    | none => 0
  let f := match wd with
    | .barG _ id => [(101, id)]
    | .barB _ id => [(101, id), (105, 1)]
    | .wbeat _ _ _ => []
  .next (s.progFault core h.1 gidx 0x0302 f)

end Sys2Proof.Machine
end

