-- ==== Sys2Proof/Machine/LaneOps.lean ====
section
/-! DEFINITION. What the lane instructions share (R74 to R77): layouts, immediates, decode checks, the
elements of a packed register, and the run of one instruction over a path. -/

namespace Sys2Proof.Machine

namespace Iss

def dst (x : Iss) : Nat := x.f 45 38
def ra (x : Iss) : Nat := x.f 37 30
def rb (x : Iss) : Nat := x.f 29 22
def rc (x : Iss) : Nat := x.f 21 14
def bsel (x : Iss) : Bool := x.w0.getLsbD 13
def fmt (x : Iss) : Nat := x.f 12 9
def rnd (x : Iss) : Nat := x.f 8 7
def sat (x : Iss) : Bool := x.w0.getLsbD 6
def mod (x : Iss) : Nat := x.f 5 0

end Iss

/-- Kind of a lane immediate (R75). -/
inductive ImmKind where
  | float | int | shift
  deriving DecidableEq, Repr

/-- The immediate of an imm or ext form (R75). -/
def Iss.imm (x : Iss) (k : ImmKind) : Word :=
  if x.form = 2 then (match k with
    | .shift => BitVec.ofNat 32 (x.ext 4 0)
    | _ => BitVec.ofNat 32 (x.ext 31 0))
  else
    let v := x.f 29 14
    match k with
    | .float => if x.fmt = 0 then BitVec.ofNat 32 (v * 2 ^ 16) else BitVec.ofNat 32 (v + v * 2 ^ 16)
    | .int => BitVec.ofInt 32 (toSigned 16 v)
    | .shift => BitVec.ofNat 32 (v % 32)

/-- The register of operand C: DST in the imm form (R74). -/
def Iss.cReg (x : Iss) : Nat := if x.form = 1 then x.dst else x.rc

/-- Operand A of a thread. -/
def Iss.opA (x : Iss) (t : Nat) : Word := x.grp.reg t x.ra
/-- Operand B of a thread: an immediate, the broadcast low word of an s register (R196), or a g register. -/
def Iss.opB (x : Iss) (k : ImmKind) (t : Nat) : Word :=
  if x.form ≠ 0 then x.imm k
  else if x.bsel then (x.grp.sreg (x.f 27 22)).setWidth 32
  else x.grp.reg t x.rb
def Iss.opC (x : Iss) (t : Nat) : Word := x.grp.reg t x.cReg

/-- What a lane opcode accepts: forms, formats, operand spans (0 = operand not used), MOD, and whether
conversions' RND and SAT are allowed (R76). -/
structure LaneSh where
  opc : Nat
  forms : List Nat
  fmts : List Nat
  wide : Bool
  imm : ImmKind
  conv : Bool
  /-- The destination is a predicate (cmp, icmp). -/
  predDst : Bool
  nd : Iss → Nat
  na : Iss → Nat
  nb : Iss → Nat
  nc : Iss → Nat
  /-- BSEL asked for: none = either. -/
  bselIs : Option Bool
  /-- Operand C is written (cvt.mx to an MX format). -/
  cOut : Iss → Bool := fun _ => false
  ok : Iss → Bool

/-- The decode checks of a lane instruction (R70, R74 to R77, R91). -/
def LaneSh.legal (h : LaneSh) (x : Iss) : Bool :=
  h.forms.contains x.form && h.fmts.contains x.fmt && x.rnd ≤ 1 &&
  (h.conv || (x.rnd == 0 && !x.sat)) &&
  (!h.predDst || x.f 45 41 == 0) &&
  (0 < h.na x || x.ra == 0) &&
  (match x.form with
   | 0 =>
     (if 0 < h.nb x then
        (if x.bsel then x.f 29 28 == 0 && h.bselIs != some false else h.bselIs != some true)
      else x.rb == 0 && !x.bsel) &&
     (0 < h.nc x || x.rc == 0)
   | 1 => !x.bsel
   | _ => x.rb == 0 && !x.bsel && x.ext 59 32 == 0 && (0 < h.nc x || x.rc == 0)) &&
  h.ok x

/-- The g spans that a lane instruction reads. -/
def LaneSh.sources (h : LaneSh) (x : Iss) : List (Nat × Nat) :=
  [(x.ra, h.na x)] ++ (if x.form = 0 ∧ !x.bsel then [(x.rb, h.nb x)] else []) ++
  (if 0 < h.nc x ∧ !h.cOut x then [(x.cReg, h.nc x)] else [])

def LaneSh.shape (h : LaneSh) : Shape where
  cls := 0
  opc := h.opc
  legal := h.legal
  wr := fun x => (if h.predDst then [] else [(x.dst, h.nd x)]) ++ if h.cOut x then [(x.cReg, h.nc x)] else []
  rd := h.sources
  ss := fun x => if x.form = 0 ∧ x.bsel then (if h.opc = 0x30 then [x.f 27 22, x.f 27 22 + 1] else [x.f 27 22]) else []

/-- Runs a lane instruction: each acting thread's effect, the counters of R200, and the path's advance. -/
def Iss.runLane (x : Iss) (s : State) (wide : Bool) (es : List (Nat × TEff)) : State :=
  let s := s.count (.core x.core 5) 0x10 1
  let s := if wide then s.count (.core x.core 5) 0x18 1 else s
  let s := if x.form = 0 ∧ x.bsel then s.count (.core x.core 6) 0x18 1 else s
  let s := s.landReports x.core x.bslot es
  x.commit s (x.grp.apply es)

/-- A lane row whose threads act one by one (R72). -/
def laneRow (h : LaneSh) (i : Issue) (s : State) (eff : Iss → Nat → TEff) : Res :=
  issueRow h.shape i s fun x s =>
    .next (x.runLane s h.wide (x.acting.map fun t => (t, eff x t)))

/-! ### Elements of a register (R76) -/

/-- The format of FMT 0x0 to 0x2. -/
def laneFmt (fmt : Nat) : Fmt := if fmt = 0 then fp32 else if fmt = 1 then bf16 else fp16

/-- Encodings of a register's elements: one for FP32, two for the packed formats. -/
def elemsOf (fmt : Nat) (w : Word) : List Nat := if fmt = 0 then [w.toNat] else [bits w 15 0, bits w 31 16]

/-- The register that elements form. -/
def packElems (fmt : Nat) (l : List Nat) : Word :=
  if fmt = 0 then BitVec.ofNat 32 (l.headD 0) else BitVec.ofNat 32 (l.headD 0 + l.tail.headD 0 * 2 ^ 16)

/-- An elementwise floating-point operation of a thread: exact result, one rounding, reports (R183, R184). -/
def arith (x : Iss) (a b c : Word) (op : FVal → FVal → FVal → FVal × Nat) : TEff :=
  let k := laneFmt x.fmt
  let one (j : Nat) : Nat × Nat :=
    let g (w : Word) : FVal := k.decode ((elemsOf x.fmt w).getD j 0)
    let v := op (g a) (g b) (g c)
    let r := k.result v.1
    (r.1, v.2 ||| r.2)
  let rs := (List.range (elemsOf x.fmt a).length).map one
  { regs := [(x.dst, packElems x.fmt (rs.map (·.1)))]
    pred := none
    report := rs.foldl (fun a r => a ||| r.2) 0
    lnf := rs.any fun r => lnfOf (.float k) r.1 r.2 }

/-- An elementwise choice between encodings: no flag. -/
def elementwise (x : Iss) (a b : Word) (op : Fmt → Nat → Nat → Nat) : TEff :=
  let k := laneFmt x.fmt
  let r := ((elemsOf x.fmt a).zip (elemsOf x.fmt b)).map fun e => op k e.1 e.2
  .write x.dst (packElems x.fmt r)

/-- The canonical NaN of a format with one. -/
def Fmt.qnan (k : Fmt) : Nat := k.nan.getD 0

/-- min or max of two encodings (R186): `less a b` says a is the result rather than b. -/
def pickNum (less : FVal → FVal → Bool) (k : Fmt) (a b : Nat) : Nat :=
  let u := k.decode a
  let v := k.decode b
  if u.isNan && v.isNan then k.qnan
  else if u.isNan then b
  else if v.isNan then a
  else if less u v then a else b

def minNum : Fmt → Nat → Nat → Nat := pickNum fun u v => FVal.below u v
def maxNum : Fmt → Nat → Nat → Nat := pickNum fun u v => FVal.below v u

/-! ### Conditions (R78) -/

/-- Condition codes of floating-point operands. -/
def condFloat (c : Nat) (a b : FVal) : Bool :=
  let un := a.isNan || b.isNan
  match c with
  | 0 => FVal.eq a b
  | 1 => !FVal.eq a b
  | 2 => FVal.lt a b
  | 3 => FVal.lt a b || FVal.eq a b
  | 4 => FVal.lt b a
  | 5 => FVal.lt b a || FVal.eq a b
  | 6 => un
  | _ => !un

/-- Condition codes of integer operands of `n` bits. -/
def condInt (n c a b : Nat) : Bool :=
  let sa := toSigned n a
  let sb := toSigned n b
  match c with
  | 0 => a == b
  | 1 => a != b
  | 2 => decide (sa < sb)
  | 3 => decide (sa ≤ sb)
  | 4 => decide (sb < sa)
  | 5 => decide (sb ≤ sa)
  | 8 => decide (a < b)
  | 9 => decide (a ≤ b)
  | 0xA => decide (b < a)
  | _ => decide (b ≤ a)

def condFloatOk (c : Nat) : Bool := c ≤ 7
def condIntOk (c : Nat) : Bool := c ≤ 5 || (8 ≤ c && c ≤ 0xB)

/-! ### Shapes that several opcodes share -/

/-- d ← f(a, b) or f(a, b, c) on floating-point elements. -/
def floatSh (opc na nb nc : Nat) (forms : List Nat) (wide : Bool) : LaneSh where
  opc := opc
  forms := forms
  fmts := [0, 1, 2]
  wide := wide
  imm := .float
  conv := false
  predDst := false
  nd := fun _ => 1
  na := fun _ => na
  nb := fun _ => nb
  nc := fun _ => nc
  bselIs := none
  ok := fun x => x.mod == 0

/-- d ← f(a, b) on 32-bit integers. -/
def intSh (opc na nb : Nat) (forms : List Nat) (k : ImmKind) (mod : Nat → Bool) : LaneSh where
  opc := opc
  forms := forms
  fmts := [0]
  wide := false
  imm := k
  conv := false
  predDst := false
  nd := fun _ => 1
  na := fun _ => na
  nb := fun _ => nb
  nc := fun _ => 0
  bselIs := none
  ok := fun x => mod x.mod

/-- An integer operation of a thread. -/
def intRow (h : LaneSh) (i : Issue) (s : State) (op : Iss → Word → Word → Word) : Res :=
  laneRow h i s fun x t => .write x.dst (op x (x.opA t) (x.opB h.imm t))

/-- A floating-point operation of a thread. -/
def floatRow (h : LaneSh) (i : Issue) (s : State) (op : FVal → FVal → FVal → FVal × Nat) : Res :=
  laneRow h i s fun x t =>
    arith x (if h.na x = 0 then 0 else x.opA t) (if h.nb x = 0 then 0 else x.opB .float t)
      (if h.nc x = 0 then 0 else x.opC t) op

end Sys2Proof.Machine
end

