-- ==== Sys2Proof/Machine/Lane.lean ====
section
/-! DEFINITION. The lane instructions add to popc and the functions (R77, R183 to R186). -/

namespace Sys2Proof.Machine

def shMov : LaneSh := { floatSh 0x00 0 1 0 [0, 1, 2] false with ok := fun x => x.mod == 0 }

/-- mov: d ← b, 32 bits unchanged (R186). -/
def execLaneMov (i : Issue) (s : State) : Res :=
  laneRow shMov i s fun x t => .write x.dst (x.opB .float t)

def shAdd : LaneSh := floatSh 0x01 1 1 0 [0, 1, 2] false
/-- add: a + b, one rounding (R183). -/
def execLaneAdd (i : Issue) (s : State) : Res := floatRow shAdd i s fun a b _ => FVal.add a b

def shSub : LaneSh := floatSh 0x02 1 1 0 [0, 1, 2] false
/-- sub: a − b. -/
def execLaneSub (i : Issue) (s : State) : Res := floatRow shSub i s fun a b _ => FVal.add a b.neg

def shMul : LaneSh := floatSh 0x03 1 1 0 [0, 1, 2] false
/-- mul: a × b. -/
def execLaneMul (i : Issue) (s : State) : Res := floatRow shMul i s fun a b _ => FVal.mul a b

def shFma : LaneSh := floatSh 0x04 1 1 1 [0, 1, 2] false
/-- fma: a × b + c, one rounding. -/
def execLaneFma (i : Issue) (s : State) : Res := floatRow shFma i s fun a b c => FVal.fma a b c

def shFms : LaneSh := floatSh 0x05 1 1 1 [0, 1, 2] false
/-- fms: a × b − c, one rounding. -/
def execLaneFms (i : Issue) (s : State) : Res := floatRow shFms i s fun a b c => FVal.fma a b c.neg

def shMin : LaneSh := floatSh 0x06 1 1 0 [0, 1, 2] false
/-- min: minimumNumber, element by element (R186). -/
def execLaneMin (i : Issue) (s : State) : Res :=
  laneRow shMin i s fun x t => elementwise x (x.opA t) (x.opB .float t) minNum

def shMax : LaneSh := floatSh 0x07 1 1 0 [0, 1, 2] false
/-- max: maximumNumber, element by element (R186). -/
def execLaneMax (i : Issue) (s : State) : Res :=
  laneRow shMax i s fun x t => elementwise x (x.opA t) (x.opB .float t) maxNum

def shAbs : LaneSh := floatSh 0x08 1 0 0 [0] false
/-- abs: clears the sign bit; a NaN gives the canonical NaN (R186). -/
def execLaneAbs (i : Issue) (s : State) : Res :=
  laneRow shAbs i s fun x t => elementwise x (x.opA t) 0 fun k a _ =>
    if (k.decode a).isNan then k.qnan else a % 2 ^ (k.width - 1)

def shNeg : LaneSh := floatSh 0x09 1 0 0 [0] false
/-- neg: turns the sign bit; a NaN gives the canonical NaN (R186). -/
def execLaneNeg (i : Issue) (s : State) : Res :=
  laneRow shNeg i s fun x t => elementwise x (x.opA t) 0 fun k a _ =>
    if (k.decode a).isNan then k.qnan else a ^^^ 2 ^ (k.width - 1)

def shCmp : LaneSh :=
  { floatSh 0x0A 1 1 0 [0, 1, 2] false with
    predDst := true, ok := fun x => condFloatOk (x.f 3 0) && x.f 5 4 == 0 }
/-- cmp: p ← a COND b on element 0 (R78, R186). -/
def execLaneCmp (i : Issue) (s : State) : Res :=
  laneRow shCmp i s fun x t =>
    let k := laneFmt x.fmt
    let g (w : Word) : FVal := k.decode ((elemsOf x.fmt w).headD 0)
    { TEff.none with
      pred := some (x.f 40 38, condFloat (x.f 3 0) (g (x.opA t)) (g (x.opB .float t))) }

/-- sel moves 32 bits; its IMM16 is read by the FP32 row (notes/assumptions/145). -/
def shSel : LaneSh := { floatSh 0x0B 1 1 0 [0, 1, 2] false with fmts := [0], ok := fun x => x.f 5 3 == 0 }
/-- sel: d ← p ? a : b (R77). -/
def execLaneSel (i : Issue) (s : State) : Res :=
  laneRow shSel i s fun x t =>
    .write x.dst (if (x.grp.thread t).pred (x.f 2 0) then x.opA t else x.opB .float t)

/-! ### Integer, logical and shift instructions (R77) -/

def shIadd : LaneSh := intSh 0x10 1 1 [0, 1, 2] .int (· == 0)
def execLaneIadd (i : Issue) (s : State) : Res := intRow shIadd i s fun _ a b => a + b

def shIsub : LaneSh := intSh 0x11 1 1 [0, 1, 2] .int (· == 0)
def execLaneIsub (i : Issue) (s : State) : Res := intRow shIsub i s fun _ a b => a - b

def shImul : LaneSh := intSh 0x12 1 1 [0, 1, 2] .int (· == 0)
def execLaneImul (i : Issue) (s : State) : Res := intRow shImul i s fun _ a b => a * b

/-- Signed order, unsigned when MOD[0] = 1. -/
def intLess (x : Iss) (a b : Word) : Bool := if x.mod = 1 then a.ult b else a.slt b

def shImin : LaneSh := intSh 0x13 1 1 [0, 1, 2] .int (· ≤ 1)
def execLaneImin (i : Issue) (s : State) : Res := intRow shImin i s fun x a b => if intLess x b a then b else a

def shImax : LaneSh := intSh 0x14 1 1 [0, 1, 2] .int (· ≤ 1)
def execLaneImax (i : Issue) (s : State) : Res := intRow shImax i s fun x a b => if intLess x a b then b else a

def shIcmp : LaneSh :=
  { intSh 0x15 1 1 [0, 1, 2] .int (fun m => condIntOk (m % 16) && m < 16) with predDst := true }
/-- icmp: p ← a COND b (R78). -/
def execLaneIcmp (i : Issue) (s : State) : Res :=
  laneRow shIcmp i s fun x t =>
    { TEff.none with
      pred := some (x.f 40 38, condInt 32 (x.f 3 0) (x.opA t).toNat (x.opB .int t).toNat) }

def shAnd : LaneSh := intSh 0x16 1 1 [0, 1, 2] .int (· == 0)
def execLaneAnd (i : Issue) (s : State) : Res := intRow shAnd i s fun _ a b => a &&& b

def shOr : LaneSh := intSh 0x17 1 1 [0, 1, 2] .int (· == 0)
def execLaneOr (i : Issue) (s : State) : Res := intRow shOr i s fun _ a b => a ||| b

def shXor : LaneSh := intSh 0x18 1 1 [0, 1, 2] .int (· == 0)
def execLaneXor (i : Issue) (s : State) : Res := intRow shXor i s fun _ a b => a ^^^ b

def shNot : LaneSh := intSh 0x19 1 0 [0] .int (· == 0)
def execLaneNot (i : Issue) (s : State) : Res :=
  laneRow shNot i s fun x t => .write x.dst (~~~(x.opA t))

def shShl : LaneSh := intSh 0x1A 1 1 [0, 1] .shift (· == 0)
def execLaneShl (i : Issue) (s : State) : Res := intRow shShl i s fun _ a b => a <<< (b.toNat % 32)

def shShr : LaneSh := intSh 0x1B 1 1 [0, 1] .shift (· == 0)
def execLaneShr (i : Issue) (s : State) : Res := intRow shShr i s fun _ a b => a >>> (b.toNat % 32)

def shSar : LaneSh := intSh 0x1C 1 1 [0, 1] .shift (· == 0)
def execLaneSar (i : Issue) (s : State) : Res := intRow shSar i s fun _ a b => a.sshiftRight (b.toNat % 32)

def shPopc : LaneSh := intSh 0x1D 1 0 [0] .int (· == 0)
def execLanePopc (i : Issue) (s : State) : Res :=
  laneRow shPopc i s fun x t => .write x.dst (BitVec.ofNat 32 (popCount 32 (x.opA t).toNat))

def shClz : LaneSh := intSh 0x1E 1 0 [0] .int (· == 0)
/-- clz: leading zeros, 0 to 32. -/
def execLaneClz (i : Issue) (s : State) : Res :=
  laneRow shClz i s fun x t =>
    let v := (x.opA t).toNat
    .write x.dst (BitVec.ofNat 32 (if v = 0 then 32 else 31 - v.log2))

/-! ### Functions (R185): one operand, one rounding -/

def shRcp : LaneSh := floatSh 0x20 1 0 0 [0] true
def execLaneRcp (i : Issue) (s : State) : Res := floatRow shRcp i s fun a _ _ => a.rcp

def shRsqrt : LaneSh := floatSh 0x21 1 0 0 [0] true
def execLaneRsqrt (i : Issue) (s : State) : Res := floatRow shRsqrt i s fun a _ _ => a.rsqrt

def shSqrt : LaneSh := floatSh 0x22 1 0 0 [0] true
def execLaneSqrt (i : Issue) (s : State) : Res := floatRow shSqrt i s fun a _ _ => a.sqrt

def shExp2 : LaneSh := floatSh 0x23 1 0 0 [0] true
def execLaneExp2 (i : Issue) (s : State) : Res := floatRow shExp2 i s fun a _ _ => a.exp2

def shLog2 : LaneSh := floatSh 0x24 1 0 0 [0] true
def execLaneLog2 (i : Issue) (s : State) : Res := floatRow shLog2 i s fun a _ _ => a.log2

def shDiv : LaneSh := { floatSh 0x25 1 1 0 [0] true with fmts := [0] }
/-- div: a / b, correctly rounded. -/
def execLaneDiv (i : Issue) (s : State) : Res := floatRow shDiv i s fun a b _ => FVal.div a b

end Sys2Proof.Machine
end

