-- ==== Sys2Proof/Machine/LaneMove.lean ====
section
/-! DEFINITION. Lane conversions (R106 to R109), moves and reductions across lanes (R190, R193 to R195),
random bits (R111), 2:4 compression (R159 to R161) and pick (R152 to R154). -/

namespace Sys2Proof.Machine

/-! ### cvt, pack, unpack -/

/-- Destination format of cvt and cvt.mx. -/
def Iss.dfmt (x : Iss) : Nat := x.f 3 0

/-- Elements that one cvt converts (R106). -/
def cvtCount (a d : Nat) : Nat := 32 / min (elemBits a) (elemBits d)

def cvtFormats : List Nat := [0, 1, 2, 3, 4, 0xB]

def shCvt : LaneSh where
  opc := 0x0C
  forms := [0]
  fmts := cvtFormats
  wide := false
  imm := .float
  conv := true
  predDst := false
  nd := fun x => cvtCount x.fmt x.dfmt * elemBits x.dfmt / 32
  na := fun x => cvtCount x.fmt x.dfmt * elemBits x.fmt / 32
  nb := fun x => x.rnd
  nc := fun _ => 0
  bselIs := some false
  ok := fun x => cvtFormats.contains x.dfmt && x.f 5 4 == 0 &&
    (x.rnd == 0 || elemBits x.dfmt ≤ elemBits x.fmt)

/-- Element `j` of the registers from `base` on, `w` bits each. -/
def regElem (x : Iss) (t base w j : Nat) : Nat :=
  let bit := w * j
  bits (x.grp.reg t (base + bit / 32)) (bit % 32 + w - 1) (bit % 32)

/-- Registers that elements of `w` bits fill, from `base` on. -/
def elemRegs (base w : Nat) (codes : List Nat) : List (Nat × Word) :=
  let per := 32 / w
  (List.range (ceilDiv codes.length per)).map fun r =>
    (base + r, BitVec.ofNat 32 ((List.range per).foldl (fun a j => a + codes.getD (r * per + j) 0 * 2 ^ (w * j)) 0))

/-- The element format of a code that is not reserved. -/
def elemD (c : Nat) : Elem := (elemOf c).getD (.float fp32)

/-- A conversion of an element: an equal format copies, but for NaNs (R106). -/
def cvtElem (src dst : Nat) (r : Rnd) (sat : Bool) (code : Nat) : Nat × Nat :=
  let v := (elemD src).decode code
  if src = dst ∧ !v.isNan then (code, 0) else convert (elemD dst) r false sat v

/-- The effect of converted elements of one thread. -/
def convEff (dst : Nat) (regs : List Nat → List (Nat × Word)) (rs : List (Nat × Nat)) : TEff where
  regs := regs (rs.map (·.1))
  pred := none
  report := rs.foldl (fun a r => a ||| r.2) 0
  lnf := rs.any fun r => lnfOf (elemD dst) r.1 r.2

/-- Rounding of element `j` with fields of `w` bits from a register (R105, R106). -/
def rndField (x : Iss) (w j : Nat) (v : Word) : Rnd :=
  if x.rnd = 1 then .stoch w (bits v ((j + 1) * w - 1) (j * w)) else .even

/-- cvt (R106). -/
def execLaneCvt (i : Issue) (s : State) : Res :=
  laneRow shCvt i s fun x t =>
    let k := cvtCount x.fmt x.dfmt
    let rs := (List.range k).map fun j =>
      cvtElem x.fmt x.dfmt (rndField x (32 / k) j (x.grp.reg t x.rb)) x.sat
        (regElem x t x.ra (elemBits x.fmt) j)
    convEff x.dfmt (elemRegs x.dst (elemBits x.dfmt)) rs

def shPack : LaneSh where
  opc := 0x0E
  forms := [0]
  fmts := [1, 2]
  wide := false
  imm := .float
  conv := true
  predDst := false
  nd := fun _ => 1
  na := fun _ => 1
  nb := fun _ => 1
  nc := fun x => x.rnd
  bselIs := none
  ok := fun x => x.mod == 0

/-- pack: FP32 a and b rounded into one pair (R107). -/
def execLanePack (i : Issue) (s : State) : Res :=
  laneRow shPack i s fun x t =>
    let one (j : Nat) (w : Word) : Nat × Nat :=
      convert (elemD x.fmt) (rndField x 16 j (x.opC t)) false x.sat (fp32.decode w.toNat)
    convEff x.fmt (fun l => [(x.dst, packElems 1 l)]) [one 0 (x.opA t), one 1 (x.opB .float t)]

def shUnpack : LaneSh := { floatSh 0x0F 1 0 0 [0] false with fmts := [1, 2], ok := fun x => x.mod ≤ 1 }
/-- unpack: element MOD[0] of a as FP32, exactly (R77). -/
def execLaneUnpack (i : Issue) (s : State) : Res :=
  laneRow shUnpack i s fun x t =>
    .write x.dst (BitVec.ofNat 32
      (fp32.result ((laneFmt x.fmt).decode ((elemsOf x.fmt (x.opA t)).getD x.mod 0))).1)

/-! ### cvt.mx (R108, R109) -/

/-- The MX side of a cvt.mx, and whether it is the destination. -/
def Iss.toMx (x : Iss) : Bool := isMx x.dfmt

def shCvtMx : LaneSh where
  opc := 0x0D
  forms := [0]
  fmts := [0, 1, 2, 5, 6, 7, 8, 9, 0xA]
  wide := true
  imm := .float
  conv := true
  predDst := false
  nd := fun _ => 1
  na := fun _ => 1
  nb := fun x => x.rnd
  nc := fun _ => 1
  bselIs := none
  cOut := Iss.toMx
  ok := fun x => x.f 5 5 == 0 &&
    ((isMx x.fmt && x.dfmt ≤ 2) || (x.fmt ≤ 2 && isMx x.dfmt))

/-- Threads of the block of a thread: 32, or 16 when MOD[4] = 1. -/
def mxBlock (x : Iss) (t : Nat) : List Nat :=
  if x.mod / 16 % 2 = 1 then (List.range 16).map (· + t / 16 * 16) else List.range 32

/-- emax of an MX element format (R109). -/
def mxEmax (c : Nat) : Int :=
  match c with
  | 5 => 8
  | 6 => 15
  | 7 => 2
  | 8 => 4
  | 9 => 2
  | _ => 0

/-- floor(log2) of a value's magnitude, none for zero. -/
def FVal.top : FVal → Option Int
  | .fin _ m e => if m = 0 then none else some ((m.log2 : Int) + e)
  | _ => none

/-- Scale byte of a block of values: 0xFF with a NaN or infinity, 0 when all are zero (R109). -/
def mxScale (c : Nat) (vs : List FVal) : Nat :=
  if vs.any fun v => !v.isFin then 0xFF
  else match (vs.filterMap FVal.top).max? with
    | none => 0
    | some top => (min (max (top - mxEmax c) (-127)) 127 + 127).toNat

/-- A value times 2^k. -/
def FVal.scale (v : FVal) (k : Int) : FVal :=
  match v with
  | .fin n m e => .fin n m (e + k)
  | w => w

/-- The value of an E8M0 scale applied to an element (R98). -/
def mxValue (c code scale : Nat) : FVal :=
  if scale = 0xFF then .nan else ((elemD c).decode code).scale ((scale : Int) - 127)

/-- A to-MX conversion of one set for one thread: element, report, scale. -/
def toMxElem (x : Iss) (t set : Nat) : Nat × Nat × Nat :=
  let val (u : Nat) : FVal := (laneFmt x.fmt).decode ((elemsOf x.fmt (x.opA u)).getD set 0)
  let members := (mxBlock x t).filter x.acting.contains
  let vs := members.map val
  let sc := mxScale x.dfmt vs
  if sc = 0xFF then (0, fNV, sc)
  else if vs.all FVal.isZero then (0, 0, 0)
  else
    let r := convert (elemD x.dfmt) (rndField x 16 set (x.opB .float t)) true x.sat
      ((val t).scale (127 - (sc : Int)))
    (r.1, r.2, sc)

/-- Block sets of a cvt.mx: one for FP32, two for the packed formats. -/
def mxSets (fmt : Nat) : List Nat := if fmt = 0 then [0] else [0, 1]

/-- cvt.mx (R108, R109). Scales first, elements last: where C and D are one register it holds the elements
(notes/assumptions/147). -/
def execLaneCvtMx (i : Issue) (s : State) : Res :=
  laneRow shCvtMx i s fun x t =>
    if x.toMx then
      let rs := (mxSets x.fmt).map (toMxElem x t)
      let elems := rs.foldr (fun r a => r.1 + 256 * a) 0
      let scales := rs.foldr (fun r a => r.2.2 + 256 * a) 0
      { regs := [(x.rc, BitVec.ofNat 32 scales), (x.dst, BitVec.ofNat 32 elems)]
        pred := none
        report := rs.foldl (fun a r => a ||| r.2.1) 0
        lnf := rs.any fun r => nbit r.2.1 4 }
    else
      let rs := (mxSets x.dfmt).map fun set =>
        let field := bits (x.opA t) (8 * set + 7) (8 * set)
        convert (elemD x.dfmt) (rndField x 16 set (x.opB .float t)) false x.sat
          (mxValue x.fmt (field % 2 ^ elemBits x.fmt) (bits (x.opC t) (8 * set + 7) (8 * set)))
      convEff x.dfmt (fun l => [(x.dst, packElems x.dfmt l)]) rs

/-! ### shfl, vote, red, flag -/

/-- shfl; its IMM16 is read as an integer (notes/assumptions/145). -/
def shShfl : LaneSh := intSh 0x28 1 1 [0, 1] .int (· == 0)
/-- shfl: d ← a of thread (b mod 32), whatever its path (R194). -/
def execLaneShfl (i : Issue) (s : State) : Res :=
  laneRow shShfl i s fun x t => .write x.dst (x.opA ((x.opB .int t).toNat % 32))

def shVote : LaneSh := intSh 0x29 0 0 [0] .int (· < 8)
/-- vote: mask of the path's threads whose p[MOD] is true (R193). -/
def execLaneVote (i : Issue) (s : State) : Res :=
  laneRow shVote i s fun x _ =>
    .write x.dst (BitVec.ofNat 32 (listMask (x.path.filter fun u => (x.grp.thread u).pred x.mod)))

/-- A node of the reduction tree: its value, with the report of every node below it. -/
abbrev Node := Option (Nat × Nat)

/-- Combines two nodes; a node with one participant below it passes that value on (R195). -/
def redNode (op : Nat → Nat → Nat × Nat) (l r : Node) : Node :=
  match l, r with
  | none, n => n
  | n, none => n
  | some a, some b =>
    let c := op a.1 b.1
    some (c.1, a.2 ||| b.2 ||| c.2)

/-- One level of the tree. -/
def redLevel (op : Nat → Nat → Nat × Nat) : List Node → List Node
  | a :: b :: l => redNode op a b :: redLevel op l
  | l => l

/-- Five levels over 32 leaves. -/
def redTree (op : Nat → Nat → Nat × Nat) (leaves : List Node) : Node :=
  ((redLevel op (redLevel op (redLevel op (redLevel op (redLevel op leaves))))).headD none)

/-- The operation of a node by MOD[2:0], on FP32 encodings for add, on elements otherwise (R195). -/
def redOp (fmt mod : Nat) (a b : Nat) : Nat × Nat :=
  match mod with
  | 0 =>
    let v := FVal.add (fp32.decode a) (fp32.decode b)
    let r := fp32.result v.1
    (r.1, v.2 ||| r.2)
  | 1 => (minNum (laneFmt fmt) a b, 0)
  | 2 => (maxNum (laneFmt fmt) a b, 0)
  | 3 => (a &&& b, 0)
  | _ => (a ||| b, 0)

/-- The encoding that an operation writes: a NaN as the format's canonical NaN (R95). -/
def canonical (f : Fmt) (e : Nat) : Nat := if (f.decode e).isNan then (f.result .nan).1 else e

/-- The reduction of one element position over the participants: encoding and report. and and or act on bits. -/
def redElem (x : Iss) (j : Nat) : Nat × Nat :=
  let widen := x.mod == 0 && x.fmt != 0
  let leaf (t : Nat) : Node :=
    if x.acting.contains t then
      let e := (elemsOf x.fmt (x.opA t)).getD j 0
      some (if widen then (fp32.result ((laneFmt x.fmt).decode e)).1 else e, 0)
    else none
  match redTree (redOp x.fmt x.mod) ((List.range 32).map leaf) with
  | none => (0, 0)
  | some n =>
    if widen then
      let r := (laneFmt x.fmt).result (fp32.decode n.1)
      (r.1, n.2 ||| r.2)
    else if x.mod ≤ 2 then (canonical (laneFmt x.fmt) n.1, n.2)
    else n

def shRed : LaneSh :=
  { floatSh 0x2A 1 0 0 [0] true with ok := fun x => x.mod ≤ 2 || (x.mod ≤ 4 && x.fmt == 0) }

/-- red: every participant writes the root of the fixed tree (R195); the report goes to each (R188). -/
def execLaneRed (i : Issue) (s : State) : Res :=
  laneRow shRed i s fun x _ =>
    let rs := (List.range (elemsOf x.fmt 0).length).map (redElem x)
    { regs := [(x.dst, packElems x.fmt (rs.map (·.1)))]
      pred := none
      report := rs.foldl (fun a r => a ||| r.2) 0
      lnf := rs.any fun r => lnfOf (.float (laneFmt x.fmt)) r.1 r.2 }

def shFlag : LaneSh := intSh 0x2B 0 0 [0] .int (· ≤ 1)

/-- A report of the group's earlier drains, bgather or bmerge has not landed (R190). -/
def State.reportsDue (s : State) (c g : Nat) : Bool :=
  let k := s.core c
  k.drainDue g || k.bob.any fun j => j.grp == g

/-- flag: reads the flag word, and clears it when MOD[0] = 1 (R190). -/
def execLaneFlag (i : Issue) (s : State) : Res :=
  issueRow shFlag.shape i s fun x s =>
    if s.reportsDue x.core x.gslot then .next s
    else
      let g := x.acting.foldl (fun g t => g.updThread t fun th =>
        { th.setReg x.dst th.flags with flags := if x.mod = 1 then 0 else th.flags }) x.grp
      .next ((x.runLane s false []).setGroup x.core x.gslot (x.advance g))

/-! ### rng (R111) -/

def shRng : LaneSh where
  opc := 0x30
  forms := [0]
  fmts := [0]
  wide := true
  imm := .int
  conv := false
  predDst := false
  nd := fun x => if x.mod = 1 then 1 else 4
  na := fun _ => 1
  nb := fun _ => 1
  nc := fun _ => 1
  bselIs := some true
  ok := fun x => x.mod ≤ 1 && x.f 22 22 == 0

/-- rng: Philox with the key of s[sb] and the counter of g[A], g[C], s[sb+1] (R111). -/
def execLaneRng (i : Issue) (s : State) : Res :=
  laneRow shRng i s fun x t =>
    let k := x.grp.sreg (x.f 27 22)
    let c := x.grp.sreg (x.f 27 22 + 1)
    let o := philox (k.setWidth 32) (k.extractLsb' 32 32) (x.opA t) (x.opC t) (c.setWidth 32) (c.extractLsb' 32 32)
    { TEff.none with
      regs := ((List.range (if x.mod = 1 then 1 else 4)).map fun j => (x.dst + j, o.getD j 0)) }

/-! ### cmp.24 (R159 to R161) -/

/-- Elements of an mma.t fragment of a format (R116, R117): K. -/
def fragK (fmt : Nat) : Nat :=
  match fmt with
  | 0 => 8
  | 1 | 2 => 16
  | 9 => 64
  | _ => 32

/-- Element `n` of a packed byte image (R96). -/
def packedElem (w : Nat) (img : Nat) (n : Nat) : Nat := img / 2 ^ (w * n) % 2 ^ w

/-- The packed image held in registers from `base` on. -/
def regImage (x : Iss) (t base n : Nat) : Nat :=
  ((List.range n).map fun r => (x.grp.reg t (base + r)).toNat * 2 ^ (32 * r)).foldl (· + ·) 0

/-- Rank of a magnitude: NaN above infinity above finite values by absolute value (R160). -/
def magAbove (a b : FVal) : Bool :=
  match a, b with
  | .nan, .nan => false
  | .nan, _ => true
  | _, .nan => false
  | .inf _, .inf _ => false
  | .inf _, _ => true
  | _, .inf _ => false
  | .fin _ m e, .fin _ m' e' => FVal.lt (.fin false m' e') (.fin false m e)

/-- The two positions a group keeps, ascending (R160). -/
def keepTwo (vs : List FVal) : Nat × Nat :=
  let better (i j : Nat) : Bool :=
    let a := vs.getD i .nan
    let b := vs.getD j .nan
    magAbove a b || (!magAbove b a && i < j)
  let rank (i : Nat) : Nat := ((List.range 4).filter fun j => j ≠ i ∧ better j i).length
  match (List.range 4).filter fun i => rank i < 2 with
  | [a, b] => (a, b)
  | _ => (0, 1)

/-- Scale registers: offset in the dense input and in the output, for MX formats (R118). -/
def scaleMoves (fmt : Nat) : List (Nat × Nat) :=
  if fmt = 9 then [(16, 12), (17, 13)] else if isMx fmt then [(16, 12)] else []

/-- cmp.24 for one thread: the output registers and the count of dropped groups. -/
def compress (x : Iss) (t : Nat) : List (Nat × Word) × Nat :=
  let w := elemBits x.fmt
  let k := fragK x.fmt
  let img := regImage x t x.ra 16
  let el (n : Nat) : Nat := packedElem w img n
  let val (n : Nat) : FVal := (elemD x.fmt).decode (el n)
  let groups := (List.range (k / 2)).map fun g =>
    let vs := (List.range 4).map fun i => val (4 * g + i)
    let kept := keepTwo vs
    let nonzero := (vs.filter fun v => !v.isZero).length
    (el (4 * g + kept.1), el (4 * g + kept.2), kept.1 + 4 * kept.2, decide (2 < nonzero))
  let elems := groups.foldr (fun g a => g.1 + 2 ^ w * (g.2.1 + 2 ^ w * a)) 0
  let idx := groups.foldr (fun g a => g.2.2.1 + 16 * a) 0
  let drops := (groups.filter fun g => g.2.2.2).length
  let word (v r : Nat) : Word := BitVec.ofNat 32 (v / 2 ^ (32 * r))
  let out (r : Nat) : Word :=
    if r < 8 then word elems r
    else if r < 12 then word idx (r - 8)
    else if r = 15 then BitVec.ofNat 32 drops
    else match (scaleMoves x.fmt).find? fun m => m.2 == r with
      | some m => x.grp.reg t (x.ra + m.1)
      | none => 0
  ((List.range 16).map fun r => (x.dst + r, out r), drops)

def shCmp24 : LaneSh where
  opc := 0x31
  forms := [0]
  fmts := [1, 2, 3, 4, 5, 6, 7, 8, 9, 0xA, 0xB]
  wide := true
  imm := .int
  conv := false
  predDst := false
  nd := fun _ => 16
  na := fun x => if isMx x.fmt then 32 else 16
  nb := fun _ => 0
  nc := fun _ => 0
  bselIs := none
  ok := fun x => x.mod == 0

/-- cmp.24: 2:4 compression with its drop count, SDROP, BOB_FLAGS and BOB_DROPS (R159 to R161). -/
def execLaneCmp24 (i : Issue) (s : State) : Res :=
  issueRow shCmp24.shape i s fun x s =>
    let rs := x.acting.map fun t => (t, compress x t)
    let drops := (rs.map fun r => r.2.2).sum
    let es := rs.map fun r => (r.1, { TEff.none with regs := r.2.1, report := if 0 < r.2.2 then fSDROP else 0 })
    let s := x.runLane s true es
    .next (if drops = 0 then s else (s.orReg (.core x.core 4) 4 1).count (.core x.core 4) 0x10 drops)

/-! ### pick (R152 to R154) -/

/-- An entry of a list: value encoding (FP32), position, and its place in the order of ties. -/
structure Entry where
  val : Nat
  pos : Nat
  tie : Nat
  deriving DecidableEq, Repr

/-- Ranks above (R153): numbers by value, NaNs below, then the lower position, then the tie order. -/
def Entry.above (a b : Entry) : Bool :=
  let u := fp32.decode a.val
  let v := fp32.decode b.val
  let rest := a.pos < b.pos || (a.pos == b.pos && a.tie < b.tie)
  if u.isNan && v.isNan then rest
  else if u.isNan then false
  else if v.isNan then true
  else if FVal.lt v u then true
  else if FVal.lt u v then false
  else rest

/-- Inserts an entry into a ranked list. -/
def Entry.insert (e : Entry) : List Entry → List Entry
  | [] => [e]
  | a :: l => if Entry.above e a then e :: a :: l else a :: Entry.insert e l

/-- Position of an empty entry. -/
def emptyPos : Nat := 0xFFFF_FFFF

def shPick : LaneSh where
  opc := 0x32
  forms := [0]
  fmts := [0, 1, 2]
  wide := true
  imm := .float
  conv := false
  predDst := false
  nd := fun _ => 2
  na := fun _ => 1
  nb := fun _ => 1
  nc := fun _ => 2
  bselIs := some false
  ok := fun x => x.mod < 32

/-- Candidates of a thread: FP32 encoding and position, empty ones left out. -/
def candidates (x : Iss) (t : Nat) : List (Nat × Nat) :=
  let vs := (elemsOf x.fmt (x.opA t)).map fun e =>
    if x.fmt = 0 then e else (fp32.result ((laneFmt x.fmt).decode e)).1
  let p := (x.grp.reg t x.rb).toNat
  ((vs.zip ((List.range vs.length).map fun j => (p + j) % 2 ^ 32)).filter fun c => c.2 ≠ emptyPos)

/-- pick: merges a thread-indexed list with the path's candidates and writes the first k (R152 to R154). -/
def execLanePick (i : Issue) (s : State) : Res :=
  issueRow shPick.shape i s fun x s =>
    let k := x.mod + 1
    let old := (List.range k).filterMap fun t =>
      let p := (x.grp.reg t (x.rc + 1)).toNat
      if p = emptyPos then none else some (Entry.mk (x.grp.reg t x.rc).toNat p t)
    let cand := x.acting.flatMap fun t =>
      ((candidates x t).zip (List.range 2)).map fun c => Entry.mk c.1.1 c.1.2 (32 + 2 * t + c.2)
    let ranked := (old ++ cand).foldl (fun l e => Entry.insert e l) []
    let out (t : Nat) : List (Nat × Word) :=
      match if t < k then ranked[t]? else none with
      | some e => [(x.dst, BitVec.ofNat 32 (canonical fp32 e.val)), (x.dst + 1, BitVec.ofNat 32 e.pos)]
      | none => [(x.dst, 0x7FC0_0000), (x.dst + 1, 0xFFFF_FFFF)]
    let nan (t : Nat) : Bool := x.acting.contains t && (candidates x t).any fun c => (fp32.decode c.1).isNan
    let es := ((List.range 32).filter fun t => t < k || x.acting.contains t).map fun t =>
      (t, { TEff.none with regs := out t, report := if nan t then fNV else 0 })
    let s := (x.runLane s true es).count (.core x.core 3) 0x10 1
    .next (if x.acting.any nan then s.orReg (.core x.core 3) 0 8 else s)

end Sys2Proof.Machine
end

