-- ==== Sys2Proof/Machine/Scalar.lean ====
section
/-! DEFINITION. The scalar instructions (R79, R80, R104, R196 to R199). They are per-issue instructions
(R72) and report no flags (R198). -/

namespace Sys2Proof.Machine

namespace Iss

def sDst (x : Iss) : Nat := x.f 45 40
def sA (x : Iss) : Nat := x.f 39 34
def sB (x : Iss) : Nat := x.f 33 28
/-- TYPE, which the imm form holds in other bits (R79). -/
def sType (x : Iss) : Nat := if x.form = 1 then x.f 5 2 else x.f 27 24
/-- COND; in the imm form of cmp it is read from the same bits (notes/assumptions/6). -/
def sCond (x : Iss) : Nat := x.f 23 20
def sG (x : Iss) : Nat := x.f 19 12

/-- Operand A of a scalar instruction. -/
def valA (x : Iss) : DWord := x.grp.sreg x.sA

/-- Operand B: an s register or the immediate of the form (R79). -/
def valB (x : Iss) : DWord :=
  match x.form with
  | 0 => x.grp.sreg x.sB
  | 1 =>
    let v := x.f 33 6
    if x.sType = 2 then BitVec.ofNat 64 (v * 16) else sext64 28 v
  | _ => BitVec.ofNat 64 (x.f 3 0 * 2 ^ 60 + x.ext 59 0)

end Iss

/-- What a scalar opcode accepts. -/
structure ScalarSh where
  opc : Nat
  forms : List Nat
  types : List Nat
  useD : Bool
  useA : Bool
  useB : Bool
  useG : Bool
  useCond : Bool
  predDst : Bool
  ok : Iss → Bool

/-- The decode checks of a scalar instruction (R70, R79, R80, R91). -/
def ScalarSh.legal (h : ScalarSh) (x : Iss) : Bool :=
  h.forms.contains x.form && h.types.contains x.sType &&
  (if h.predDst then x.f 45 43 == 0 else h.useD || x.sDst == 0) &&
  (h.useA || x.sA == 0) &&
  (match x.form with
   | 1 => x.f 1 0 == 0
   | form =>
     (if form = 0 then h.useB || x.sB == 0 else x.sB == 0) &&
     (h.useCond || x.sCond == 0) && (h.useG || x.sG == 0) && x.f 11 4 == 0 &&
     (form == 2 || x.f 3 0 == 0)) &&
  h.ok x

def ScalarSh.shape (h : ScalarSh) : Shape where
  cls := 1
  opc := h.opc
  legal := h.legal
  wr := fun x => if h.useG && h.useA then [(x.sG, 1)] else []
  rd := fun x => if h.useG && !h.useA then [(x.sG, 1)] else []
  ss := fun x => (if h.useD && !h.predDst then [x.sDst] else []) ++ (if h.useA then [x.sA] else [])
    ++ (if h.useB ∧ x.form = 0 then [x.sB] else [])

/-- Runs a scalar instruction: its effect on the group if it acts, the counters, the path's advance. -/
def scalarRow (h : ScalarSh) (i : Issue) (s : State) (eff : Iss → Group → Group) : Res :=
  issueRow h.shape i s fun x s =>
    let s := s.count (.core x.core 6) 0x10 1
    let s := if h.useG then s.count (.core x.core 6) 0x20 1 else s
    .next (x.commit s (if x.acts then eff x x.grp else x.grp))

/-- A 32-bit result is zero-extended (R198). -/
def low32 (v : DWord) : DWord := (v.setWidth 32).setWidth 64

/-- Bits of an integer TYPE. -/
def typeBits (t : Nat) : Nat := if t = 0 then 64 else 32

/-- An integer operand at its TYPE's width. -/
def typed (t : Nat) (v : DWord) : Nat := v.toNat % 2 ^ typeBits t

/-- d ← f(a, b) with f on integers of the TYPE, or on FP32 values. -/
def scalarOp (x : Iss) (fi : Nat → Nat → Nat → Nat) (ff : FVal → FVal → FVal × Nat) : DWord :=
  if x.sType = 2 then
    BitVec.ofNat 64 (fp32.result (ff (fp32.decode (typed 1 x.valA)) (fp32.decode (typed 1 x.valB))).1).1
  else
    let n := typeBits x.sType
    BitVec.ofNat 64 (fi n (typed x.sType x.valA) (typed x.sType x.valB) % 2 ^ n)

/-- A two-operand scalar opcode. -/
def arithSh (opc : Nat) (forms types : List Nat) : ScalarSh :=
  ⟨opc, forms, types, true, true, true, false, false, false, fun _ => true⟩

def shSMov : ScalarSh := { arithSh 0x00 [0, 1, 2] [0, 1, 2] with useA := false }
/-- mov: d ← b, its low half for the 32-bit types. -/
def execScalarMov (i : Issue) (s : State) : Res :=
  scalarRow shSMov i s fun x g => g.setSreg x.sDst (if x.sType = 0 then x.valB else low32 x.valB)

def shSAdd : ScalarSh := arithSh 0x01 [0, 1, 2] [0, 1, 2]
def execScalarAdd (i : Issue) (s : State) : Res :=
  scalarRow shSAdd i s fun x g => g.setSreg x.sDst (scalarOp x (fun _ a b => a + b) FVal.add)

def shSSub : ScalarSh := arithSh 0x02 [0, 1, 2] [0, 1, 2]
def execScalarSub (i : Issue) (s : State) : Res :=
  scalarRow shSSub i s fun x g =>
    g.setSreg x.sDst (scalarOp x (fun n a b => a + (2 ^ n - b)) fun a b => FVal.add a b.neg)

def shSMul : ScalarSh := arithSh 0x03 [0, 1, 2] [0, 1, 2]
def execScalarMul (i : Issue) (s : State) : Res :=
  scalarRow shSMul i s fun x g => g.setSreg x.sDst (scalarOp x (fun _ a b => a * b) FVal.mul)

/-- An opcode of integer TYPEs only. -/
def intOnly (opc : Nat) (forms : List Nat) : ScalarSh := arithSh opc forms [0, 1]

/-- Runs an opcode of integer TYPEs only. -/
def scalarInt (h : ScalarSh) (i : Issue) (s : State) (fi : Nat → Nat → Nat → Nat) : Res :=
  scalarRow h i s fun x g => g.setSreg x.sDst (scalarOp x fi fun a _ => (a, 0))

def shSAnd : ScalarSh := intOnly 0x04 [0, 1, 2]
def execScalarAnd (i : Issue) (s : State) : Res := scalarInt shSAnd i s fun _ a b => a &&& b

def shSOr : ScalarSh := intOnly 0x05 [0, 1, 2]
def execScalarOr (i : Issue) (s : State) : Res := scalarInt shSOr i s fun _ a b => a ||| b

def shSXor : ScalarSh := intOnly 0x06 [0, 1, 2]
def execScalarXor (i : Issue) (s : State) : Res := scalarInt shSXor i s fun _ a b => a ^^^ b

def shSShl : ScalarSh := intOnly 0x07 [0, 1]
def execScalarShl (i : Issue) (s : State) : Res := scalarInt shSShl i s fun n a b => a * 2 ^ (b % n)

def shSShr : ScalarSh := intOnly 0x08 [0, 1]
def execScalarShr (i : Issue) (s : State) : Res := scalarInt shSShr i s fun n a b => a / 2 ^ (b % n)

def shSSar : ScalarSh := intOnly 0x09 [0, 1]
def execScalarSar (i : Issue) (s : State) : Res :=
  scalarInt shSSar i s fun n a b => ofSigned n (toSigned n a / (2 ^ (b % n) : Nat))

/-- min or max of two FP32 values as scalar results (R186, R198). -/
def scalarPick (x : Iss) (fi : Nat → Nat → Nat → Nat) (ff : Fmt → Nat → Nat → Nat) : DWord :=
  if x.sType = 2 then BitVec.ofNat 64 (ff fp32 (typed 1 x.valA) (typed 1 x.valB))
  else scalarOp x fi fun a _ => (a, 0)

def shSMin : ScalarSh := arithSh 0x0A [0, 1, 2] [0, 1, 2]
def execScalarMin (i : Issue) (s : State) : Res :=
  scalarRow shSMin i s fun x g => g.setSreg x.sDst
    (scalarPick x (fun n a b => if toSigned n b < toSigned n a then b else a) minNum)

def shSMax : ScalarSh := arithSh 0x0B [0, 1, 2] [0, 1, 2]
def execScalarMax (i : Issue) (s : State) : Res :=
  scalarRow shSMax i s fun x g => g.setSreg x.sDst
    (scalarPick x (fun n a b => if toSigned n a < toSigned n b then b else a) maxNum)

def shSUmin : ScalarSh := intOnly 0x0C [0, 1, 2]
def execScalarUmin (i : Issue) (s : State) : Res := scalarInt shSUmin i s fun _ a b => min a b

def shSUmax : ScalarSh := intOnly 0x0D [0, 1, 2]
def execScalarUmax (i : Issue) (s : State) : Res := scalarInt shSUmax i s fun _ a b => max a b

def shSCmp : ScalarSh :=
  { arithSh 0x0E [0, 1, 2] [0, 1, 2] with
    useD := false, predDst := true, useCond := true,
    ok := fun x => if x.sType = 2 then condFloatOk x.sCond else condIntOk x.sCond }
/-- cmp: the predicate is written in every thread of the issuing path (R80). -/
def execScalarCmp (i : Issue) (s : State) : Res :=
  scalarRow shSCmp i s fun x g =>
    let v := if x.sType = 2 then
        condFloat x.sCond (fp32.decode (typed 1 x.valA)) (fp32.decode (typed 1 x.valB))
      else condInt (typeBits x.sType) x.sCond (typed x.sType x.valA) (typed x.sType x.valB)
    x.path.foldl (fun g t => g.updThread t fun th => th.setPred (x.f 42 40) v) g

def shSFma : ScalarSh := arithSh 0x0F [0] [2]
/-- fma: d ← a × b + d, one rounding (R198). -/
def execScalarFma (i : Issue) (s : State) : Res :=
  scalarRow shSFma i s fun x g =>
    g.setSreg x.sDst (scalarOp x (fun _ a _ => a) fun a b =>
      FVal.fma a b (fp32.decode (typed 1 (x.grp.sreg x.sDst))))

/-- The value of a scalar register by TYPE. -/
def scalarVal (t : Nat) (v : DWord) : FVal :=
  if t = 2 then fp32.decode (typed 1 v) else FVal.ofInt (toSigned (typeBits t) (typed t v)) 0

/-- A value rounded to nearest even and clamped to an integer TYPE; 0 for NaN (R104). -/
def toIntType (t : Nat) (v : FVal) : DWord :=
  let n := typeBits t
  let lo : Int := -((2 ^ (n - 1) : Nat) : Int)
  let hi : Int := ((2 ^ (n - 1) : Nat) : Int) - 1
  let k : Int := match v with
    | .nan => 0
    | .inf neg => if neg then lo else hi
    | .fin neg m e =>
      let q := (roundAt .even m e 0).1
      if neg then -(q : Int) else q
  BitVec.ofNat 64 (ofSigned n (max lo (min hi k)))

def shSCvt : ScalarSh :=
  { arithSh 0x10 [0] [0, 1, 2] with useB := false, useCond := true, ok := fun x => x.sCond ≤ 2 }
/-- cvt: from TYPE to the type in COND (R104). -/
def execScalarCvt (i : Issue) (s : State) : Res :=
  scalarRow shSCvt i s fun x g =>
    let v := scalarVal x.sType x.valA
    g.setSreg x.sDst
      (if x.sCond = 2 then
         (if x.sType = 2 then BitVec.ofNat 64 (if v.isNan then fp32.qnan else typed 1 x.valA)
          else BitVec.ofNat 64 (fp32.result v).1)
       else toIntType x.sCond v)

def shRdlane : ScalarSh := { arithSh 0x11 [0] [0] with useA := false, useG := true }
/-- rdlane: zero-extended g[G] of thread (b mod 32), whatever its path (R199). -/
def execRdlane (i : Issue) (s : State) : Res :=
  scalarRow shRdlane i s fun x g =>
    g.setSreg x.sDst ((x.grp.reg (x.valB.toNat % 32) x.sG).setWidth 64)

def shWrlane : ScalarSh := { arithSh 0x12 [0] [0] with useD := false, useG := true }
/-- wrlane: g[G] of thread (b mod 32) ← low 32 bits of a (R199). -/
def execWrlane (i : Issue) (s : State) : Res :=
  scalarRow shWrlane i s fun x g => g.setReg (x.valB.toNat % 32) x.sG (x.valA.setWidth 32)

end Sys2Proof.Machine
end

