-- ==== Sys2Proof/Machine/Ready.lean ====
section
/-! DEFINITION. Whether a group's next instruction could issue (R49), as `GRPn_STAT` shows it (R63): the words at its
program address are read as the tables of chapter 04 read them. -/

namespace Sys2Proof.Machine

/-- The lane opcodes (R77). -/
def laneShapes : List LaneSh :=
  [shMov, shAdd, shSub, shMul, shFma, shFms, shMin, shMax, shAbs, shNeg, shCmp, shSel, shCvt, shCvtMx, shPack, shUnpack,
   shIadd, shIsub, shImul, shImin, shImax, shIcmp, shAnd, shOr, shXor, shNot, shShl, shShr, shSar, shPopc, shClz] ++
  [shRcp, shRsqrt, shSqrt, shExp2, shLog2, shDiv, shShfl, shVote, shRed, shFlag, shRng, shCmp24, shPick]

/-- The scalar opcodes (R80). -/
def scalarShapes : List ScalarSh :=
  [shSMov, shSAdd, shSSub, shSMul, shSAnd, shSOr, shSXor, shSShl, shSShr, shSSar, shSMin, shSMax, shSUmin, shSUmax, shSCmp,
   shSFma, shSCvt, shRdlane, shWrlane]

/-- Every opcode of chapter 04. -/
def shapes : List Shape :=
  laneShapes.map LaneSh.shape ++ scalarShapes.map ScalarSh.shape ++
  [shMma 0 false, shMmaS, shMma 2 true, shSmma, shDrain, loadShape 0 false, storeShape 1 false, loadShape 2 true,
   storeShape 3 true, shAtom, shLdS, shPrefetch, shBob 8, shBob 9, shDma 0 false, shDma 1 true, shDmaWait, shDmaPoll] ++
  [shNop, shBra, shJmp, shCall, shExit, shBarG, shBarB, shFence, shTsc, shBeat, shWbeat, shTrap, shRdpc]

/-- The instruction that a group's words in memory make its next one. -/
def State.nextInstr (s : State) (c gs : Nat) (g : Group) (b : Block) (pc : DWord) : Iss :=
  { core := c, gslot := gs, bslot := g.bslot, blk := b, grp := g, pc := pc, path := g.pathAt pc,
    w0 := BitVec.ofNat 64 (s.partNat b.part pc.toNat 8), w1 := BitVec.ofNat 64 (s.partNat b.part (pc.toNat + 8) 8),
    smmaEn := s.reg (.core c 2) 4 % 2 == 1, ecc := .clean }

/-- A home holds a line of the instruction (R268, R270). -/
def Iss.fetchHeld (x : Iss) (s : State) : Bool :=
  x.lines.any fun l => !((s.core x.core).rc.any (·.addr == l)) && match s.home x.blk.part l with
    | some (m, o) => s.homeHeld m o
    | none => false

/-- The instruction waits for a register or for its fetch. One that faults waits for neither. -/
def Iss.blocked (x : Iss) (s : State) : Bool :=
  (s.fetchReason x.blk.part x.pc).isNone && (x.fetchHeld s || match shapes.find? fun h => h.cls == x.cls && h.opc == x.opc with
    | some h => x.headerOk && h.legal x && x.waits h s
    | none => false)

/-- `GRPn_STAT.STATE` and BARID of a group in a slot (R63). The table has no code for a path that waits at wbeat, nor for a
group that waits for a seam, an acquire, an atomic or its descriptors: 1 (notes/assumptions/144). -/
def State.groupStatus (s : State) (c gs : Nat) (g : Group) : Nat × Nat :=
  if g.ended then (4, 0)
  else match g.issuePc with
    | some pc =>
      let waits := match s.block c g.bslot with
        | some b => (s.nextInstr c gs g b pc).blocked s
        | none => false
      (if g.hold == .none ∧ !waits then 0 else 1, 0)
    | none =>
      let low := lowest (g.alive.map fun t => (g.thread t).pc)
      match g.alive.find? fun t => some (g.thread t).pc == low with
      | none => (1, 0)
      | some t => match (g.thread t).wait with
        | .barG id => (2, id)
        | .barB id => (3, id)
        | _ => (1, 0)

end Sys2Proof.Machine
end

