-- ==== Sys2Proof/Machine/Views.lean ====
section
/-! DEFINITION. The read-only fields of the management registers, computed from the state that holds them
(the register maps of chapters 01 to 19). -/

namespace Sys2Proof.Machine

/-- A 64-bit value's half. -/
def half (hi : Bool) (v : Nat) : Nat := if hi then v / 2 ^ 32 % 2 ^ 32 else v % 2 ^ 32

/-! ### Counts -/

/-- Logical cores of a die. -/
def coresOfDie (d : Nat) : List Nat := (List.range 160).map (· + 160 * d)

def State.mapped (s : State) (d : Nat) : Nat := ((coresOfDie d).filter fun c => (s.physOf c).isSome).length

/-- The core map of every die is built: the first generation and the counts have been set together (R24, R400). -/
def State.mapSet (s : State) : Bool := (List.range 8).all fun d => (s.die d).mapBuilt

/-- A die passed start-up (R399, R400). -/
def State.dieOk (s : State) (d : Nat) : Bool := (s.die d).mapBuilt && !(s.die d).failed && 0 < s.mapped d

def State.hub (s : State) (h : Nat) : Hub := if h = 0 then s.boot.hub0 else s.boot.hub1
/-- A hub passed start-up and is not retired. -/
def State.hubOk (s : State) (h : Nat) : Bool := (s.hub h).tested && !(s.hub h).failed && !(s.hub h).lost

/-- Physical cores of a die in the factory map (R390). -/
def State.factoryBad (s : State) (d : Nat) : List Nat :=
  match s.boot.fuse with
  | some f => (f.bad.filter fun b => b.1 == d).map (·.2)
  | none => []

/-- Field retirement entries in force: those of the fuse copy and those burnt in service (R416). -/
def State.fieldEntries (s : State) : List (BitVec 24) :=
  (match s.boot.fuse with
   | some f => f.field
   | none => []) ++ s.flash.field

/-- Physical cores of a die in the field retirement area: KIND 1, INDEX the unit number (R416). -/
def State.fieldBad (s : State) (d : Nat) : List Nat :=
  (s.fieldEntries.filterMap fun e =>
    let u := bits e 19 0
    if bits e 23 20 = 1 ∧ u / 0x100 = 0x100 + d then some (u % 0x100) else none).eraseDups

/-- The bad set of a die (R400). -/
def State.badSet (s : State) (d : Nat) : List Nat :=
  (s.factoryBad d ++ (s.die d).testBad ++ s.fieldBad d).eraseDups

/-- A set of physical cores selected by `FUSE_SEL.KIND`. -/
def State.fuseSet (s : State) (kind d : Nat) : List Nat :=
  match kind with
  | 0 => s.factoryBad d
  | 1 => (s.die d).testBad
  | 2 => s.fieldBad d
  | 3 => s.badSet d
  | _ => []

/-- Smallest firmware version accepted: the fuse's, or as raised since (R391). -/
def State.fwmin (s : State) : Nat :=
  match s.flash.fwmin, s.boot.fuse with
  | some v, _ => v.toNat
  | none, some f => f.fwmin.toNat
  | none, none => 0

/-- The two nodes that a bridge joins: 0 to 5 along the rows, 6 to 9 between column partners, 10 to 17 to the hub of each
die's row, 18 to 33 to the stacks, 34 between the hubs; none beyond. Nodes are dies 0 to 7, hubs 8 and 9, stacks 10 to 25
(R7; the numbers are the model's, notes/assumptions/7). -/
def bridgeJoin (n : Nat) : Option (Nat × Nat) :=
  if n < 3 then some (n, n + 1)
  else if n < 6 then some (n + 1, n + 2)
  else if n < 10 then some (n - 6, n - 2)
  else if n < 18 then some (n - 10, 8 + (n - 10) / 4)
  else if n < 34 then some ((n - 18) / 2, n - 8)
  else if n = 34 then some (8, 9)
  else none

/-- The compute dies at the ends of a bridge. -/
def bridgeEnds (n : Nat) : List Nat :=
  match bridgeJoin n with
  | some (a, b) => [a, b].filter (· < 8)
  | none => []

/-- The bridge between two nodes, in either direction. -/
def bridgeOf (a b : Nat) : Option Nat :=
  (List.range 35).find? fun n => bridgeJoin n == some (a, b) || bridgeJoin n == some (b, a)

/-- The die through which a node reaches the fabric, on a path to another node: its own, or for a hub the die of its row in
the other node's column (R281). -/
def nodeDie (n other : Nat) : Nat :=
  let col := if 10 ≤ other then (other - 10) / 2 % 4 else other % 4
  if n < 8 then n else if n < 10 then 4 * (n - 8) + col else (n - 10) / 2

/-- The dies that a transfer from die `a` to die `b` visits: along a's row to b's column, and then to b's row (R281). -/
def diePath (a b : Nat) : List Nat :=
  let ca := a % 4
  let cb := b % 4
  let row := (List.range (max ca cb - min ca cb + 1)).map fun i => a / 4 * 4 + if ca ≤ cb then ca + i else ca - i
  if a / 4 = b / 4 then row else row ++ [b]

/-- The nodes that a transfer visits. Between the hubs it takes their sideband. -/
def nodePath (a b : Nat) : List Nat :=
  if a = b then [a]
  else if 8 ≤ a ∧ a < 10 ∧ 8 ≤ b ∧ b < 10 then [a, b]
  else
    let p := diePath (nodeDie a b) (nodeDie b a)
    (if a < 8 then [] else [a]) ++ p ++ if b < 8 then [] else [b]

/-- The hops of a transfer, each from a node to the next (R281). -/
def pathOf (a b : Nat) : List (Nat × Nat) := (nodePath a b).zip ((nodePath a b).drop 1)

/-- Spare bridge wires in use at a die. -/
def State.sparedAt (s : State) (d : Nat) : Nat :=
  ((s.mf.bridgeSpare.filter fun b => (bridgeEnds b.1).contains d).map fun b => b.2.1 + b.2.2).sum

/-- Code of `BOOT_STATUS.PHASE`. -/
def BootPhase.code : BootPhase → Nat
  | .selfTest => 0
  | .fuses => 1
  | .image => 2
  | .recovery => 3
  | .firmware => 4
  | .training => 5
  | .ready => 6
  | .stopped => 7

/-- Code of `TL_STATUS.STATE`. -/
def LinkSt.code : LinkSt → Nat
  | .off => 0
  | .detect => 1
  | .equalise => 2
  | .align => 3
  | .identify => 4
  | .delay => 5
  | .up => 6
  | .retrain => 7
  | .retired => 8
  | .free => 9

/-- Code of `PART_CFGp.STATE`. -/
def PartSt.code : PartSt → Nat
  | .free => 0
  | .defined => 1
  | .opened => 2
  | .running => 3
  | .resetting => 4
  | .erasing => 5
  | .erased => 6

/-- A link is trained with at least 3 lanes in service. -/
def Link.present (l : Link) : Bool := l.st == .up && 3 ≤ popCount 4 l.lanes.toNat

/-! ### What the hubs show of a die (R22, R24) -/

/-- The values of a die in the `PKG_` and `PKG_DIE` blocks as they are now. -/
def State.dieNow (s : State) (d : Nat) : DieSeen where
  ok := s.dieOk d
  mapped := if s.mapSet then s.mapped d else 0
  vacant := if s.mapSet then 160 - s.mapped d else 0
  spares := if s.mapSet then (s.die d).spares.length else 0
  tested := if (s.die d).testsDone then 168 - (s.die d).testBad.length else 0
  mems := [2 * d, 2 * d + 1, 16 + d].filter fun m => (s.memUnit m).trained
  links := (List.range 64).filter fun l => dieOfLink l == d && (s.link l).present

/-- The values of a die that the hubs serve: those of the last boundary at which it reported once a whole beat has
passed without a report (R22); a die that has failed is the hubs' own to show. -/
def State.dieShown (s : State) (d : Nat) : DieSeen :=
  match (s.die d).seen with
  | some v => if 2 ≤ (s.die d).silent && !(s.die d).failed && !(s.die d).failedService then v else s.dieNow d
  | none => s.dieNow d

/-- The module fields of `TL_MOD` and `ETH_MOD`, given the cage's power budget in 0.1 W and the application selected in page
10h, which a rejected module has not (R310, R355). -/
def modWord (m : Option ModuleIn) (budget sel : Nat) : Nat :=
  match m with
  | none => 0
  | some m => word [(16, ofSigned 8 m.temp), (8, m.ident % 256), (3, (sel != 0 && decide (50 ≤ m.rev) && decide (m.power ≤ budget)).toNat),
      (2, (decide (m.power ≤ budget)).toNat), (1, (decide (50 ≤ m.rev)).toNat), (0, 1)]

/-- Power budget of a cage: the board's record lists those of the 64 link cages, then of the four port
cages; none before it is read (R310, R355). -/
def State.cageBudget (s : State) (cage : Nat) : Nat := if s.boot.descBad then 0 else s.flash.budgets.getD cage 0

/-- The 32-byte form of a record (R35), byte 0 lowest. -/
def Rec.image (r : Rec) : Nat :=
  word [(0, r.tsc.toNat), (64, r.src), (96, r.code), (112, r.part + 16 * r.sev),
    (120, 64 * r.ret.toNat + 128 * r.late.toNat), (128, r.data.toNat)]

/-! ### Fields by block -/

/-- Field words of `PKG_` (chapter 01). -/
def State.viewPkg (s : State) (o : Nat) : Nat :=
  let dies := (List.range 8).map s.dieShown
  let tl := listMask (dies.flatMap fun v => v.links)
  let mems := dies.flatMap fun v => v.mems
  let serial := match s.boot.fuse with
    | some f => f.serial.toNat
    | none => 0
  let mac := match s.boot.fuse with
    | some f => f.mac.toNat
    | none => 0
  match o with
  | 0x00 => 0xE1A5_1280
  | 0x04 => 0x0201
  | 0x08 => half false serial
  | 0x0C => half true serial
  | 0x14 => word [(2, s.primary), (1, (s.hubOk 1).toNat), (0, (s.hubOk 0).toNat)]
  | 0x18 => listMask ((List.range 8).filter fun d => (s.dieShown d).ok)
  | 0x1C => word [(16, (dies.map fun v => v.vacant).sum), (0, (dies.map fun v => v.mapped).sum)]
  | 0x40 => s.boot.gen % 2 ^ 16
  | 0x44 => listMask mems
  | 0x48 => half false tl
  | 0x4C => half true tl
  | 0x50 => listMask ((List.range 5).filter fun p => 2 ^ 31 ≤ s.reg (.eth p) 0)
  | 0x54 => word [(3, (s.hubOk 0 != s.hubOk 1).toNat), (2, s.boot.fastStart.toNat),
      (1, s.boot.degraded.toNat), (0, s.boot.ready.toNat)]
  | 0x58 => half false mac
  | 0x5C => half true mac
  | _ => if 0x20 ≤ o ∧ o < 0x40 then
      let v := s.dieShown ((o - 0x20) / 4)
      word [(16, v.vacant), (8, v.spares), (0, v.mapped)]
    else 0

/-- OFFSET saturates at 16 bits, two's complement (chapter 02). -/
def sat16 (v : Int) : Nat := ofSigned 16 (max (-0x8000) (min 0x7FFF v))

def State.viewTime (s : State) (o : Nat) : Nat :=
  match o with
  | 0x00 => half false s.time.tsc.toNat
  | 0x04 => half true s.time.tsc.toNat
  | 0x0C => word [(31, s.inSync.toNat), (30, s.time.held.toNat), (16, s.time.link), (0, sat16 s.time.offset)]
  | _ => 0

def State.viewEvlog (s : State) (o : Nat) : Nat :=
  match o with
  | 0x00 => word [(31, (decide (16384 < s.log.total)).toNat), (0, s.log.total % 16384)]
  | 0x04 => s.log.lost.toNat
  | 0x08 => word [(31, s.log.retFull.toNat), (0, s.log.retained.length)]
  | _ => 0

def State.viewBoot (s : State) (o : Nat) : Nat :=
  let fast (k : Nat) : Nat := (s.boot.fast.filter fun f => f.1 == k).length
  let fell (k : Nat) : Nat := (s.boot.fell.filter fun f => f.1 == k).length
  let img (f : ImageIn → Nat) : Nat := match s.boot.image with
    | some i => f i
    | none => 0
  match o with
  | 0x00 => word [(28, s.boot.phase.code), (27, s.boot.image.isSome.toNat), (26, s.boot.fwminRaised.toNat)]
  | 0x04 => img fun i => i.fwver.toNat
  | 0x08 => s.fwmin
  | 0x0C => s.flash.nofast.toNat
  | 0x10 => s.boot.readyMs
  | 0x14 => word [(16, fast 0), (8, fast 1), (0, fast 2)]
  | 0x18 => word [(16, fell 0), (8, fell 1), (0, fell 2)]
  | 0x50 => s.flash.hours
  | 0x54 => s.flash.starts
  | _ => if 0x20 ≤ o ∧ o < 0x50 then img fun i => bits i.hash (8 * (o - 0x20) + 31) (8 * (o - 0x20)) else 0

def State.viewFuse (s : State) (o : Nat) : Nat :=
  match o with
  | 0x00 => word [(31, s.boot.fuse.isSome.toNat), (30, s.boot.diverge.toNat), (29, s.boot.h1Read.toNat),
      (28, s.boot.h0Read.toNat), (0, min s.boot.disagree 0xFFFF)]
  | 0x04 => word [(16, 0x800), (0, s.fieldEntries.length)]
  | _ =>
    if 0x10 ≤ o ∧ o < 0x28 then
      let sel := s.reg .fuse 8
      listMask (s.fuseSet (sel / 16 % 8) (sel % 8)) / 2 ^ (8 * (o - 0x10)) % 2 ^ 32
    else 0

def State.viewKat (s : State) (o : Nat) : Nat :=
  match o with
  | 0x00 => word [(31, s.boot.katDone.toNat), (0, listMask ((List.range 8).filter fun d => (s.die d).failed))]
  | 0x24 => word [(8, s.boot.hub1.kat.toNat), (0, s.boot.hub0.kat.toNat)]
  | _ =>
    let d := (o - 4) / 4
    let first := s.boot.katFirst.get d (0, 0)
    word [(16, (s.die d).testBad.length), (8, first.2), (0, first.1)]

def State.viewMap (s : State) (o : Nat) : Nat :=
  match o with
  | 0x04 =>
    let c := s.reg .map 0
    match s.physOf c with
    | some p => word [(30, (s.map.get c MapEnt.fresh).moved.toNat), (0, p)]
    | none => word [(31, 1)]
  | 0x08 => word [(31, s.mf.rebuild.toNat), (0, s.boot.gen % 2 ^ 16)]
  | _ => 0

def State.viewFlt (s : State) (o : Nat) : Nat :=
  match o with
  | 0x00 => word [(31, s.mf.areaFull.toNat), (30, s.mf.late.toNat), (0, min 255 s.mf.pending.length)]
  | 0x04 => word [(4, s.boot.hub1.cantle.toNat), (0, s.boot.hub0.cantle.toNat)]
  | _ => 0

def State.viewMf (s : State) (o : Nat) : Nat :=
  match o with
  | 0x00 => word [(31, s.primary), (16, listMask ((List.range 8).filter fun d => (s.die d).wedged)),
      (8, s.mf.tripped.toNat), (0, s.mf.lastOp)]
  | 0x04 => s.mf.lastPart
  | 0x08 => min s.mf.lastUs ones32
  | 0x0C => word [(16, min 255 s.mf.hottest), (0, 115)]
  | _ => 0

def State.viewCinch (s : State) (h o : Nat) : Nat :=
  match o with
  | 0x00 => s.cinch.capNext
  | 0x04 => s.cinch.fastNext
  | 0x08 => s.cinch.ctrlNext.toNat
  | 0x0C => word [(31, s.cinch.overdraw.toNat), (30, s.cinch.late.toNat), (29, s.cinch.fastIn.toNat),
      (28, s.cinch.spent.toNat), (21, s.cinch.overbeats), (20, (s.primary == h).toNat), (0, s.cinch.gated.length)]
  | 0x10 => word [(16, min 0xFFFF s.cinch.floor), (0, min 0xFFFF s.cinch.est)]
  | 0x14 => s.cinch.mhz
  | _ => 0

def State.viewSess (s : State) (o : Nat) : Nat :=
  match o with
  | 0x00 => word [(31, s.host.owner.isSome.toNat),
      (8, (s.host.sessions.filter fun e => e.2.scope == .package).length),
      (0, listMask ((List.range 8).filter fun p => (s.part p).session.isSome))]
  | 0x08 => word [(16, (s.host.fails.filter fun f => f.locked).length), (0, min 0xFFFF s.host.failTotal)]
  | _ => 0

def State.viewPart (s : State) (o : Nat) : Nat :=
  if o < 0x20 then (s.part (o / 4)).st.code * 2 ^ 24
  else if o = 0x40 then
    word ((List.range 8).map fun d => (4 * d, (s.partOfDie d).getD 0xF))
  else 0

def State.viewCmdt (s : State) (p o : Nat) : Nat :=
  let q := s.part p
  match o with
  | 0x14 => word [(16, q.phase.toNat), (0, q.head)]
  | 0x34 => word [(31, q.full.toNat), (30, q.stepLate.toNat), (29, q.badCfg.toNat), (0, min 1024 q.grants.length)]
  | _ => 0

def State.viewLpx (s : State) (m o : Nat) : Nat :=
  let u := s.memUnit (16 + m)
  match o with
  | 0x00 => word [(16, u.gb), (14, u.grade), (12, u.spdMax), (5, u.allPoison.toNat),
      (4, (decide (256 ≤ u.poison.length)).toNat), (3, u.leave.toNat), (2, u.insvc.toNat),
      (1, u.trained.toNat), (0, u.spdOk.toNat)]
  | 0x04 => half false u.serial.toNat
  | 0x08 => u.mfr % 2 ^ 16
  | 0x0C => word [(16, u.overTemp.toNat), (0, u.temp % 256)]
  | 0x10 => u.poison.length
  | _ => if 0x40 ≤ o ∧ o < 0x60 then u.level.get ((o - 0x40) / 4) 0 else 0

def State.viewXplan (s : State) (p o : Nat) : Nat :=
  let x := (s.part p).ex
  match o with
  | 0x00 => 2 * x.armed.toNat
  | 0x30 => word [(31, x.active.toNat), (30, x.late.toNat), (29, x.missing.toNat), (28, x.badEntry.toNat), (0, x.entry)]
  | _ =>
    if 0x40 ≤ o ∧ o < 0x60 then
      let r := x.res.get ((o - 0x40) / 4) Resv.fresh
      word [(30, r.active.toNat), (28, r.why), (8, r.level)]
    else if 0x60 ≤ o ∧ o < 0x80 then listMask x.gates / 2 ^ (8 * (o - 0x60)) % 2 ^ 32
    else 0

def State.viewDigest (s : State) (p o : Nat) : Nat :=
  let x := (s.part p).ex
  if o = 0x10 then word [(31, x.mismatch.toNat), (30, x.checkFail.toNat), (16, x.misSrc), (0, x.misEntry)] else 0

/-- The plan's entries, which are in use while it is armed (R317). -/
def Exch.entries (x : Exch) : List PlanEntry := if x.armed then x.plan else []

/-- A package without HUP entries is the root (R333). -/
def Exch.isRoot (x : Exch) : Bool := !x.entries.any fun e => e.op == 3

/-- A step is current. -/
def Exch.current (x : Exch) : Bool := x.active || x.decided

def State.viewHealth (s : State) (p o : Nat) : Nat :=
  let x := (s.part p).ex
  let w := if x.frozen then x.frozenWord else x.localWord
  match o with
  | 0x10 => half false w.toNat
  | 0x14 => half true w.toNat
  | 0x18 => half false x.finalLatched.toNat
  | 0x1C => half true x.finalLatched.toNat
  | 0x20 => word [(31, x.decided.toNat), (30, x.clean.toNat), (29, x.unsure.toNat), (28, (x.current && x.isRoot).toNat),
      (27, x.hLate.toNat), (0, x.hups.length)]
  | _ => 0

def State.viewUpd (s : State) (p o : Nat) : Nat :=
  let u := (s.part p).upd
  match o with
  | 0x00 => 2 * u.armed.toNat
  | 0x28 => word [(31, u.running.toNat), (30, u.committed.toNat), (29, u.skipped.toNat), (28, u.fault.toNat),
      (27, u.reverted.toNat), (26, u.held.toNat), (25, u.badEntry.toNat), (24, u.late.toNat), (0, u.entry)]
  | 0x2C => u.step.toNat
  | 0x30 => word [(16, u.launched), (0, u.ended)]
  | _ => 0

def State.viewDie (s : State) (d o : Nat) : Nat :=
  let serial := match s.boot.fuse with
    | some f => (f.dieSerials.getD d 0).toNat
    | none => 0
  match o with
  | 0x00 => word [(16, if s.boot.fuse.isSome then 168 - (s.factoryBad d).length else 0),
      (8, (s.dieShown d).tested), (0, d)]
  | 0x08 => half false serial
  | 0x0C => half true serial
  | _ => 0

def State.viewMapDie (s : State) (d : Nat) : Nat :=
  word [(24, (s.badSet d).length), (16, (s.fieldBad d).length), (8, (s.die d).testBad.length),
    (0, (s.factoryBad d).length)]

def State.viewFab (s : State) (d o : Nat) : Nat :=
  match o with
  | 0x04 => word [(16, (s.die d).reloading.toNat), (0, (s.die d).shadowGen % 2 ^ 16)]
  | 0x08 => ((s.die d).atoms.map (·.2)).sum
  | _ => 0

def State.viewAmap (s : State) (d o : Nat) : Nat :=
  match s.partOfDie d with
  | none => if o = 0x18 then (s.die d).ways else 0
  | some p =>
    let q := s.part p
    match o with
    | 0x00 => half false q.hbmSize
    | 0x04 => half true q.hbmSize
    | 0x08 => half false q.lpxSize
    | 0x0C => half true q.lpxSize
    | 0x10 => word [(24, listMask (s.diesOf p)), (16, q.hbmSet.length), (8, q.lpxSet.length)]
    | 0x18 => (s.die d).ways
    | _ => 0

def State.viewHbm (s : State) (m o : Nat) : Nat :=
  let u := s.memUnit m
  match o with
  | 0x00 => word [(4, u.hot.toNat), (3, u.leave.toNat), (2, u.retrain.toNat), (1, u.insvc.toNat), (0, u.trained.toNat)]
  | 0x04 => u.pcRet.toNat
  | 0x08 => word [(16, min 255 u.hppr), (0, u.remap.length)]
  | 0x10 => u.temp % 256
  | 0x18 => half false u.serial.toNat
  | 0x1C => half true u.serial.toNat
  | _ => if 0x40 ≤ o ∧ o < 0xC0 then u.level.get ((o - 0x40) / 4) 0 else 0

/-- Stacks of a die that hold its seam store (R240). -/
def State.seamStacks (s : State) (d : Nat) : List Nat :=
  [2 * d, 2 * d + 1].filter fun m => (s.memUnit m).insvc

def State.viewSeamDie (s : State) (d o : Nat) : Nat :=
  match o with
  | 0x00 => word [(16, listMask ((s.seamStacks d).map (· % 2))), (0, 4)]
  | 0x08 => 0x8000_0000
  | 0x0C => 0x1F
  | _ => 0

def State.viewFltDie (s : State) (d o : Nat) : Nat :=
  if o = 0 then word [(31, (s.die d).failedService.toNat), (30, (s.die d).wedged.toNat), (0, s.sparedAt d)]
  else
    let n := (o - 0x100) / 4
    let p := (s.die d).phys.get n PhysSt.fresh
    word [(31, (p.retired || (s.badSet d).contains n).toNat), (30, ((s.die d).spares.contains n).toNat), (0, p.level)]

/-! ### Per-core sub-blocks -/

def BState.code : BState → Nat
  | .admitted => 0
  | .running => 1
  | .committing => 2
  | .stopping => 3

def State.viewCore (s : State) (c o : Nat) : Nat :=
  let k := s.core c
  let sum (f : Block → Nat) : Nat := (k.blocks.map fun e => f e.2).sum
  match o with
  | 0x00 => word [(16, sum fun b => b.granules.length), (8, k.groups.length), (0, k.blocks.length)]
  | 0x04 => sum fun b => b.pageTab.length
  | _ =>
    if 0x40 ≤ o ∧ o < 0xC0 then
      match k.blocks.find ((o - 0x40) / 8) with
      | none => 0
      | some b =>
        if o % 8 = 0 then b.desc.grant.toNat
        else word [(31, 1), (28, b.st.code), (24, b.desc.crank), (20, b.desc.csize - 1), (15, b.desc.groups - 1),
          (0, b.pageTab.length)]
    else 0

def State.viewGrp (s : State) (c o : Nat) : Nat :=
  match s.group c (o / 8) with
  | none => 0
  | some g =>
    if o % 8 = 0 then
      let st := s.groupStatus c (o / 8) g
      word [(31, 1), (28, st.1), (24, g.bslot), (19, g.gidx), (15, st.2), (0, g.paths.length)]
    else listMask ((List.range 32).filter fun t => (g.thread t).exited)

def State.viewMmx (s : State) (c o : Nat) : Nat :=
  if o = 0 then
    let k := s.core c
    let set (i : Nat) : Nat := match (k.sets.get i AccSet.fresh).holder with
      | some g => 32 + g
      | none => 0
    word [(25, k.staged.isSome.toNat), (24, (!k.drains.isEmpty).toNat), (8, set 1), (0, set 0)]
  else 0

def State.viewBob (s : State) (c o : Nat) : Nat :=
  if o = 0 then
    let k := s.core c
    word [(31, k.ptHolder.isSome.toNat), (27, k.ptHolder.getD 0), (20, min 4 k.bob.length), (0, k.ptKeys.length)]
  else 0

def State.viewSeam (s : State) (c o : Nat) : Nat :=
  let k := s.core c
  if o = 0x04 then
    word [(31, (k.blocks.any fun e => e.2.phase != .run).toNat), (30, (k.blocks.any fun e => !e.2.log.isEmpty).toNat),
      (16, k.allowance), (0, k.linesUsed)]
  else if 0x40 ≤ o ∧ o < 0x80 then
    match k.blocks.find ((o - 0x40) / 4) with
    | some b => word [(31, 1), (20, b.attempt), (0, b.stagedLines)]
    | none => 0
  else if 0x80 ≤ o ∧ o < 0x100 then
    match k.blocks.find ((o - 0x80) / 8) with
    | some b => half (o % 8 == 4) b.stamp.toNat
    | none => 0
  else 0

/-- A core holds an exchange reservation. -/
def State.reservedCore (s : State) (c : Nat) : Bool :=
  (List.range 8).any fun p =>
    let x := (s.part p).ex
    x.armed && (x.res.get (dieOfCore c) Resv.fresh).active &&
      s.reg (.xplan p) (0x40 + 4 * dieOfCore c) % 256 == c % 160

def State.viewCoreSub (s : State) (c sub o : Nat) : Nat :=
  match sub with
  | 0 => s.viewCore c o
  | 1 => s.viewGrp c o
  | 2 => s.viewMmx c o
  | 4 => s.viewBob c o
  | 8 => s.viewSeam c o
  | 10 => match s.physOf c with
    | some p =>
      let q := (s.die (dieOfCore c)).phys.get p PhysSt.fresh
      word [(28, q.cls), (16, p), (0, q.level)]
    | none => 0
  | 11 => if o = 8 then word [(31, (s.cinch.gated.contains c).toNat), (30, (s.reservedCore c).toNat)] else 0
  | _ => 0

/-- The links that carry no peer (R294). -/
def freeLinks : List Nat := [0, 23, 26, 29]

def State.viewTl (s : State) (l o : Nat) : Nat :=
  let k := s.link l
  match o with
  | 0x04 => word [(28, if freeLinks.contains l then 9 else k.st.code), (24, k.lanes.toNat), (23, k.miswired.toNat), (22, k.saved.toNat), (14, k.peerLink),
      (0, k.peerPkg)]
  | 0x08 => word [(24, k.dist), (0, k.delayT % 2 ^ 24)]
  | 0x0C => word [(16, k.nextTx.toNat), (0, k.nextRx.toNat)]
  | 0x20 => modWord k.module (s.cageBudget l) k.appSel
  | _ =>
    if 0x10 ≤ o ∧ o < 0x20 then k.level.get ((o - 0x10) / 4) 0
    else if 0x30 ≤ o ∧ o < 0x40 then
      match k.module with
      | some m => bits m.serial (8 * (o - 0x30) + 31) (8 * (o - 0x30))
      | none => 0
    else 0

/-- The read-only fields of a word. -/
def State.view (s : State) (b : Blk) (o : Nat) : Nat :=
  match b with
  | .pkg => s.viewPkg o
  | .time => s.viewTime o
  | .cnt | .dCnt _ | .dRsv _ => 0
  | .evlog _ => s.viewEvlog o
  | .boot => s.viewBoot o
  | .fuse => s.viewFuse o
  | .kat => s.viewKat o
  | .map => s.viewMap o
  | .flt => s.viewFlt o
  | .mf => s.viewMf o
  | .cinch h => s.viewCinch h o
  | .nrg => if o = 0x10 then s.cinch.scale else if o = 0x14 then word [(31, s.cinch.notel.toNat), (0, min 0xFFFF s.cinch.boardW)] else 0
  | .eth _ => 0
  | .sess => s.viewSess o
  | .part => s.viewPart o
  | .cmdt p => s.viewCmdt p o
  | .lpx m => s.viewLpx m o
  | .xplan p => s.viewXplan p o
  | .digest p => s.viewDigest p o
  | .health p => s.viewHealth p o
  | .upd p => s.viewUpd p o
  | .pgrp p => if o % 0x40 = 0x2C then ((s.part p).upd.tsat.contains (o / 0x40)).toNat else 0
  | .dPkg d => s.viewDie d o
  | .dMap d => s.viewMapDie d
  | .dFab d => s.viewFab d o
  | .dAmap d => s.viewAmap d o
  | .dHbm m => s.viewHbm m o
  | .dSeam d => s.viewSeamDie d o
  | .dNrg d => if o = 0x10 then (s.cinch.gated.filter fun c => dieOfCore c == d).length else 0
  | .dFlt d => s.viewFltDie d o
  | .core c sub => s.viewCoreSub c sub o
  | .tl l => s.viewTl l o

/-- What a read of a word shows: its stored fields and its read-only fields. Reserved words and the blocks
of vacant logical cores read zero (R18, R19). -/
def State.readWord (s : State) (a : Nat) : Word :=
  match locate a with
  | none => 0
  | some (b, o) => match (blkRegs b).lookup o with
    | none => 0
    | some r =>
      let vacant := match b with
        | .core c _ => (s.physOf c).isNone
        | _ => false
      if vacant then 0
      else (s.regWord a &&& BitVec.ofNat 32 r.keep) ||| BitVec.ofNat 32 (s.view b o)

end Sys2Proof.Machine
end

