-- ==== Sys2Proof/Machine/MgmtRead.lean ====
section
/-! DEFINITION. Reads of the management register space: reach (R21), the read latch of 64-bit registers (R19)
and the records of R465. -/

namespace Sys2Proof.Machine

/-- Privileged software is one access path (notes/assumptions/8); each session is its own. -/
def pathKey : Path → Path
  | .priv _ => .priv 0
  | p => p

def State.latch (s : State) (p : Path) : Latch :=
  (s.latches.find? fun l => l.path == (pathKey p)).getD ⟨pathKey p, none, none⟩

def State.setLatch (s : State) (l : Latch) : State :=
  let rest := s.latches.filter fun k => k.path != l.path
  { s with latches := if l.rd.isNone && l.wr.isNone then rest else rest ++ [l] }

/-- An access drops what its path's latches hold (R19, R20). -/
def State.dropLatch (s : State) (p : Path) : State := s.setLatch ⟨pathKey p, none, none⟩

/-- The scope of a session. -/
def State.scopeOf (s : State) (n : Nat) : Option Scope := (s.host.sessions.find n).map (·.scope)

/-- The access comes from a session of package scope. -/
def State.isPackage (s : State) : Path → Bool
  | .session n => s.scopeOf n == some .package
  | .priv _ => false

/-- The partition-bound session's partition, if the path is one. -/
def State.boundTo (s : State) : Path → Option Nat
  | .session n => match s.scopeOf n with
    | some (.partition p) => some p
    | _ => none
  | .priv _ => none

/-- A partition-bound session of `p` reaches offset `o` of a block (R21, R447): what of it a write may change is
left to the writer. -/
def State.reaches (s : State) (p : Nat) (o : Nat) : Blk → Bool
  | .pkg => true
  | .nrg => 0x100 + 0x40 * p ≤ o && o < 0x140 + 0x40 * p
  | .cmdt q | .xplan q | .digest q | .health q | .upd q | .pgrp q => q == p
  | .dPkg d | .dMap d | .dFab d | .dAmap d | .dSeam d | .dCnt d | .dNrg d | .dFlt d | .dRsv d => (s.diesOf p).contains d
  | .dHbm m => (s.diesOf p).contains (m / 2)
  | .core c _ => (s.diesOf p).contains (dieOfCore c)
  | .tl l => (s.diesOf p).contains (dieOfLink l)
  | _ => false

/-- An access outside a partition-bound session's reach. -/
def State.outOfReach (s : State) (path : Path) (a : Nat) : Bool :=
  match s.boundTo path with
  | none => false
  | some p => match locate a with
    | some (b, o) => !s.reaches p o b
    | none => true

/-- A session message arrives: the session is open, and its idle time starts again (R365). A claim session accepts
nothing but OWNER first (R369), and a tenant session on an ERASED partition only some messages (R371). -/
def State.message (s : State) (n : Nat) (erasedOk : Bool) (k : Session → State → Res) : Res :=
  needSome s (s.host.sessions.find n) /- the session is not open -/ fun x =>
  let s := s.updHost fun h => { h with sessions := h.sessions.modify n fun q => { q with lastPkt := s.time.tsc } }
  let erased := match x.scope with
    | .partition p => (s.part p).st == .erased
    | .package => false
  if x.claim || (erased && !erasedOk) then .next (s.emit (.refused n)) else k x s

/-- An access on a path: a session's message, or an access of privileged software. -/
def State.access (s : State) (path : Path) (erasedOk : Bool) (k : State → Res) : Res :=
  match path with
  | .session n => s.message n erasedOk fun _ s => k s
  | .priv c => needUnit "logical core" c 1280 (k s)

/-- Blocks that the hubs serve from cantle-core SRAM, whose reads are must-finish operation 1, and the event logs,
whose reads are operation 2 (R22, R408, R431, R447, R472). -/
def mfServed : Blk → Bool
  | .pkg | .dPkg _ | .boot | .fuse | .kat | .map | .dMap _ | .flt | .dFlt _ | .mf | .cinch _ | .nrg | .evlog _ => true
  | _ => false

/-- Counts a must-finish operation (R472). -/
def State.mfCount (s : State) : State := s.count .mf 0x10 1

/-- The hub that serves an address: each hub the blocks of the dies of its own side, with their cores, links, stacks and
module slots, its own log and controller, and the ports whose pins it has (R8, R9); a block of the package as a whole is
served by the primary hub, which the spec leaves open (notes/assumptions/141), as is what a hub out of service served. -/
def State.servingHub (s : State) (a : Nat) : Nat :=
  let want := match locate a with
    | some (.dPkg d, _) | some (.dMap d, _) | some (.dFab d, _) | some (.dAmap d, _) | some (.dSeam d, _)
    | some (.dCnt d, _) | some (.dNrg d, _) | some (.dFlt d, _) | some (.dRsv d, _) => hubOfDie d
    | some (.dHbm m, _) => hubOfDie (m / 2)
    | some (.core c _, _) => hubOfDie (dieOfCore c)
    | some (.tl l, _) => hubOfDie (dieOfLink l)
    | some (.evlog h, _) | some (.cinch h, _) => h
    | some (.eth port, _) => if port = 2 ∨ port = 3 then 1 else 0
    | some (.lpx m, _) => hubOfDie m
    | _ => s.primary
  if s.hubOk want then want else s.primary

/-- Records a management event of R465. -/
def State.mgmtRecord (s : State) (code : Nat) (path : Path) (a v : Nat) (write : Bool) (why : Nat) : State :=
  let who := match path with
    | .session n => n
    | .priv c => s.source c
  let priv := match path with
    | .session _ => 0
    | .priv _ => 1
  s.record (unitSeq (s.servingHub a)) code 0 0xF
    [(0, a), (32, if write then v else 0), (64, write.toNat), (65, priv), (66, who), (98, why)]

/-- A 32-bit aligned read on a path: the value and the state after it (R19, R21). -/
def State.mgmtRead (s : State) (path : Path) (a : Nat) : Word × State :=
  if s.outOfReach path a then (0, (s.dropLatch path).mgmtRecord 0x0103 path a 0 false 0)
  else
    let l := s.latch path
    let v := match l.rd with
      | some (h, w) => if h = a then w else s.readWord a
      | none => s.readWord a
    match regAt a with
    | some r =>
      if r.half = 1 then (s.readWord a, (s.dropLatch path).setLatch ⟨pathKey path, some (a + 4, s.readWord (a + 4)), none⟩)
      else (v, s.dropLatch path)
    | none => (0, s.dropLatch path)

/-- A decision on the core that carries a per-core block falls due at this boundary and is not made: an access of this beat
comes after it, and reaches the core that the map then names (R18, R415). -/
def State.moveDue (s : State) (a : Nat) : Bool :=
  match locate a with
  | some (.core c _, _) => s.time.tsc.toNat % 2048 == 0 && decide (s.mf.decideBeat < s.beatNo) &&
      match s.physOf c with
      | some p => s.mf.pending.any fun (e : Due) => decide (e.tsc.toNat / 2048 < s.beatNo) && match e.what with
          | .core d q _ => d == dieOfCore c && q == p
          | _ => false
      | none => false
  | _ => false

/-- The state after a read: a session's read in its reach of a block that the hubs serve themselves counts as a must-finish
operation (R472). -/
def State.readServed (s t : State) (path : Path) (a : Nat) : State :=
  match path with
  | .session _ => if !s.outOfReach path a && (locate a).any fun b => mfServed b.1 then t.mfCount else t
  | .priv _ => t

/-- LOW_WORD_READ: a read of the low word of a 64-bit register latches its high word (R19). -/
def execLowWordRead (path : Path) (addr : Nat) (s : State) : Res :=
  need s ((regAt addr).any fun r => r.half == 1) /- the address is not the low word of a 64-bit register -/ <|
  need s (!s.moveDue addr) /- the decision on the core comes first -/ <|
  s.access path true fun s =>
    let r := s.mgmtRead path addr
    .next ((s.readServed r.2 path addr).emit (.value path addr r.1))

/-- REGREAD: a session reads a management register (R19, R367); a read of a block that the hubs serve themselves
is a must-finish operation (R472). -/
def execRegread (sess addr width : Nat) (s : State) : Res :=
  need s (!s.moveDue addr) /- the decision on the core comes first -/ <|
  s.message sess true fun _ s =>
  let path := Path.session sess
  if width ≠ 4 ∨ addr % 4 ≠ 0 then
    .next (((s.dropLatch path).mgmtRecord 0x0101 path addr 0 false 0).emit (.refused sess))
  else
    let r := s.mgmtRead path addr
    .next ((s.readServed r.2 path addr).emit (.value path addr r.1))

end Sys2Proof.Machine
end

