-- ==== Sys2Proof/Machine/MemInstr.lean ====
section
/-! DEFINITION. Memory instructions (R83, R84, R468): ld, st, ld.acq, st.rel, ld.s, prefetch and atom, with
their scopes (R219, R222, R225) and checks (R231). -/

namespace Sys2Proof.Machine

namespace Iss

/-- The faults of an instruction's threads, and the address of one (R231). -/
def memChecks (x : Iss) (s : State) (k : AccKind) (ts : List Nat) : Option (Nat × Nat × Nat) :=
  firstFault (ts.map fun t =>
    (t, if x.isSpad then x.blk.checkSpad x.bytes (x.spadOff t) else s.checkAccess x.blk k x.bytes (x.addr t)))

/-- A memory instruction's program fault. -/
def memFault (x : Iss) (s : State) (f : Nat × Nat × Nat) : State :=
  s.memFault x.core x.bslot x.grp.gidx f.1 f.2.1 f.2.2 x.opc 0 (x.addr f.1)

/-- A drain of the group has not entered the store path: the MEM pipe takes no memory instruction (R220). -/
def drainHeld (x : Iss) (s : State) : Bool :=
  let k := s.core x.core
  let out (d : DrainDest) : Bool := match d with
    | .regs _ => false
    | _ => true
  k.drains.any fun d => d.grp == x.gslot && out d.dest

/-- A scratchpad access of the group waits: bobbin work (R174), and for a write also the tile sequencer's reads (R132). -/
def spadHeld (x : Iss) (s : State) (write : Bool) : Bool :=
  let k := s.core x.core
  (k.bob.any fun j => j.grp == x.gslot) ||
  (write && k.tileReads x.gslot)

end Iss

/-! ### Loads -/

/-- What the threads of a load read of global memory. -/
def Iss.globalReads (x : Iss) (s : State) (ts : List Nat) : List (DWord × NiDest) :=
  ts.filterMap fun t =>
    let a := s.normal (x.addr t)
    match s.classify a with
    | .mgmt _ => none
    | _ => some (a, ⟨t, x.data, false, lineOff a, x.bytes, 0⟩)

/-- A load of the management window waits for the decision on the core whose register it reads (R18). -/
def Iss.mgmtMoves (x : Iss) (s : State) : Bool :=
  !x.isSpad && x.acting.any fun t => match s.classify (x.addr t) with
    | .mgmt m => s.moveDue m
    | _ => false

/-- Loads of the management window, made when they issue, on the privileged path (R211). -/
def Iss.mgmtLoads (x : Iss) (s : State) (g : Group) (ts : List Nat) : State × Group :=
  ts.foldl (fun r t => match r.1.classify (x.addr t) with
    | .mgmt m =>
      let v := r.1.mgmtRead (.priv x.core) m
      (v.2, r.2.setReg t x.data v.1)
    | _ => r) (s, g)

/-- Loads of the block's scratchpad. -/
def Iss.spadLoads (x : Iss) (g : Group) (ts : List Nat) : Group :=
  ts.foldl (fun g t => g.landValue ⟨t, x.data, false, 0, x.bytes, 0⟩ (spadRead x.blk.spad (x.spadOff t) x.bytes)) g

/-- The group of an acquire holds until its lines have returned; the acquire mark is then set (R222). -/
def State.acquireHold (s : State) (x : Iss) (scope : Nat) : State :=
  if (s.core x.core).ni.any fun e => e.2.grp == x.gslot && !e.2.dead && e.2.kind == .load then
    s.updGroup x.core x.gslot fun g => { g with hold := .acq scope }
  else if 2 ≤ scope then s.acquire x.core x.bslot else s

/-- ld and ld.acq: `acq` bypasses the read cache for device and system scope (R212, R222). -/
def Iss.load (x : Iss) (s : State) (acq : Bool) : Res :=
  let ts := x.acting
  if x.drainHeld s || (x.isSpad && x.spadHeld s false) || x.mgmtMoves s then .next s
  else match x.memChecks s (if acq then .other else .plain) ts with
    | some f => .next (x.memFault s f)
    | none =>
      let fin (s : State) : State := if acq && !ts.isEmpty then s.acquireHold x x.scope else s
      if x.isSpad then .next (fin (x.commit s (x.spadLoads x.grp ts)))
      else
        let r := x.mgmtLoads s x.grp ts
        match r.1.issueReads x.core x.bslot x.gslot r.2 .load (!acq) x.opc (byLine (x.globalReads s ts)) with
        | none => .next s
        | some q => .next (fin (x.commit q.1 q.2))


/-- ld (R84, R219). -/
def execLd (i : Issue) (s : State) : Res := issueRow (loadShape 0 false) i s fun x s => x.load s false
/-- ld.acq (R84, R222). -/
def execLdAcq (i : Issue) (s : State) : Res := issueRow (loadShape 2 true) i s fun x s => x.load s true

/-- ld.s: a per-issue load of an s register (R72, R84). -/
def execLdS (i : Issue) (s : State) : Res :=
  issueRow shLdS i s fun x s =>
    if x.drainHeld s then .next s
    else if !x.acts then .next (x.commit s x.grp)
    else match x.memChecks s .other [0] with
      | some f => .next (x.memFault s f)
      | none =>
        let a := s.normal (x.addr 0)
        match s.issueReads x.core x.bslot x.gslot x.grp .load true x.opc
            [⟨lineOf a, [⟨0, x.f 43 38, true, lineOff a, 8, 0⟩]⟩] with
        | none => .next s
        | some q => .next (x.commit q.1 q.2)

/-- prefetch: fills the read cache, writes nothing, and does nothing at an address that would fault (R231). -/
def execPrefetch (i : Issue) (s : State) : Res :=
  issueRow shPrefetch i s fun x s =>
    if x.drainHeld s then .next s
    else
      let lines := ((x.acting.filter fun t => (s.checkAccess x.blk .other 1 (x.addr t)).isNone).map fun t =>
        lineOf (s.normal (x.addr t))).eraseDups
      let want := lines.filter fun l => s.isLocal l && s.rcOn x.core && ((s.core x.core).rcHit x.blk.acq l).isNone
      match s.issueReads x.core x.bslot x.gslot x.grp .fill true x.opc
          (want.map fun l => ⟨l, [⟨0, 0, false, 0, 64, 0⟩]⟩) with
      | none => .next s
      | some q => .next (x.commit q.1 x.grp)

/-! ### Stores -/

/-- Bytes that a thread's store writes. -/
def Iss.storeBytes (x : Iss) (t : Nat) : List Byte :=
  natLe x.bytes (leNat ((List.range x.dataSpan).flatMap fun i => natLe 4 (x.grp.reg t (x.data + i)).toNat))

/-- The writes of a store, in ascending order of its threads (R219). -/
def Iss.storeWrites (x : Iss) (s : State) (ts : List Nat) : List Write :=
  ts.map fun t =>
    if x.isSpad then .spad (x.spadOff t) (x.storeBytes t)
    else match s.classify (x.addr t) with
      | .mgmt m => .mgmt m (x.grp.reg t x.data)
      | _ => .glob (s.normal (x.addr t)) (x.storeBytes t)

/-- st, and the store of a st.rel once its fence has completed. -/
def Iss.store (x : Iss) (s : State) (rel : Nat) : Option State :=
  (s.stage x.core x.bslot rel (x.storeWrites s x.acting)).map fun s => x.commit s x.grp

/-- st (R84, R217, R219). -/
def execSt (i : Issue) (s : State) : Res :=
  issueRow (storeShape 1 false) i s fun x s =>
    if x.drainHeld s || (x.isSpad && x.spadHeld s true) then .next s
    else match x.memChecks s .plain x.acting with
      | some f => .next (x.memFault s f)
      | none => .next ((x.store s 0).getD s)

/-- The bytes of a scratchpad release store, which wait for its fence. -/
def Iss.relBytes (x : Iss) : List (Nat × Byte) :=
  x.acting.flatMap fun t => (List.range x.bytes).map fun i => (x.spadOff t + i, (x.storeBytes t).getD i 0)

/-- st.rel: a fence of its scope, then its store (R222). -/
def execStRel (i : Issue) (s : State) : Res :=
  issueRow (storeShape 3 true) i s fun x s =>
    if x.drainHeld s || s.groupBusy x.core x.gslot || (x.isSpad && x.spadHeld s true) then .next s
    else match x.memChecks s .other x.acting with
      | some f => .next (x.memFault s f)
      | none =>
        if x.acting.isEmpty then .next (x.commit s x.grp)
        else if x.scope ≤ 1 then .next ((x.store s 0).getD s)
        else if x.isSpad then
          .next ((x.commit s x.grp).fenceWait x.core x.gslot x.bslot (.relSpad x.scope none x.relBytes) x.scope)
        else match x.store s x.scope with
          | none => .next s
          | some s => .next (s.fenceWait x.core x.gslot x.bslot (.fence x.scope none) x.scope)

/-! ### Atomics (R225, R83) -/

/-- The value that an atomic leaves, of 4 or 8 bytes. -/
def atomResult (aop size : Nat) (old op cmp : DWord) : DWord :=
  let w := if size = 2 then 32 else 64
  let o := old.toNat % 2 ^ w
  let v := op.toNat % 2 ^ w
  BitVec.ofNat 64 (match aop with
    | 0 => (o + v) % 2 ^ w
    | 1 => (fp32.result (FVal.add (fp32.decode o) (fp32.decode v)).1).1
    | 2 => if toSigned w v < toSigned w o then v else o
    | 3 => if toSigned w o < toSigned w v then v else o
    | 4 => Nat.land o v
    | 5 => Nat.lor o v
    | 6 => Nat.xor o v
    | 7 => v
    | _ => if o = cmp.toNat % 2 ^ w then v else o)

/-- A register pair or register of a thread as an operand. -/
def Group.operand (g : Group) (t r size : Nat) : DWord :=
  BitVec.ofNat 64 ((g.reg t r).toNat + (if size = 3 then 2 ^ 32 * (g.reg t (r + 1)).toNat else 0))

/-- Operand and comparand of a thread's atomic: compare and swap holds its comparand in the first half (R468). -/
def Group.atomArgs (g : Group) (t r aop size : Nat) : DWord × DWord :=
  if aop = 8 then (g.operand t (r + 2 ^ (size - 2)) size, g.operand t r size) else (g.operand t r size, 0)

/-- The operation of one thread on the block's view of a line: the old value lands, the result is staged. -/
def State.rmwOne (s : State) (c b gs aop size : Nat) (line : DWord) (home : Line) (d : NiDest) : State :=
  match s.block c b, s.group c gs with
  | some blk, some g =>
    let st := blk.stagedLine line
    let view := lineMerge home st.2 st.1
    let old := d.value view
    let a := g.atomArgs d.thread d.reg aop size
    let v := atomResult aop size (BitVec.ofNat 64 (leNat old)) a.1 a.2
    (s.setBlock c b (blk.stageBytes (line + BitVec.ofNat 64 d.off) 0 (natLe d.len v.toNat))).setGroup c gs
      (g.landValue d old)
  | _, _ => s

/-- The operations of one line of a group- or block-scope atom, in ascending order of threads (R219); none
while the seam buffer has no free line (R235). -/
def State.rmwLine (s : State) (c b gs aop size : Nat) (line : DWord) (home : Line) (ds : List NiDest) : Option State :=
  match s.block c b with
  | none => none
  | some blk =>
    if 8192 < (s.core c).linesUsed + blk.newLines [line] then none
    else
      let s := ds.foldl (fun s d => s.rmwOne c b gs aop size line home d) s
      some (s.updBlock c b fun k => k.checkMark (s.core c).allowance)

/-- Sends the operations of a started atom that have not left the NI, while entries are free (R245). A thread
whose old value the journal holds under this KEY receives it and sends nothing (R246). -/
def State.sendAtoms (s : State) (c b : Nat) : State :=
  match s.block c b with
  | none => s
  | some blk => match blk.atom, blk.journal with
    | some a, some j =>
      if !a.started then s
      else
        let r := bits a.w0 45 38
        let size := bits a.w0 23 21
        let aop := bits a.w0 3 0
        a.threads.foldl (fun s t =>
          match s.group c a.grp, s.block c b with
          | some g, some blk =>
            let ad := s.normal ((g.sreg (bits a.w0 29 24)) +
              (if a.w0.getLsbD 17 then 0 else (g.reg t (bits a.w0 37 30)).zeroExtend 64) + sext64 13 (bits a.w0 16 4))
            let d : NiDest := ⟨t, r, false, lineOff ad, 2 ^ size, 0⟩
            let done (s : State) : State := s.updBlock c b fun k => { k with
              atom := k.atom.map fun q => { q with threads := q.threads.filter (· != t) } }
            match j.old.find t with
            | some v => done (s.setGroup c a.grp (g.landValue d (natLe (2 ^ size) v.toNat)))
            | none =>
              let held := match s.remotePkg ad with
                | some p => s.routeHeld c p
                | none => false
              match (s.core c).niFree 1 with
              | some (n :: _) =>
                if held then s
                else
                  let v := g.atomArgs t r aop size
                  let arg : Line := BitVec.ofNat 512 (if aop = 8 then v.2.toNat + 2 ^ (8 * 2 ^ size) * v.1.toNat else v.1.toNat)
                  let e := blk.entry b a.grp (.atom aop size v.1 v.2 j.key) ad [d] 4
                  done (s.niTake c n e (3, aop, size, 0, arg))
              | _ => s
          | _, _ => s) s
    | _, _ => s

/-- The before-seam's lines are made: the journal header is written with its KEY, places of that KEY kept,
and the operations leave (R245, R246). -/
def State.startAtom (s : State) (c b : Nat) : State :=
  match s.block c b with
  | none => s
  | some blk => match blk.atom with
    | none => s
    | some a =>
      if a.started || !s.holdDone blk (bits a.w0 20 19) a.seam then s
      else
        let key := a.seam.getD 0
        let j : Journal := match blk.journal with
          | some j => if j.key = key then j else ⟨key, []⟩
          | none => ⟨key, []⟩
        (s.setBlock c b { blk with journal := some j, atom := some { a with started := true } }).sendAtoms c b


/-- atom of group or block scope: on the block's view, its results staged (R225). -/
def Iss.atomStaged (x : Iss) (s : State) : Res :=
  let reqs := byLine (x.globalReads s x.acting)
  let size := x.sizeCode
  let now (r : LineReq) : Bool := (s.lineNow x.core x.bslot false r).isSome
  if 8192 < (s.core x.core).linesUsed + x.blk.newLines (reqs.map (·.line)) then .next s
  else match s.issueReads x.core x.bslot x.gslot x.grp (.rmw x.aop size) false x.opc (reqs.filter fun r => !now r) with
    | none => .next s
    | some q =>
      let s := x.commit q.1 x.grp
      let s := (reqs.filter now).foldl (fun s r =>
        (s.rmwLine x.core x.bslot x.gslot x.aop size r.line 0 r.dests).getD s) s
      .next (if reqs.all now then s else s.updGroup x.core x.gslot fun g => { g with hold := .acq 0 })

/-- atom (R84, R225, R245). -/
def execAtom (i : Issue) (s : State) : Res :=
  issueRow shAtom i s fun x s =>
    if x.drainHeld s then .next s
    else match x.memChecks s .atom x.acting with
      | some f => .next (x.memFault s f)
      | none =>
        if x.acting.isEmpty then .next (x.commit s x.grp)
        else if x.scope ≤ 1 then x.atomStaged s
        else if s.groupBusy x.core x.gslot || x.blk.atom.isSome then .next s
        else
          .next ((s.updGroup x.core x.gslot fun g => { g with hold := .atomic }).updBlock x.core x.bslot fun b =>
            { b with atom := some ⟨x.gslot, x.w0, x.pc, x.path, x.acting, none, false, false⟩ }.trigger .atomBefore)

end Sys2Proof.Machine
end

