-- ==== Sys2Proof/Machine/Dma.lean ====
section
/-! DEFINITION. DMA instructions (R85), their checks over every row (R206, R207, R231), and the DMA engine
(R220, R224, R227). -/

namespace Sys2Proof.Machine

/-! ### Clusters (R44) -/

/-- The members of a block's cluster, by rank: logical core and block slot. -/
def State.mates (s : State) (c b : Nat) : List (Nat × Nat) :=
  match s.block c b with
  | none => []
  | some k =>
    if k.desc.csize ≤ 1 then [(c, b)]
    else
      let all := s.cores.flatMap fun e =>
        if dieOfCore e.1 = dieOfCore c then e.2.blocks.filterMap fun q =>
          if q.2.desc.part = k.desc.part ∧ q.2.desc.uid = k.desc.uid ∧ q.2.desc.lin / k.desc.csize = k.desc.lin / k.desc.csize then
            some (q.2.desc.crank, e.1, q.1)
          else none
        else []
      (List.range k.desc.csize).filterMap fun r => (all.find? fun m => m.1 == r).map fun m => m.2

/-- The cluster peer of a rank. -/
def State.peerOf (s : State) (c b r : Nat) : Option (Nat × Nat) :=
  (s.mates c b).find? fun m => match s.block m.1 m.2 with
    | some k => k.desc.crank == r
    | none => false

/-! ### Descriptors -/

/-- Check of one row's range at one end (R206, R207, R231): check number and reason. -/
def State.dmaRow (s : State) (b : Block) (dst remote : Bool) (a : DWord) (n : Nat) : Option (Nat × Nat) :=
  let p := s.part b.part
  let spad (o : Nat) : Option (Nat × Nat) := if b.spadSize < o + n then some (3, 3) else none
  let out : Bool := dst && remote
  match s.classify a with
  | .cluster r o =>
    if dst && remote && r < b.desc.csize && r != b.desc.crank then spad o else some (0, 2)
  | .perCore c o => if out then some (0, 2) else if c ≠ b.desc.home then some (0, 3) else spad o
  | .mgmt _ => if out then some (0, 2) else some (0, 1)
  | .remote pkg x =>
    if out then some (0, 2)
    else match classLocal x with
      | .hbm y => match p.peer pkg with
        | none => some (1, 0)
        | some e => if e.hbm < y + n then some (3, 0) else none
      | .lpx y => match p.peer pkg with
        | none => some (1, 0)
        | some e => if e.lpx < y + n then some (3, 1) else none
      | _ => some (0, 4)
  | .hbm x => if out then some (0, 2) else if p.hbmSize < x + n then some (3, 0) else none
  | .lpx x => if out then some (0, 2) else if p.lpxSize < x + n then some (3, 1) else none
  | .window w o =>
    if out then some (0, 2) else match p.windows.find w with
      | none => some (3, 2)
      | some v => if (s.host.qps.find v.qpn).isNone || v.len < o + n then some (3, 2) else none
  | .reserved => if out then some (0, 2) else some (3, 4)

/-- Addresses of an instruction's rows at one end. -/
def rowsAt (a : DWord) (rows stride : Nat) : List DWord :=
  (List.range rows).map fun r => a + BitVec.ofNat 64 (r * stride * 64)

/-- The first check that a DMA instruction fails, with its reason and the address (R231). -/
def Iss.dmaChecks (x : Iss) (s : State) (fill : Bool) : Option (Nat × Nat × DWord) :=
  let src := x.grp.sreg x.dSrc
  let dst := x.grp.sreg x.dDst
  let ends : List (DWord × Option (Nat × Nat)) :=
    (if fill then [] else (rowsAt src x.dRows (x.ext 49 40)).map fun a => (a, s.dmaRow x.blk false x.dRemote a x.dRow)) ++
    (rowsAt dst x.dRows (x.ext 59 50)).map fun a => (a, s.dmaRow x.blk true x.dRemote a x.dRow)
  let align : List (DWord × Option (Nat × Nat)) :=
    [(src, if !fill && src.toNat % 8 != 0 then some (2, 0) else none),
     (dst, if dst.toNat % 8 != 0 || (fill && x.dRow % 8 != 0) then some (2, 0) else none)]
  let all := align ++ ends
  (List.range 4).findSome? fun chk => all.findSome? fun e => match e.2 with
    | some (k, why) => if k = chk then some (k, why, e.1) else none
    | none => none

/-- The instruction's destination is the block's own scratchpad. -/
def Iss.dmaToSpad (x : Iss) (s : State) : Bool :=
  match s.classify (x.grp.sreg x.dDst) with
  | .perCore _ _ => true
  | _ => false

/-- Queues a descriptor (R85); the group waits while 64 are outstanding. -/
def Iss.queueDma (x : Iss) (s : State) (fill : Bool) : Res :=
  if !x.acts then .next (x.commit s x.grp)
  else match x.dmaChecks s fill with
    | some f => .next (s.memFault x.core x.bslot x.grp.gidx 0 f.1 f.2.1 x.opc 1 f.2.2)
    | none =>
      let k := s.core x.core
      match k.dma.free 64 with
      | none => .next s
      | some d =>
        if x.dmaToSpad s && x.spadHeld s true then .next s
        else
          let e : Dma := ⟨x.bslot, k.nextSeq, x.gslot, x.dTag, fill, x.dRemote, s.normal (x.grp.sreg x.dSrc), s.normal (x.grp.sreg x.dDst),
            x.grp.sreg x.dSrc, x.dRow, x.dRows, x.ext 49 40, x.ext 59 50, 0, 0, [], false⟩
          .next (x.commit (s.setCore x.core { k with dma := k.dma.put d e, nextSeq := k.nextSeq + 1 }) x.grp)

/-- dma.cp (R85). -/
def execDmaCp (i : Issue) (s : State) : Res := issueRow (shDma 0 false) i s fun x s => x.queueDma s false
/-- dma.fill (R85). -/
def execDmaFill (i : Issue) (s : State) : Res := issueRow (shDma 1 true) i s fun x s => x.queueDma s true

/-- Tags of a block's outstanding descriptors. -/
def Core.dmaTags (k : Core) (b : Nat) : List Nat := (k.dma.filter fun e => e.2.bslot == b).map fun e => e.2.tag

/-- What a dma.wait waits for: a tag, or any. -/
def Iss.waitTag (x : Iss) : Option Nat := if x.dAll then none else some x.dTag

/-- A block has a descriptor that a dma.wait waits for. -/
def Core.dmaOut (k : Core) (b : Nat) (tag : Option Nat) : Bool :=
  match tag with
  | none => !(k.dmaTags b).isEmpty
  | some t => (k.dmaTags b).contains t

/-- dma.wait: the group waits until no descriptor of its block with the tag, or with any, is outstanding (R85). -/
def execDmaWait (i : Issue) (s : State) : Res :=
  issueRow shDmaWait i s fun x s =>
    let s' := x.commit s x.grp
    .next (if x.acts && (s.core x.core).dmaOut x.bslot x.waitTag then
      s'.updGroup x.core x.gslot fun g => { g with hold := .dma x.waitTag } else s')

/-- dma.poll: bit t of s[DST] is 1 when no descriptor of the block with tag t is outstanding (R85). -/
def execDmaPoll (i : Issue) (s : State) : Res :=
  issueRow shDmaPoll i s fun x s =>
    let mask := listMask ((List.range 64).filter fun t => !((s.core x.core).dmaTags x.bslot).contains t)
    .next (x.commit s (if x.acts then x.grp.setSreg x.dDst (BitVec.ofNat 64 mask) else x.grp))

/-! ### The engine -/

/-- Source and destination of a descriptor's next part, which ends at the next 64-byte boundary of its
destination or at the row's end. -/
def Dma.nextPart (d : Dma) : DWord × DWord × Nat :=
  let at_ (a : DWord) (stride : Nat) : DWord := a + BitVec.ofNat 64 (d.row * stride * 64 + d.col)
  let dst := at_ d.dst d.dstr
  (at_ d.src d.sstr, dst, min (64 - lineOff dst) (d.rowLen - d.col))

/-- Progress after a part of `n` bytes. -/
def Dma.advance (d : Dma) (n : Nat) : Dma :=
  if d.col + n < d.rowLen then { d with col := d.col + n, far := [] }
  else if d.row + 1 < d.nrows then { d with row := d.row + 1, col := 0, far := [] }
  else { d with col := d.rowLen, far := [], moved := true }

/-- Ranks that a descriptor has still to write to: those of its rows from the current one on (R207). -/
def Dma.ranksLeft (d : Dma) : List Nat :=
  if d.moved then []
  else (List.range (d.nrows - d.row)).map fun i => bits (d.dst + BitVec.ofNat 64 ((d.row + i) * d.dstr * 64)) 23 20

/-- An older descriptor of the block has still to write into the cluster peer that the next part of this one writes to:
delivery is in the order of the engine's descriptors (R224, R227). -/
def Core.dmaBehind (k : Core) (d : Dma) : Bool :=
  d.remote && k.dma.any fun e => e.2.bslot == d.bslot && e.2.remote && e.2.seq < d.seq &&
    e.2.ranksLeft.contains (bits d.nextPart.2.1 23 20)

/-- A descriptor may pause: it has not begun, stands at a 64-byte boundary of its destination, has moved every part, or
waits for an earlier descriptor (R224, R237 step 2). -/
def Core.dmaPaused (k : Core) (d : Dma) : Bool :=
  d.moved || (d.row == 0 && d.col == 0) || lineOff d.nextPart.2.1 == 0 || k.dmaBehind d

/-- A part is written: to the seam buffer, to the block's scratchpad, or into a cluster peer (R209, R217). None
while the seam buffer has no free line. -/
def State.dmaPut (s : State) (c b : Nat) (a : DWord) (v : List Byte) : Option State :=
  match s.classify a with
  | .perCore _ o => s.stage c b 0 [.spad o v]
  | .cluster r o => match s.peerOf c b r with
    | some m => some (s.updBlock m.1 m.2 fun k => k.write 0 (.spad o v))
    | none => some s
  | _ => s.stage c b 0 [.glob a v]

/-- The logical core of the cluster peer that an address of the cluster window names (R207). -/
def State.peerCore (s : State) (c b : Nat) (a : DWord) : Nat := match s.classify a with
  | .cluster r _ => ((s.peerOf c b r).map (·.1)).getD c
  | _ => c

/-- DMA_TRANSFER: the engine moves the next part of a descriptor (R220). While the block is stopped for a seam a descriptor
runs on to the next 64-byte boundary of its destination, and then pauses (R237). -/
def execDmaTransfer (core : Nat) : DmaStep → State → Res
  | ⟨d, v, parityOk⟩, s =>
    needUnit "logical core" core 1280 <|
    needSome s ((s.core core).dma.find d) /- no such descriptor is outstanding -/ fun e =>
    needSome s (s.block core e.bslot) /- the descriptor has no block -/ fun blk =>
    need s (!e.moved) /- every part has been moved -/ <|
    need s (blk.st == .running && !blk.stopped && (blk.phase == .run || blk.phase == .stopped && !(s.core core).dmaPaused e))
      /- the descriptor is paused (R237) -/ <|
    need s (!(s.core core).dmaBehind e) /- an earlier descriptor to this peer comes first (R224) -/ <|
    let p := e.nextPart
    (if e.remote then s.translate (dieOfCore core) (s.peerCore core e.bslot p.2.1) parityOk else id) <|
    let n := p.2.2
    let upd (s : State) : State := s.updCore core fun k => { k with dma := k.dma.put d (e.advance n) }
    let put (s : State) (v : List Byte) : Res := .next (match s.dmaPut core e.bslot p.2.1 v with
      | some t => upd t
      | none => s)
    if e.fill then
      let pat := natLe 8 e.pattern.toNat
      put s ((List.range n).map fun i => pat.getD ((e.col + i) % 8) 0)
    else match s.classify p.1 with
      | .perCore _ o => put s (spadRead blk.spad o n)
      | _ =>
        let absent := s.viewAbsent blk e.far p.1 n
        if !absent.isEmpty then .next (s.fetchFar core e.bslot e.grp 0 (.dma d) 0 absent)
        else
          let s := s.viewCheck blk v (linesAt p.1 n)
          if s.viewPoison blk p.1 n then .next (s.memPoison core e.bslot (s.gidxOf core e.grp) 0 e.src false)
          else if !(s.viewAbsent blk e.far p.1 n).isEmpty then .next s
          else put s (s.viewBytes blk e.far p.1 n)

/-- Groups of a block whose dma.wait is satisfied go on. -/
def State.dmaWake (s : State) (c b : Nat) : State :=
  match s.block c b with
  | none => s
  | some k => k.gslots.foldl (fun s g => s.updGroup c g fun q => match q.hold with
      | .dma tag => if (s.core c).dmaOut b tag then q else { q with hold := .none }
      | _ => q) s

/-- DMA_COMPLETE: a descriptor whose every byte has been moved is no longer outstanding (R220). -/
def execDmaComplete (core d : Nat) (s : State) : Res :=
  needUnit "logical core" core 1280 <|
  needSome s ((s.core core).dma.find d) /- no such descriptor is outstanding -/ fun e =>
  need s e.moved /- the descriptor has bytes to move -/ <|
  .next ((s.updCore core fun k => { k with dma := k.dma.del d }).dmaWake core e.bslot)

end Sys2Proof.Machine
end

