-- ==== Sys2Proof/Machine/Region.lean ====
section
/-! DEFINITION. The seam store (R240 to R243): where a region lies, its slot, the entries of a record in the log ring, the
directory entry, and what becomes of the poison of its lines (R254, R266). The payloads of a region are kept as structures of
the block; of a region's lines the poison alone is kept (notes/assumptions/56). -/

namespace Sys2Proof.Machine

/-! ### Places (R240, R241) -/

/-- Stack and offset of a logical core's region. -/
def State.regionAt (s : State) (c : Nat) : Option (Nat × Nat) :=
  let i := c % 160
  match s.seamStacks (dieOfCore c) with
  | [a, b] => some (if i % 2 = 0 then a else b, 0x1F_8000_0000 + i / 2 * 0x40_0000)
  | [a] => some (a, 0x1F_8000_0000 + i * 0x40_0000)
  | _ => none

/-- Offset and length in a region of what a block's slot holds beside granules and pages: groups, sets, pricking table,
block and descriptors. -/
def Saved.slotRanges (v : Saved) (bslot : Nat) : List (Nat × Nat) :=
  v.groups.map (fun e => (0x14_0000 + 0x400 * e.1, 0x400)) ++ v.sets.map (fun e => (0x14_8000 + 0x2000 * e.1, 4160)) ++
    (if v.pricking.isSome then [(0x14_C000, 0x8000)] else []) ++ [(0x15_4000 + 0x100 * bslot, 0x100)] ++
    v.dma.map fun e => (0x15_5000 + 0x40 * e.1, 0x40)

/-- Offset and length of granules and of pages in the slot. -/
def granuleRanges (gs : List Nat) : List (Nat × Nat) := gs.map fun g => (0x400 * g, 0x400)
def pageRanges (ps : List Nat) : List (Nat × Nat) := ps.map fun p => (0x4_0000 + 0x1000 * p, 0x1000)

/-- The line of the directory entry that R242 lays out. -/
def dirRange (slot : Nat) : Nat × Nat := (0x3C_0000 + 0x100 * slot, 64)

/-- A block's journal entry. -/
def journalRange (slot : Nat) : Nat × Nat := (0x3C_1000 + 0x400 * slot, 0x400)

/-! ### The log ring (R241, R243) -/

/-- Bytes of a region's log. -/
def logSize : Nat := 0x24_0000

/-- Offset and length in a region of `n` bytes of the log from offset `o` on. -/
def logRanges (o n : Nat) : List (Nat × Nat) :=
  if o + n ≤ logSize then [(0x18_0000 + o, n)] else [(0x18_0000 + o, logSize - o), (0x18_0000, o + n - logSize)]

/-- The records whose log space is not freed: committed ones that are not applied, and ones still to commit. -/
def Core.liveLog (k : Core) : List (Nat × Nat) :=
  (k.blocks.flatMap fun e => (e.2.log.map fun r => (r.off, r.len)) ++ e.2.pend.toList).filter fun r => r.2 != 0

/-- Free log space: from the place of the next record to the oldest record that is not freed. -/
def Core.logFree (k : Core) : Nat :=
  k.liveLog.foldl (fun m r =>
    let back := (k.logHead + logSize - r.1) % logSize
    min m (logSize - if back = 0 then logSize else back)) logSize

/-- The header of an entry of a record (R241): MASK, TYPE and WHERE. -/
structure LogEntry where
  mask : DWord
  type : Nat
  wh : Nat
  deriving DecidableEq, Repr

/-- Bytes of an entry's payload by TYPE. -/
def payloadBytes : Nat → Nat
  | 0 => 64
  | 1 => 1024
  | 2 => 4096
  | 3 => 0
  | 4 => 1024
  | 5 => 4160
  | 6 => 32768
  | 7 => 256
  | _ => 64

/-- Bytes 0 to 7 and 8 to 15 of an entry's header. -/
def LogEntry.header (e : LogEntry) : DWord × DWord := (e.mask, BitVec.ofNat 64 (e.type + 64 * e.wh))

def LogEntry.bytes (e : LogEntry) : Nat := 16 + payloadBytes e.type

/-- An entry of a resource: its MASK is the payload's length. -/
def stateEntry (type index : Nat) : LogEntry := ⟨BitVec.ofNat 64 (payloadBytes type), type, index⟩

/-- The line entries of staged lines and of staged management stores (R217). -/
def lineEntries (ls : List SLine) (ms : List (Nat × Word)) : List LogEntry :=
  ls.map (fun l => ⟨l.mask, 0, l.addr.toNat / 64⟩) ++
    (ms.map fun w => w.1 / 64).eraseDups.map fun a =>
      ⟨(ms.filter fun w => w.1 / 64 == a).foldl (fun m w => m ||| spanMask (w.1 % 64) 4) 0, 0, 0x0500_0000_0000 / 64 + a⟩

/-- The entries of the state that a seam saves: granules, pages, zero pages, and the rest of R238 in full. -/
def Saved.entries (v : Saved) (bslot : Nat) (grans pages zeros : List Nat) : List LogEntry :=
  grans.map (stateEntry 1) ++ pages.map (stateEntry 2) ++ zeros.map (stateEntry 3) ++ v.groups.map (fun e => stateEntry 4 e.1) ++
    v.sets.map (fun e => stateEntry 5 e.1) ++ (if v.pricking.isSome then [stateEntry 6 0] else []) ++ [stateEntry 7 bslot] ++
    v.dma.map fun e => stateEntry 8 e.1

/-- Length of a record. -/
def recordLen (es : List LogEntry) : Nat := (es.map LogEntry.bytes).sum

/-! ### Poison of a region's lines (R254, R266) -/

/-- A line of a stack lies in one of the ranges of a region, in part or (`whole`) with all its bytes. -/
def inRanges (o : Nat) (rs : List (Nat × Nat)) (whole : Bool) (l : Nat) : Bool :=
  rs.any fun r => if whole then o + r.1 ≤ l * 64 && l * 64 + 64 ≤ o + r.1 + r.2
    else l * 64 < o + r.1 + r.2 && o + r.1 < l * 64 + 64

/-- A line in one of the ranges cannot be read: it is poisoned, or the stack's retrain has failed. -/
def State.regionPoison (s : State) (c : Nat) (rs : List (Nat × Nat)) : Bool :=
  match s.regionAt c with
  | none => false
  | some (m, o) => (s.memUnit m).retrainFailed || (s.memUnit m).poison.any (inRanges o rs false)

/-- Whole lines written in a region lose their poison (R266). -/
def State.regionWritten (s : State) (c : Nat) (rs : List (Nat × Nat)) : State :=
  match s.regionAt c with
  | none => s
  | some (m, o) => s.updMemUnit m fun u => { u with poison := u.poison.filter fun l => !inRanges o rs true l }

/-- Reads of a region's ranges, each line checked at its home with the verdict listed for its offset in the region
(R265, R266). -/
def State.regionRead (s : State) (c : Nat) (v : Verdicts) (rs : List (Nat × Nat)) : State :=
  match s.regionAt c with
  | none => s
  | some (m, o) => (v.filter fun e => rs.any fun r => r.1 ≤ e.1.toNat && e.1.toNat < r.1 + r.2).foldl
      (fun s e => (s.poolRead m (o + e.1.toNat) e.2).st) s

/-- The region's stack is in a retrain (R270). -/
def State.regionHeld (s : State) (c : Nat) : Bool :=
  match s.regionAt c with
  | none => false
  | some (m, _) => (s.memUnit m).retrain

/-! ### The directory entry (R242) -/

/-- A directory entry that describes a block (VALID = 1). -/
structure DirEntry where
  stamp : DWord
  pstamp : DWord
  logOff : Nat
  logLen : Nat
  plogOff : Nat
  plogLen : Nat
  grant : Word
  attempt : Nat
  applied : Bool
  final : Bool
  rank0 : Nat
  rank0slot : Nat
  block : DWord
  deriving DecidableEq, Repr

/-- The entry as its 64 bytes. -/
def DirEntry.bytes (d : DirEntry) : List Byte :=
  natLe 8 d.stamp.toNat ++ natLe 8 d.pstamp.toNat ++ natLe 4 d.logOff ++ natLe 4 d.logLen ++ natLe 4 d.plogOff ++
    natLe 4 d.plogLen ++ natLe 4 d.grant.toNat ++ natLe 1 d.attempt ++
    natLe 1 (1 + 2 * d.applied.toNat + 4 * d.final.toNat) ++ natLe 1 d.rank0 ++ natLe 1 d.rank0slot ++
    natLe 8 d.block.toNat ++ List.replicate 16 0

/-- The directory entry of a block slot; none where VALID = 0. Offsets in the log are in 16-byte units. -/
def State.dirEntry (s : State) (c slot : Nat) : Option DirEntry :=
  (s.block c slot).map fun b =>
    let r0 := (s.peerOf c slot 0).getD (c, slot)
    let p := if b.pstamp = 0 then (0, 0) else b.pend.getD (0, 0)
    ⟨b.stamp, b.pstamp, b.logOff / 16, b.logLen, p.1 / 16, p.2, b.desc.grant, b.attempt, b.applied, b.final, r0.1 % 160, r0.2,
      BitVec.ofNat 64 (b.desc.x + b.desc.y * 2 ^ 32 + b.desc.z * 2 ^ 48)⟩

/-- The NI writes the directory line of a slot. -/
def State.dirWritten (s : State) (c slot : Nat) : State := s.regionWritten c [dirRange slot]

/-! ### The read cache (R213) -/

/-- A commit invalidates the lines it writes in the core's read cache. -/
def Core.dropLines (k : Core) (ls : List DWord) : Core := { k with
  rc := k.rc.filter fun l => !ls.contains l.addr
  ni := k.ni.mapAll fun (e : NiEntry) => if ls.contains (lineOf e.addr) then { e with cache := none } else e }

/-! ### Clusters, and blocks that cannot be replayed -/

/-- Members of a block's cluster that have not stopped. -/
def State.liveMates (s : State) (c b : Nat) : List (Nat × Nat) :=
  (s.mates c b).filter fun m => match s.block m.1 m.2 with
    | some k => k.st != .stopping
    | none => false

/-- Every member of a list satisfies `f`. -/
def State.allBlocks (s : State) (ms : List (Nat × Nat)) (f : Nat → Nat → Block → Bool) : Bool :=
  ms.all fun m => match s.block m.1 m.2 with
    | some k => f m.1 m.2 k
    | none => false

/-- DATA of the records of R258; `n` is the physical core or the host core's local index. -/
def Block.replayFields (b : Block) (n : Nat) : List (Nat × Nat) :=
  b.faultFields 0 ++ [(96, b.attempt), (104, (b.stamp != 0).toNat), (105, n)]

/-- A block that cannot be replayed ends its grant, and every member of its cluster stops (R251, R254). -/
def State.replayEnd (s : State) (c b code : Nat) : State :=
  match s.block c b with
  | none => s
  | some k =>
    let s := s.record k.desc.home code 3 k.part (k.replayFields ((s.physOf c).getD 0))
    (s.liveMates c b).foldl (fun s m => s.endBlock m.1 m.2 code) s

/-- The replay of a block met a line of its region that cannot be corrected (R254). A record that cannot be read is given
up (notes/assumptions/148). -/
def State.seamLost (s : State) (c slot : Nat) : State :=
  ((s.updBlock c slot fun k => { k with log := [] }).replayEnd c slot 0x0B03).count (.dSeam (dieOfCore c)) 0x18 1

/-- A committed record that is to be applied while its core's work is stopped (R250 step 1) lies in lines that cannot be
read. -/
def State.logLost (s : State) (c : Nat) (b : Block) : Bool :=
  b.stopped && b.log.any fun r => s.regionPoison c (logRanges r.off r.len)

/-- The oldest record of a block is the next to be applied: while the core's work is stopped, records are applied in the
order of their stamps (R250 step 1). -/
def Core.applyTurn (k : Core) (slot : Nat) (b : Block) : Bool :=
  k.blocks.all (fun e => !e.2.stopped) || k.blocks.all fun e => e.1 == slot || e.2.log.all fun q =>
    (q.final && q.lines.all fun l => l.made) || b.log.all fun r => r.stamp.toNat ≤ q.stamp.toNat

end Sys2Proof.Machine
end

