-- ==== Sys2Proof/Machine/Requests.lean ====
section
/-! DEFINITION. Requests at homes (R215, R218, R245) and what comes back to an NI: responses, refusals and
acknowledgements (R205, R214, R243, R284, R285, R359). -/

namespace Sys2Proof.Machine

/-- The line of a number of at most 64 bytes. -/
def lineOfNat (n : Nat) : Line := BitVec.ofNat 512 n

/-! ### Order (R224) -/

/-- An earlier request of the core's load path to the same home is unanswered. -/
def State.niBehind (s : State) (c : Nat) (e : NiEntry) : Bool :=
  let home (a : DWord) : Option Nat := match s.partOfCore c with
    | some p => (s.home p a).map fun m => dieOfMem m.1
    | none => none
  (s.core c).ni.any fun q => q.2.seq < e.seq && q.2.answer.isNone && q.2.refused.isNone && q.2.kind != .write &&
    s.isLocal q.2.addr && home q.2.addr == home e.addr

/-- An earlier message of the same requester and path to the same home waits. -/
def State.inboxBehind (s : State) (i : Nat) : Bool :=
  match s.inbox[i]? with
  | none => false
  | some e => (s.inbox.take i).any fun q =>
      q.srcPkg == e.srcPkg && q.msg.srcUnit == e.msg.srcUnit && (q.msg.mtype == 2) == (e.msg.mtype == 2) &&
      (s.home q.dstPart q.msg.addr).map (fun h => dieOfMem h.1) ==
        (s.home e.dstPart e.msg.addr).map fun h => dieOfMem h.1

/-! ### Answers to other packages (R204, R205, R290) -/

/-- Sends the answer to a message from another package. -/
def State.reply (s : State) (die part pkg srcPart : Nat) (m : Msg) (mtype status : Nat) (data : Line) : State :=
  s.post die part pkg srcPart true { m with mtype := mtype, status := status, data := data, mask := 0 }

/-- Takes a message out of the inbox. -/
def State.takeMsg (s : State) (i : Nat) : State := { s with inbox := s.inbox.eraseIdx i }

/-- Where a message's address lies in the partition, and the die that answers. -/
def State.msgHome (s : State) (p : Nat) (m : Msg) : Option (Nat × Nat) := s.home p m.addr

/-! ### Reads and atomics at a home -/

/-- A home's answer is kept with the entry until the response reaches the NI. -/
def State.niAnswer (s : State) (c n : Nat) (a : Line × Bool) : State :=
  s.updCore c fun k => { k with ni := k.ni.modify n fun e => { e with answer := some a } }

/-- A request reached a home of a die that failed in service: the grant ends (R413). -/
def State.niDieFailed (s : State) (c n : Nat) (e : NiEntry) : State :=
  (if e.dead then s else s.endBlock c e.bslot codeDieFailed).niDrop c n

/-- READ_REQUEST: a read reaches its line's home, is checked and answered (R215, R265, R266). -/
def execReadRequest (src : ReqSrc) (ecc : Ecc) (s : State) : Res :=
  match src with
  | .ni c n =>
    needUnit "logical core" c 1280 <|
    needSome s ((s.core c).ni.find n) /- the NI has no such entry -/ fun e =>
    need s (match e.kind with
      | .load | .fill | .rmw _ _ => true
      | _ => false) /- the entry is no read of a local line -/ <|
    need s (e.answer.isNone && e.refused.isNone) /- the request has been answered -/ <|
    need s (!s.niBehind c e) /- an earlier request of the core to this home comes first (R224) -/ <|
    needSome s (s.partOfCore c) /- the core is in no partition -/ fun p =>
    needSome s (s.home p e.addr) /- the line is not in this package -/ fun h =>
    if s.homeLost h.1 then .next (s.niDieFailed c n e)
    else
      need s (s.die (dieOfMem h.1)).keyed /- the homes hold no key (R273) -/ <|
      let r := s.poolRead h.1 h.2 ecc
      .next (match r.ans with
        | none => r.st
        | some a => r.st.niAnswer c n a)
  | .inbox i =>
    needSome s s.inbox[i]? /- no such message has been delivered -/ fun q =>
    let m := q.msg
    need s (m.mtype == 1) /- the message is no read request -/ <|
    need s (!s.inboxBehind i) /- an earlier message of the requester comes first (R224) -/ <|
    need s (!s.mf.tripped) /- a trip has stopped the homes (R422) -/ <|
    match s.msgHome q.dstPart m with
    | none => .next ((s.takeMsg i).reply q.dstPart q.dstPart q.srcPkg q.srcPart m 7 2 0)
    | some h =>
      if s.homeLost h.1 then .next (s.takeMsg i)
      else
        let r := s.poolRead h.1 h.2 ecc
        .next (match r.ans with
          | none => r.st
          | some a =>
            let s := r.st.takeMsg i
            if a.2 then s.reply (dieOfMem h.1) q.dstPart q.srcPkg q.srcPart m 7 3 0
            else s.reply (dieOfMem h.1) q.dstPart q.srcPkg q.srcPart m 4 0 a.1)

/-- An atomic operation on the line at a home: the old value, and the state with the line updated. -/
def State.homeAtomic (s : State) (mem off aop size : Nat) (op cmp : DWord) (line : Line) : DWord × State :=
  let o := off % 64
  let n := 2 ^ size
  let old := BitVec.ofNat 64 (leNat ((List.range n).map fun i => lineByte line (o + i)))
  let v := atomResult aop size old op cmp
  let data := BitVec.ofNat 512 (v.toNat % 2 ^ (8 * n) * 2 ^ (8 * o))
  (old, (s.lineUpdate mem off data (spanMask o n)).count (.dAmap (dieOfMem mem)) 0x38 1)

/-- The journal place of a thread receives its old value, where the entry still has that KEY (R245). -/
def State.journalPut (s : State) (c b thread : Nat) (key v : DWord) : State :=
  s.updBlock c b fun k => { k with journal := k.journal.map fun j =>
    if j.key = key then { j with old := j.old.put thread v } else j }

/-- The thread of an atomic's entry. -/
def NiEntry.thread (e : NiEntry) : Nat := match e.dests with
  | d :: _ => d.thread
  | [] => 0

/-- ATOMIC: a device- or system-scope atomic reaches its home, is made and journalled (R225, R245). -/
def execAtomic (src : ReqSrc) (ecc : Ecc) (s : State) : Res :=
  match src with
  | .ni c n =>
    needUnit "logical core" c 1280 <|
    needSome s ((s.core c).ni.find n) /- the NI has no such entry -/ fun e =>
    match e.kind with
    | .atom aop size op cmp key =>
      need s (e.answer.isNone && e.refused.isNone) /- the request has been answered -/ <|
      need s (!s.niBehind c e) /- an earlier request of the core to this home comes first (R224) -/ <|
      needSome s (s.partOfCore c) /- the core is in no partition -/ fun p =>
      needSome s (s.home p e.addr) /- the line is not in this package -/ fun h =>
      if s.homeLost h.1 then .next (s.niDieFailed c n e)
      else
        need s (s.die (dieOfMem h.1)).keyed /- the homes hold no key (R273) -/ <|
        let r := s.poolRead h.1 h.2 ecc
        .next (match r.ans with
          | none => r.st
          | some (l, true) => r.st.niAnswer c n (l, true)
          | some (l, false) =>
            let q := r.st.homeAtomic h.1 h.2 aop size op cmp l
            (q.2.journalPut c e.bslot e.thread key q.1).niAnswer c n (lineOfNat q.1.toNat, false))
    | _ => .next s -- the entry is no atomic of device or system scope
  | .inbox i =>
    needSome s s.inbox[i]? /- no such message has been delivered -/ fun q =>
    let m := q.msg
    need s (m.mtype == 3) /- the message is no atomic -/ <|
    need s (!s.inboxBehind i) /- an earlier message of the requester comes first (R224) -/ <|
    need s (!s.mf.tripped) /- a trip has stopped the homes (R422) -/ <|
    match s.msgHome q.dstPart m with
    | none => .next ((s.takeMsg i).reply q.dstPart q.dstPart q.srcPkg q.srcPart m 7 2 0)
    | some h =>
      if s.homeLost h.1 then .next (s.takeMsg i)
      else
        let r := s.poolRead h.1 h.2 ecc
        .next (match r.ans with
          | none => r.st
          | some (_, true) => (r.st.takeMsg i).reply (dieOfMem h.1) q.dstPart q.srcPkg q.srcPart m 7 3 0
          | some (l, false) =>
            let w := 8 * 2 ^ m.size
            let d := m.data.toNat
            let op := BitVec.ofNat 64 (if m.aop = 8 then d / 2 ^ w % 2 ^ w else d % 2 ^ w)
            let a := r.st.homeAtomic h.1 h.2 m.aop m.size op (BitVec.ofNat 64 (d % 2 ^ w)) l
            (a.2.takeMsg i).reply (dieOfMem h.1) q.dstPart q.srcPkg q.srcPart m 6 0 (lineOfNat a.1.toNat))

/-! ### Line writes (R218, R243) -/

/-- The line of a block's oldest committed record that an apply command names. -/
def Block.applyLine (b : Block) (l : DWord) : Option SLine :=
  match b.log with
  | [] => none
  | r :: _ => r.lines.find? fun x => x.addr == l && !x.made

/-- A release line is written after every other line of its commit: for device scope once those with a local home are made,
for system scope once the others are acknowledged too (R222). -/
def State.relReady (s : State) (b : Block) (x : SLine) : Bool :=
  x.rel == 0 || match b.log with
    | [] => true
    | r :: _ => r.lines.all fun y => y.rel != 0 || y.made || (x.rel == 2 && !s.isLocal y.addr)

/-- Marks a line of the oldest record. -/
def Block.markLine (b : Block) (x : SLine) (f : SLine → SLine) : Block :=
  match b.log with
  | [] => b
  | r :: rest => { b with log := { r with lines := r.lines.map fun y =>
      if y.addr = x.addr ∧ y.rel = x.rel then f y else y } :: rest }

/-- A line is made: it is freed, no copy of it from before stays in the core's read cache (R213), and what waits for it goes on
(R221, R222, R225, R243). -/
def State.lineMade (s : State) (c b : Nat) (x : SLine) : State :=
  (((s.updCore c fun k => k.dropLines [x.addr]).updBlock c b fun k => k.markLine x fun y => { y with made := true }).releaseHolds c b).startAtom c b

/-- A fault met by an applied write: a block that has committed finally only ends its grant with the fault;
one that runs stops (R205, R210, R231). -/
def State.commitFault (s : State) (c b code : Nat) (fs : List (Nat × Nat)) : State :=
  match s.block c b with
  | none => s
  | some k =>
    if k.final then
      (s.record k.desc.home code 0 k.part (k.faultFields 0 ++ fs)).grantFault k.part k.desc.uid code
    else s.progFault c b 0 code fs


/-- The NI entry that carries a line of a commit. -/
def Core.writeEntry (k : Core) (b : Nat) (l : DWord) : Option (Nat × NiEntry) :=
  k.ni.find? fun e => e.2.kind == .write && e.2.bslot == b && e.2.addr == l && !e.2.dead

/-- The window and QP that a host-window line goes by, while both stand (R210, R361). -/
def State.windowQp (s : State) (p : Nat) (a : DWord) : Option (Window × Qp) :=
  match s.classify a with
  | .window w _ => match (s.part p).windows.find w with
    | none => none
    | some v => (s.host.qps.find v.qpn).map fun q => (v, q)
  | _ => none

/-- The port by which a host-window line goes is a lost hub's: what depends on it ends with DIE_FAILED (R414). -/
def State.portGone (s : State) (p : Nat) (a : DWord) : Bool := (s.windowQp p a).any fun v => s.hubGone (hubOfPort v.2.port)

/-- A host-window write that is not made (R210): MEM_RANGE with reason 2, or the end of the grant with a lost port (R414); the
line counts as acknowledged. -/
def State.windowFail (s : State) (c b : Nat) (x : SLine) : State :=
  let p := (s.partOfCore c).getD 0
  let s := match s.block c b with
    | some k => if s.portGone p x.addr then s.grantFault p k.desc.uid codeDieFailed
      else (s.captureFault c 0 (memCode 3) x.addr).commitFault c b (memCode 3) [(106, 2)]
    | none => s
  s.lineMade c b x

/-- LINE_WRITE: a staged line of a commit is written: at its home, or sent to its package or to the host
(R218, R222, R243); or a line that another package sent is made (R204). -/
def execLineWrite (src : WriteSrc) (ecc : Ecc) (s : State) : Res :=
  match src with
  | .apply l =>
    needUnit "logical core" l.core 1280 <|
    needSome s (s.block l.core l.slot) /- the slot holds no block -/ fun b =>
    needSome s (b.applyLine l.line) /- no committed record holds this line -/ fun x =>
    need s (!x.sent) /- the line has been sent -/ <|
    need s (s.relReady b x) /- a release line follows the other lines (R222) -/ <|
    need s ((s.core l.core).applyTurn l.slot b) /- a record with an earlier stamp is applied first (R250) -/ <|
    need s ((s.core l.core).niFree 1).isSome /- no entry of the NI is free (R283) -/ <|
    if s.logLost l.core b then .next (s.seamLost l.core l.slot)
    else if s.isLocal x.addr then
      needSome s (s.home b.part x.addr) /- the line is not in the partition -/ fun h =>
      if s.homeLost h.1 then
        .next ((s.grantFault b.part b.desc.uid codeDieFailed).lineMade l.core l.slot x)
      else
        need s (s.die (dieOfMem h.1)).keyed /- the homes hold no key (R273) -/ <|
        let r := s.homeWrite h.1 h.2 x.data x.mask ecc
        .next (if r.2 then r.1.lineMade l.core l.slot x else r.1)
    else if s.isWindow x.addr && (s.windowQp b.part x.addr).isNone then .next (s.windowFail l.core l.slot x)
    else
      let held := match s.remotePkg x.addr with
        | some p => s.routeHeld l.core p
        | none => false
      match (s.core l.core).niFree 1 with
      | some (n :: _) =>
        if held then .next s
        else .next ((s.updBlock l.core l.slot fun k => k.markLine x fun y => { y with sent := true }).niTake l.core n
          (b.entry l.slot 0 .write x.addr [] 0) (2, 0, 0, x.mask, x.data))
      | _ => .next s
  | .inbox i =>
    needSome s s.inbox[i]? /- no such message has been delivered -/ fun q =>
    let m := q.msg
    need s (m.mtype == 2) /- the message is no line write -/ <|
    need s (!s.inboxBehind i) /- an earlier message of the requester comes first (R224) -/ <|
    need s (!s.mf.tripped) /- a trip has stopped the homes (R422) -/ <|
    match s.msgHome q.dstPart m with
    | none => .next ((s.takeMsg i).reply q.dstPart q.dstPart q.srcPkg q.srcPart m 7 2 0)
    | some h =>
      if s.homeLost h.1 then .next (s.takeMsg i)
      else
        let r := s.homeWrite h.1 h.2 m.data m.mask ecc
        .next (if r.2 then (r.1.takeMsg i).reply (dieOfMem h.1) q.dstPart q.srcPkg q.srcPart m 5 0 0 else r.1)

/-- WRITE_ACKNOWLEDGEMENT: the acknowledgement of a line of a commit has arrived; the line is freed (R243, R282). -/
def execWriteAcknowledgement : AckIn → State → Res
  | ⟨l, parityOk⟩, s =>
    needUnit "logical core" l.core 1280 <|
    needSome s (s.block l.core l.slot) /- the slot holds no block -/ fun b =>
    needSome s (b.applyLine l.line) /- no committed record holds this line -/ fun x =>
    needSome s ((s.core l.core).writeEntry l.slot l.line) /- the line has not been sent -/ fun e =>
    need s e.2.answer.isSome /- no acknowledgement has arrived -/ <|
    s.translate (dieOfCore l.core) l.core parityOk <|
    .next (((s.niDrop l.core e.1).lineMade l.core l.slot x).sendAtoms l.core l.slot)

/-- RDMA_ACKNOWLEDGE: the host acknowledges a host-window write, or fails it (R210, R359). -/
def execRdmaAcknowledge (l : ApplyLine) (ok : Bool) (s : State) : Res :=
  needUnit "logical core" l.core 1280 <|
  needSome s (s.block l.core l.slot) /- the slot holds no block -/ fun b =>
  needSome s (b.applyLine l.line) /- no committed record holds this line -/ fun x =>
  need s (s.isWindow x.addr) /- the line is no host-window line -/ <|
  needSome s ((s.core l.core).writeEntry l.slot l.line) /- the line has not been sent -/ fun e =>
  let s := match s.windowQp b.part x.addr with
    | some v => s.updHost fun h => { h with qps := h.qps.put v.1.qpn { v.2 with retries := 0 } }
    | none => s
  .next (if ok then s.niAnswer l.core e.1 (0, false) else (s.niDrop l.core e.1).windowFail l.core l.slot x)

/-- Transport retries (R359). -/
def rdmaRetries : Nat := 7

/-- RDMA_RETRY_TIMEOUT: a host-window write is sent again, or has failed after its retries (R210, R359). -/
def execRdmaRetryTimeout (l : ApplyLine) (s : State) : Res :=
  needUnit "logical core" l.core 1280 <|
  needSome s (s.block l.core l.slot) /- the slot holds no block -/ fun b =>
  needSome s (b.applyLine l.line) /- no committed record holds this line -/ fun x =>
  need s (s.isWindow x.addr) /- the line is no host-window line -/ <|
  needSome s ((s.core l.core).writeEntry l.slot l.line) /- the line has not been sent -/ fun e =>
  need s e.2.answer.isNone /- the write has been acknowledged -/ <|
  match s.windowQp b.part x.addr with
  | none => .next ((s.niDrop l.core e.1).windowFail l.core l.slot x)
  | some v =>
    if v.2.retries < rdmaRetries then
      .next ((s.updHost fun h => { h with qps := h.qps.put v.1.qpn { v.2 with retries := v.2.retries + 1 } }).niSend
        l.core e.1 e.2 (2, 0, 0, x.mask, x.data))
    else
      .next (((s.updHost fun h => { h with qps := h.qps.put v.1.qpn { v.2 with retries := 0 } }).niDrop
        l.core e.1).windowFail l.core l.slot x)

/-! ### Responses -/

/-- Class of a refused instruction in its record: DMA, or memory (R232). -/
def NiEntry.cls (e : NiEntry) : Nat := match e.kind with
  | .dma _ => 1
  | _ => 0

/-- The address that a thread of a request named. -/
def NiEntry.named (e : NiEntry) : DWord := match e.kind, e.dests with
  | .atom _ _ _ _ _, _ => e.addr
  | _, d :: _ => e.addr + BitVec.ofNat 64 d.off
  | _, [] => e.addr

/-- The block's request ends with a fault. -/
def State.niFault (s : State) (c n chk why : Nat) (e : NiEntry) : State :=
  (s.memFault c e.bslot (s.gidxOf c e.grp) e.thread chk why e.opc e.cls e.named).niDrop c n

/-- The group of an acquire goes on once its lines have returned; the acquire mark is then set (R213, R222). -/
def State.acquired (s : State) (c b g : Nat) : State :=
  match s.group c g with
  | none => s
  | some k => match k.hold with
    | .acq scope =>
      let left := (s.core c).ni.any fun e => e.2.grp == g && !e.2.dead && match e.2.kind with
        | .load | .rmw _ _ => true
        | _ => false
      if left then s
      else
        let s := s.setGroup c g { k with hold := .none }
        if 2 ≤ scope then s.acquire c b else s
    | _ => s

/-- A read's line reaches its group, the read cache or an engine (R212, R214). None while an atom's result
finds no free line. -/
def State.deliver (s : State) (c n : Nat) (e : NiEntry) (l : Line) : Option State :=
  let line := lineMerge l e.stagedData e.stagedMask
  let s' := s.niDrop c n
  match e.kind with
  | .load | .fill =>
    let s' := match e.cache with
      | some f => s'.updCore c fun k => k.rcFill ⟨e.addr, f, l⟩
      | none => s'
    if e.kind == .fill then some s'
    else some ((s'.updGroup c e.grp fun g => g.payLine n line e.dests).acquired c e.bslot e.grp)
  | .rmw aop size =>
    (s'.rmwLine c e.bslot e.grp aop size e.addr l e.dests).map fun t =>
      (t.updGroup c e.grp fun g => g.paid n).acquired c e.bslot e.grp
  | .bob => some (s'.updCore c fun k => match k.bob with
      | j :: r => { k with bob := { j with far := j.far ++ [(e.addr, l)] } :: r }
      | [] => k)
  | .dma d => some (s'.updCore c fun k => { k with dma := k.dma.modify d fun q => { q with far := q.far ++ [(e.addr, l)] } })
  | _ => some s'

/-- After an entry is freed, atomics that waited for one are sent, and a bar.b that waited for it completes. -/
def State.niFreed (s : State) (c : Nat) : State :=
  (s.core c).blocks.foldl (fun s b => (s.sendAtoms c b.1).retryBarB c b.1) s

/-- READ_RESPONSE: a read's answer reaches the NI (R214, R283); where the shadow entry fails its parity check
the shadow is reloaded first (R282). -/
def execReadResponse (core entry : Nat) (parityOk : Bool) (s : State) : Res :=
  needUnit "logical core" core 1280 <|
  needSome s ((s.core core).ni.find entry) /- the NI has no such entry -/ fun e =>
  needSome s e.answer /- no answer has arrived -/ fun a =>
  need s (match e.kind with
    | .write | .atom _ _ _ _ _ => false
    | _ => true) /- the entry is no read -/ <|
  s.translate (dieOfCore core) core parityOk <|
  if e.dead then .next ((s.niDrop core entry).niFreed core)
  else if a.2 then
    if e.kind == .fill then .next ((s.niDrop core entry).niFreed core)
    else .next ((s.memPoison core e.bslot (s.gidxOf core e.grp) e.thread e.named false).niDrop core entry)
  else match s.deliver core entry e a.1 with
    | some t => .next (t.niFreed core)
    | none => .next s

/-- ATOMIC_RESPONSE: an atomic's old value arrives: the router writes the journal place of a remote one and
lowers its count, and the thread receives the value (R245, R284). -/
def execAtomicResponse (core : Nat) : Answer → State → Res
  | ⟨entry, parityOk⟩, s =>
    needUnit "logical core" core 1280 <|
    needSome s ((s.core core).ni.find entry) /- the NI has no such entry -/ fun e =>
    needSome s e.answer /- no answer has arrived -/ fun a =>
    match e.kind with
    | .atom _ size _ _ key =>
      s.translate (dieOfCore core) core parityOk <|
      let old : DWord := BitVec.ofNat 64 (a.1.toNat % 2 ^ 64)
      let s := if s.isLocal e.addr || a.2 then s else s.journalPut core e.bslot e.thread key old
      if e.dead then .next ((s.niDrop core entry).niFreed core)
      else if a.2 then
        .next ((s.memPoison core e.bslot (s.gidxOf core e.grp) e.thread e.named false).niDrop core entry)
      else
        let land (g : Group) : Group := e.dests.foldl (fun g d => g.landValue d (natLe (2 ^ size) old.toNat)) g
        .next (((s.updGroup core e.grp land).niDrop core entry).niFreed core)
    | _ => .next s -- the entry is no atomic of device or system scope

/-- A device- or system-scope atomic of unknown outcome ends its grant (R285, R311). -/
def State.atomUnknown (s : State) (c n : Nat) (e : NiEntry) : State :=
  match s.block c e.bslot with
  | none => s.niDrop c n
  | some k =>
    ((s.record k.desc.home 0x0D0A 3 k.part
      (k.faultFields (s.gidxOf c e.grp) ++ [(101, e.addr.toNat / 8 % 2 ^ 18)])).endBlock c e.bslot 0x0D0A).niDrop c n

/-- An atomic of an attempt that a hardware fault stopped: its block waits for a replay of the same atom. -/
def State.awaitsAtom (s : State) (c : Nat) (e : NiEntry) : Bool :=
  match e.kind, s.block c e.bslot with
  | .atom _ _ _ _ key, some b => b.stopped && b.st == .running && !b.final && match b.journal with
      | some j => j.key == key
      | none => false
  | _, _ => false

/-- No link leads to a request's package, and a hub is lost whose links did (R414). -/
def State.linksGone (s : State) (c : Nat) (a : DWord) : Bool :=
  (s.hubGone 0 || s.hubGone 1) && match s.remotePkg a with
    | some p => (s.route (dieOfCore c) p).isNone
    | none => false

/-- A request that ends refused: status 1 or 2 a refusal of the target, 3 poison, 4 no answer (R205, R266, R285). An
atomic of unknown outcome keeps its block from being replayed (R285); a request that a lost hub's links should have carried
ends with DIE_FAILED (R414). -/
def State.niRefused (s : State) (c n status : Nat) (e : NiEntry) : State :=
  if e.dead then (if status = 4 && s.awaitsAtom c e then s.atomUnknown c n e else s.niDrop c n)
  else match e.kind with
    | .write =>
      let s := s.niDrop c n
      match s.block c e.bslot with
      | none => s
      | some b => match b.applyLine e.addr with
        | none => s
        | some x =>
          let s := if status = 4 && s.linksGone c e.addr then s.grantFault b.part b.desc.uid codeDieFailed
            else (s.captureFault c 0 (memCode 1) e.addr).commitFault c e.bslot (memCode 1) [(106, 1)]
          s.lineMade c e.bslot x
    | .atom _ _ _ _ _ =>
      if status = 4 then s.atomUnknown c n e
      else if status = 3 then (s.memPoison c e.bslot (s.gidxOf c e.grp) e.thread e.named true).niDrop c n
      else s.niFault c n 1 1 e
    | _ =>
      if status = 3 then (s.memPoison c e.bslot (s.gidxOf c e.grp) e.thread e.named true).niDrop c n
      else if status = 4 && s.linksGone c e.addr then s.niDieFailed c n e
      else s.niFault c n 1 1 e

/-- REFUSAL: a refusal that has arrived ends its request (R205). -/
def execRefusal (core : Nat) : Answer → State → Res
  | ⟨entry, parityOk⟩, s =>
    needUnit "logical core" core 1280 <|
    needSome s ((s.core core).ni.find entry) /- the NI has no such entry -/ fun e =>
    needSome s e.refused /- no refusal has arrived -/ fun st =>
    s.translate (dieOfCore core) core parityOk <|
    .next ((s.niRefused core entry st e).niFreed core)

/-- Beats after which a remote request counts as refused (R285). -/
def remoteLimit : Nat := 1024

/-- REMOTE_REQUEST_TIMEOUT: a request to another package has had no answer for 1,024 beats (R285). -/
def execRemoteRequestTimeout (core entry : Nat) (s : State) : Res :=
  needUnit "logical core" core 1280 <|
  needSome s ((s.core core).ni.find entry) /- the NI has no such entry -/ fun e =>
  need s (s.remotePkg e.addr).isSome /- the request is not to another package -/ <|
  need s (e.answer.isNone && e.refused.isNone) /- the request has been answered -/ <|
  need s (e.sentBeat + remoteLimit ≤ s.time.tsc.toNat / 2048) /- the request was sent less than 1,024 beats ago -/ <|
  .next ((s.niRefused core entry 4 e).niFreed core)

/-- RDMA_READ_RESPONSE: the host answers a read of a host window (R210, R359); a read that fails raises
MEM_RANGE with reason 2, as R361 has it for a destroyed QP. -/
def execRdmaReadResponse (core entry : Nat) (ok : Bool) (data : Line) (s : State) : Res :=
  needUnit "logical core" core 1280 <|
  needSome s ((s.core core).ni.find entry) /- the NI has no such entry -/ fun e =>
  need s (s.isWindow e.addr && e.kind != .write) /- the entry is no host-window read -/ <|
  need s e.answer.isNone /- the read has been answered -/ <|
  let w := s.windowQp ((s.partOfCore core).getD 0) e.addr
  need s (!w.any fun v => v.2.waiting.contains (core, entry)) /- the read has not been sent (R359) -/ <|
  let lost := s.portGone ((s.partOfCore core).getD 0) e.addr
  let s := match w with
    | some v => s.readEnded v.1.qpn
    | none => s
  if ok then .next (s.niAnswer core entry (data, false))
  else .next ((if e.dead then s.niDrop core entry
    else if lost then s.niDieFailed core entry e
    else s.niFault core entry 3 2 e).niFreed core)

end Sys2Proof.Machine
end

