-- ==== Sys2Proof/Machine/Links.lean ====
section
/-! DEFINITION. The tatting links (chapter 13): training and its limits (R294 to R296, R305), the saved settings of
a link (R394 to R396), frames as they arrive (R287 to R293, R302 to R307), notices (R307, R311), and the bridges
and shadows of the package (R281, R282). -/

namespace Sys2Proof.Machine

/-! ### Saved settings (R394 to R396) -/

/-- Operating version of the running image. -/
def State.fwverNow (s : State) : Word := match s.boot.image with
  | some i => i.fwver
  | none => 0

/-- The saved-settings record of a resource. -/
def State.savedOf (s : State) (kind unit : Nat) : Option SavedRec :=
  s.flash.saved.find? fun r => r.kind == kind && r.unit == unit

/-- The part trusts a resource's record for a fast start (R394). -/
def State.trusts (s : State) (kind unit serial extra : Nat) (sealOk : Bool) (temp : Int) : Bool :=
  match s.savedOf kind unit with
  | none => false
  | some r => !s.flash.nofast && sealOk && r.serial == serial && r.extra == extra && r.fwver == s.fwverNow &&
      (temp - r.temp).natAbs ≤ 10 && s.flash.hours - r.hours ≤ 1000 && s.flash.starts - r.starts ≤ 32

/-- A resource has trained in full and is in service: its new record is due for flash (R396). -/
def State.savedDue (s : State) (kind unit serial extra : Nat) (temp : Int) (settings : List Nat) : State :=
  let r : SavedRec := ⟨kind, unit, serial, extra, settings, temp, s.fwverNow, s.flash.hours, s.flash.starts⟩
  s.updBoot fun b => { b with
    due := (b.due.filter fun q => !(q.kind == kind && q.unit == unit)) ++ [r]
    full := b.full ++ [(kind, unit)] }

/-- A resource has trained from its saved settings. -/
def State.savedUsed (s : State) (kind unit : Nat) : State :=
  s.updBoot fun b => { b with fast := b.fast ++ [(kind, unit)] }

/-- A resource that trained from saved settings fails its check: its record is discarded and the fallback is
recorded (R395). -/
def State.fallback (s : State) (kind unit unitNo : Nat) : State :=
  (((s.dropSaved kind unit).updBoot fun b => { b with fell := b.fell ++ [(kind, unit)] }).record
    unitNo 0x1107 1 0xF [(0, unitNo)])

/-! ### States of a link (R294 to R296) -/

/-- PART of a link's record. -/
def State.linkPart (s : State) (l : Nat) : Nat := partField (s.partOfDie (dieOfLink l))

/-- A link that comes into a state enters it at this tick. -/
def Link.enter (k : Link) (st : LinkSt) (now : Nat) : Link :=
  if k.st == st then k else { k with st := st, since := now }

def State.setLinkSt (s : State) (l : Nat) (st : LinkSt) : State := s.updLink l fun k => k.enter st s.time.tsc.toNat

/-- Most ticks that a link may stay in a state (R294): 50 ms, 300 ms or 5 ms from saved settings, 20 ms, 1 ms, 8 beats. -/
def Link.limit (k : Link) : Option Nat :=
  match k.st with
  | .detect => some 50_000_000
  | .equalise => some (if k.saved then 5_000_000 else 300_000_000)
  | .align => some 20_000_000
  | .delay => some 1_000_000
  | .retrain => some (8 * 2048)
  | _ => none

/-- The link's state has not gone on past its limit (R294). -/
def State.inLimit (s : State) (l : Nat) : Bool :=
  match (s.link l).limit with
  | some n => s.time.tsc.toNat ≤ (s.link l).since + n
  | none => true

/-- `TL_CTRL.EN`. -/
def State.linkEn (s : State) (l : Nat) : Bool := s.reg (.tl l) 0 % 2 == 1

/-- `FAB_TOPO.SET`. -/
def State.topoSet (s : State) : Bool := 2 ^ 31 ≤ s.reg (.dFab 0) 0

/-- A far link that carries no peer, because the torus has one group in its dimension (R297). -/
def State.unpeered (s : State) (l : Nat) : Bool :=
  32 ≤ l && s.topoSet && (if l % 4 < 2 then s.torusX == 1 else s.torusY == 1)

/-- A link is retired until the next package cold reset (R296). -/
def State.retireLink (s : State) (l : Nat) : State :=
  let st := (s.link l).st.code
  (((s.dropSaved 2 l).setLinkSt l .retired).count .flt 0x18 1).record (unitLink l) 0x0D03 2 (s.linkPart l) [(0, st)]

/-- A lane is retired; a link left with fewer than 3 lanes is retired (R296). -/
def State.retireLane (s : State) (l k : Nat) : State :=
  if (s.link l).laneRet.getLsbD k then s
  else
    let s := s.updLink l fun x => { x with laneRet := setBit x.laneRet k true, lanes := setBit x.lanes k false }
    let s := (s.count .flt 0x18 1).record (unitLane l k) 0x0D02 2 (s.linkPart l) [(0, k)]
    if popCount 4 (s.link l).lanes.toNat < 3 then s.retireLink l else s

/-- The application that a cage looks for: a tatting link's, 400GAUI-4 C2M or 400GBASE-CR4 for EP0 to EP3, 25GAUI with one
host lane for MP (R310, R355). -/
def appFor (cage : Nat) (a : HostApp) : Bool :=
  if cage < 64 then a == .tatting else if cage < 68 then a == .gaui400C2m || a == .cr4 else a == .gaui25

/-- The place from 1 of the application that the part selects in page 10h; 0 where the module advertises none (R310, R355).
The first that fits is taken. -/
def selectApp (m : ModuleIn) (cage : Nat) : Nat :=
  match m.apps.findIdx? (appFor cage) with
  | some i => i + 1
  | none => 0

/-- What is wrong with a cage module: 0 revision, 1 power, 2 application (R310, R355). -/
def moduleFault (m : ModuleIn) (cage budget : Nat) : Option Nat :=
  if m.rev < 50 then some 0 else if budget < m.power then some 1 else if selectApp m cage = 0 then some 2 else none

/-- A seated module of a link's cage is read: kept, and rejected with its record where R310 says so. -/
def State.seatModule (s : State) (l : Nat) (m : ModuleIn) : State :=
  let was := s.link l
  match moduleFault m l (s.cageBudget l) with
  | none => s.updLink l fun k => { k with module := some m, rejected := false, appSel := selectApp m l }
  | some r =>
    let s := s.updLink l fun k => { (k.enter (if k.st == .retired then k.st else .off) s.time.tsc.toNat) with
      module := some m, rejected := true, appSel := 0 }
    if was.rejected ∧ (was.module.map (·.serial)) = some m.serial then s
    else s.record (unitLink l) 0x0D05 0 (s.linkPart l) [(0, r)]

/-- Temperature of a link's module. -/
def Link.moduleTemp (k : Link) : Int := match k.module with
  | some m => m.temp
  | none => 0

/-- Serial number, and part number with cable length, of a link's module (R394). -/
def Link.identity (k : Link) : Nat × Nat := match k.module with
  | some m => (m.serial.toNat, m.partCable)
  | none => (0, 0)

/-- TL_DETECT: the module is identified, the transmitters are enabled, and signal is or is not there on every lane; with
signal the link enters EQUALISE, from saved settings where R394 trusts them (R294, R309, R310). -/
def execTlDetect (link : Nat) (m : Option ModuleIn) (x : DetectIn) (s : State) : Res :=
  needUnit "tatting link" link 64 <|
  need s (!freeLinks.contains link) /- the link carries no peer (R294) -/ <|
  need s (!s.unpeered link) /- the link carries no peer (R297) -/ <|
  need s (s.boot.firmware) /- the firmware has not started -/ <|
  need s ((s.link link).st == .off || (s.link link).st == .detect) /- the link is not in OFF or DETECT -/ <|
  match m with
  | none => .next ((s.setLinkSt link .off).updLink link fun k => { k with module := none, rejected := false, appSel := 0 })
  | some m =>
    let s := s.seatModule link m
    if (s.link link).rejected || !s.linkEn link then .next (s.setLinkSt link .off)
    else if !x.signal then .next (s.setLinkSt link .detect)
    else
      let i := (s.link link).identity
      let t := s.trusts 2 link i.1 i.2 x.sealOk m.temp && !s.boot.fell.contains (2, link)
      let s := if t then s else s.dropSaved 2 link
      .next ((s.setLinkSt link .equalise).updLink link fun k => { k with saved := t })

/-- TL_EQUALISE_DONE: adaptation is done and the link enters ALIGN with the settings it has found (R294). -/
def execTlEqualiseDone (link : Nat) (settings : List Nat) (s : State) : Res :=
  needUnit "tatting link" link 64 <|
  need s ((s.link link).st == .equalise && s.inLimit link) /- the link is not in EQUALISE, or past its limit -/ <|
  .next ((s.setLinkSt link .align).updLink link fun k => { k with settings := settings })

/-- Lanes that pass ALIGN: at most 10 symbol errors, and not retired (R294). -/
def Link.aligned (k : Link) (errs : List Nat) : BitVec 4 :=
  BitVec.ofNat 4 (listMask ((List.range 4).filter fun i => errs.getD i 0 ≤ 10 && !k.laneRet.getLsbD i))

/-- TL_ALIGN_DONE: the check pattern has run; bad lanes leave service. With fewer than 3 lanes the link returns to
OFF, or trains in full if it came from saved settings (R294, R395). -/
def execTlAlignDone (link : Nat) (errs : List Nat) (s : State) : Res :=
  needUnit "tatting link" link 64 <|
  need s ((s.link link).st == .align && s.inLimit link) /- the link is not in ALIGN, or past its limit -/ <|
  let k := s.link link
  let m := k.aligned errs
  let s := s.updLink link fun k => { k with lanes := m }
  .next (if 3 ≤ popCount 4 m.toNat then s.setLinkSt link .identify
    else if k.saved then
      ((s.fallback 2 link (unitLink link)).setLinkSt link .equalise).updLink link fun k => { k with saved := false }
    else s.setLinkSt link .off)

/-- The peer that the topology asks for on a link: its package and its link (R298, R299). -/
def State.peerOfLink (s : State) (l : Nat) : Nat × Nat :=
  let own := s.pkgIdNat
  if l < 32 then (own / 8 * 8 + Nat.xor (own % 8) ((l / 4 + l % 4) % 8), l)
  else
    let x := s.torusX
    let y := s.torusY
    let gx := own / 8 % x
    let gy := own / 8 / x
    let j := l % 4
    let nx := if j = 0 then (gx + 1) % x else if j = 1 then (gx + x - 1) % x else gx
    let ny := if j = 2 then (gy + 1) % y else if j = 3 then (gy + y - 1) % y else gy
    ((ny * x + nx) * 8 + own % 8, Nat.xor l 1)

/-- The retirement of a link waits for the next boundary (R31, R296). -/
def State.linkDue (s : State) (l : Nat) : Bool := s.mf.pending.any fun d => d.what == .link l

/-- TL_IDENTIFY: the ends exchange identities and check the peer; with fewer than 3 lanes in common the link is retired at
the next boundary (R295, R296). -/
def execTlIdentify (link peerPkg peerLink : Nat) (peerLanes : List Nat) (peerDist : Nat) (s : State) : Res :=
  needUnit "tatting link" link 64 <|
  need s ((s.link link).st == .identify) /- the link is not in IDENTIFY -/ <|
  need s (nbit (s.regWord 0x10).toNat 30) /- PKG_ID.VALID is 0 -/ <|
  need s (link < 32 || s.topoSet) /- FAB_TOPO.SET is 0 -/ <|
  need s (!s.linkDue link) /- the link is to be retired -/ <|
  let k := s.link link
  let s := s.emit (.identity link s.pkgIdNat link k.lanes.toNat s.distOut)
  let s := s.updLink link fun k => { k with peerPkg := peerPkg % 2 ^ 14, peerLink := peerLink % 64, dist := peerDist % 256 }
  if (peerPkg, peerLink) ≠ s.peerOfLink link ∨ s.unpeered link then
    .next ((s.updLink link fun k => { k with miswired := true }).record (unitLink link) 0x0D04 0 (s.linkPart link)
      [(0, peerPkg % 2 ^ 14), (14, peerLink % 64)])
  else
    let m := k.lanes &&& BitVec.ofNat 4 (listMask (peerLanes.filter (· < 4)))
    let s := s.updLink link fun k => { k with miswired := false, lanes := m }
    .next (if popCount 4 m.toNat < 3 then s.decisionDue (unitLink link) (.link link) else s.setLinkSt link .delay)

/-- Exchanges of a delay measurement (R305). -/
def delayTrips : Nat := 16

/-- The one-way delay in 1/64 tick: half of the round trip less the peer's turnaround, over the 16 exchanges (R305; the mean
of them, rounded down, notes/assumptions/151). -/
def oneWay (trips : List (Nat × Nat)) : Nat := (trips.map fun t => t.1 - t.2).sum / (2 * delayTrips)

/-- TL_DELAY_DONE: the one-way delay is measured and frames flow (R294, R305); sequence numbers, credits and the
replay buffer start afresh. -/
def execTlDelayDone (link : Nat) (trips : List (Nat × Nat)) (s : State) : Res :=
  needUnit "tatting link" link 64 <|
  need s ((s.link link).st == .delay && s.inLimit link) /- the link is not in DELAY, or past its limit -/ <|
  need s (trips.length == delayTrips) /- the measurement is not complete -/ <|
  let i := (s.link link).identity
  let saved := (s.link link).saved
  let s := (s.setLinkSt link .up).updLink link fun k => { k with
    delayT := oneWay trips, nextTx := 0, nextRx := 0, lastAck := 0xFFF, replay := [], nakPend := false, badRun := 0
    credits := [32, 32, 32, 32]
    lent := [0, 0, 0, 0]
    synced := false }
  let s := if 32 ≤ link then { s with farUp := true } else s
  let s := if saved then s.savedUsed 2 link else s.savedDue 2 link i.1 i.2 (s.link link).moduleTemp (s.link link).settings
  .next (s.pump link)

/-- TL_STATE_TIMEOUT: at the limit of a training state the link returns to OFF and the event is recorded (R294). -/
def execTlStateTimeout (link : Nat) (s : State) : Res :=
  needUnit "tatting link" link 64 <|
  need s ((s.link link).st != .retrain) /- a retrain ends with TL_RETRAIN_DONE -/ <|
  needSome s (s.link link).limit /- the link is in no state with a limit -/ fun n =>
  needTick s ((s.link link).since + n) fun s =>
  .next ((s.setLinkSt link .off).record (unitLink link) 0x0D01 1 (s.linkPart link)
    [(0, 1), (1, (s.link link).lanes.toNat)])

/-- TL_RETRAIN_DONE: within its limit a retrain succeeds, and resends begin from the last ACK; lanes that fail ALIGN leave
service and are retired at the next boundary, and so is a link with fewer than 3 lanes left, or one whose retrain reaches its
limit. A link whose module is gone goes to OFF (R294, R296, R305, R460). -/
def execTlRetrainDone (link : Nat) (ok : Bool) (errs : List Nat) (trips : List (Nat × Nat)) (s : State) : Res :=
  needUnit "tatting link" link 64 <|
  need s ((s.link link).st == .retrain) /- the link is not in RETRAIN -/ <|
  need s (!s.linkDue link) /- the link is to be retired -/ <|
  let k := s.link link
  let s := s.dropSaved 2 link
  if !ok || k.module.isNone then
    needTick s (k.since + 8 * 2048) fun s =>
    let s := s.record (unitLink link) 0x0D01 1 (s.linkPart link) [(0, 1), (1, k.lanes.toNat)]
    .next (if k.module.isNone then s.setLinkSt link .off else s.decisionDue (unitLink link) (.link link))
  else
    need s (s.inLimit link && trips.length == delayTrips) /- the retrain is past its limit -/ <|
    let bad := (List.range 4).filter fun i => k.lanes.getLsbD i && 10 < errs.getD i 0
    let s := bad.foldl (fun s i => (s.updLink link fun x => { x with lanes := setBit x.lanes i false }).decisionDue
      (unitLane link i) (.lane link i)) s
    if popCount 4 (s.link link).lanes.toNat < 3 then .next s
    else
      let s := (s.setLinkSt link .up).updLink link fun k => { k with
        delayT := oneWay trips, badRun := 0, nakPend := false, synced := false }
      let s := s.record (unitLink link) 0x0D01 1 (s.linkPart link) [(0, 0), (1, (s.link link).lanes.toNat)]
      .next ((s.resend link (s.link link).replay).pump link)

/-- A cage's module is gone: a link that is UP goes to RETRAIN, one in training to OFF; a port loses its link (R460). -/
def State.cageEmpty (s : State) (cage : Nat) : State :=
  if 64 ≤ cage then ((s.setReg (.eth (cage - 64)) 0xA0 0).setReg (.eth (cage - 64)) 0 0).updHost fun h => { h with
    apps := h.apps.del (cage - 64) }
  else
    s.updLink cage fun k => { (k.enter (match k.st with
        | .up => .retrain
        | .retrain => .retrain
        | .retired => .retired
        | _ => .off) s.time.tsc.toNat) with module := none, rejected := false, appSel := 0 }

/-- CAGE_MODULE_REMOVED (R460). -/
def execCageModuleRemoved (cage : Nat) (s : State) : Res :=
  needUnit "cage" cage 69 <| .next (s.cageEmpty cage)

/-! ### Time (R27, R303, R304) -/

/-- A sync symbol arrives: its offset is kept for the next boundary, and before ready the first one with DIST below
255 sets the TSC once (R27, R304). -/
def State.syncSymbol (s : State) (l : Nat) (f : Frame) : State :=
  if s.reg .time 8 / 2 % 2 = 0 ∨ 255 ≤ f.dist then s
  else
    let s := s.atTick f.tick
    let there : Int := (f.time.toNat : Int) + ((s.link l).delayT / 64 : Nat)
    if !s.boot.ready && !s.time.adopted then
      let moved (k : Link) : Link := { k with since := ((k.since : Int) + there - (s.time.tsc.toNat : Int)).toNat }
      { s with
        links := s.links.mapAll moved
        time := { s.time with tsc := BitVec.ofInt 64 there, adopted := true, sync := true, link := l, offset := 0 } }
    else s.updLink l fun k => { k with sync := some (there - (s.time.tsc.toNat : Int)) }

/-! ### Frames as they arrive -/

/-- `a` is newer than `b` (R33). -/
def seqNewer (a b : BitVec 12) : Bool := 1 ≤ (a - b).toNat && (a - b).toNat ≤ 2047

/-- A frame's ACK and NAK act on the replay buffer (R292). -/
def State.takeAck (s : State) (l : Nat) (ack : BitVec 12) (nak : Bool) : State :=
  let k := s.link l
  if seqNewer ack (k.nextTx - 1) then s
  else
    let s := if seqNewer ack k.lastAck then
        s.updLink l fun k => { k with lastAck := ack, replay := k.replay.filter fun r => seqNewer r.seq ack }
      else s
    if nak then s.resend l ((s.link l).replay.filter fun r => seqNewer r.seq ack) else s

/-- A frame that is not good: its lanes' counters rise, NAK goes back, and the third discard of one SEQ in
succession starts a retrain (R292, R293). -/
def State.badFrame (s : State) (l : Nat) (f : Frame) (bad : List Nat) : State :=
  let s := bad.foldl (fun s k => s.bump (.lane l k)) s
  let s := s.count (.tl l) 0x58 1
  let s := s.updLink l fun k => { k with
    nakPend := true, badRun := if f.body ≠ .idle ∧ f.seq = k.nextRx then k.badRun + 1 else k.badRun }
  if 3 ≤ (s.link l).badRun then (s.setLinkSt l .retrain).updLink l fun k => { k with badRun := 0 } else s

/-- A flow's number: source package and partition. -/
def flowNo (pkg part : Nat) : Nat := 8 * pkg + part

/-- Sends a notice back to a frame's source, recorded at most once per flow in a beat (R307, R311). -/
def State.sendNotice (s : State) (l : Nat) (f : Frame) (reason : Nat) : State :=
  match s.route (dieOfLink l) f.srcPkg with
  | none => s
  | some out =>
    let s := s.sendOn out ⟨s.channel out true none, true, f.srcPkg, s.pkgIdNat, f.dstPart, f.srcPart, out, 0,
      .notice reason, none, none, false⟩
    let s := s.count (.tl out) 0x60 1
    let key := (f.srcPkg, f.srcPart, s.pkgIdNat, f.dstPart, false)
    if s.noticed.contains key then s
    else
      { s with noticed := s.noticed ++ [key] }.record (unitLink out) 0x0D06 2 f.dstPart
        [(0, f.srcPkg), (14, f.srcPart), (17, reason), (19, 0), (20, f.dstPart), (23, s.pkgIdNat)]

/-- A response message reaches the NI entry that its SRCUNIT and TAG name; one whose attempt is old, or whose
entry is gone, is discarded (R282, R283). -/
def State.takeResponse (s : State) (srcPkg : Nat) (m : Msg) : State :=
  let n := m.tag % 256
  match (s.core m.srcUnit).ni.find n with
  | none => s
  | some e =>
    let write := e.kind == .write
    let fits := match m.mtype, e.kind with
      | 4, .write => false
      | 4, .atom _ _ _ _ _ => false
      | 5, _ => write
      | 6, .atom _ _ _ _ _ => true
      | 6, _ => false
      | _, _ => true
    if e.attempt % 8 ≠ m.tag / 256 % 8 || s.remotePkg e.addr ≠ some srcPkg || e.answer.isSome || e.refused.isSome || !fits then s
    else if m.mtype = 7 then
      s.updCore m.srcUnit fun k => { k with ni := k.ni.modify n fun e => { e with refused := some m.status } }
    else s.niAnswer m.srcUnit n (m.data, false)

/-- A message of an accepted body: requests wait for their homes, responses go to their NI (R290, R307 step 4). -/
def State.takeBody (s : State) (l : Nat) (f : Frame) (m : Msg) : State :=
  match m.mtype with
  | 1 | 2 | 3 => { s with inbox := s.inbox ++ [⟨f.dstPart, f.srcPkg, f.srcPart, l, f.vc, f.seq, m⟩] }
  | 4 | 5 | 6 | 7 => s.takeResponse f.srcPkg m
  | _ => s

/-- The messages of a body before one of type 0 (R290). -/
def bodyMsgs (ms : List Msg) : List Msg := ms.takeWhile fun m => m.mtype != 0

/-- A frame for this package: peer check, authentication, counter, then its body (R307); notices are cleartext. -/
def State.acceptFrame (s : State) (l : Nat) (f : Frame) : State :=
  let p := s.part f.dstPart
  let flow := flowNo f.srcPkg f.srcPart
  match f.body with
  | .idle => s
  | .notice r => { s with noticeIn := s.noticeIn ++ [(l, f.srcPart, f.srcPkg, f.dstPart, r)] }
  | _ =>
    if !p.peers.any fun e => e.pkg == f.srcPkg && e.part == f.srcPart then s.sendNotice l f 1
    else if p.deadFlows.contains flow then s
    else if !p.keys || !f.tagOk || f.key != some p.linkKey then
      (s.updPart f.dstPart fun q => { q with deadFlows := q.deadFlows ++ [flow] }).sendNotice l f 2
    else
      let key := 64 * flow + f.origin
      if f.counter.toNat ≤ p.rxCtr.get key 0 then
        s.record (unitLink l) 0x0D07 2 f.dstPart [(0, f.counter.toNat), (64, f.srcPkg)]
      else
        let s := s.updPart f.dstPart fun q => { q with rxCtr := q.rxCtr.put key f.counter.toNat }
        match f.body with
        | .fabric ms => (bodyMsgs ms).foldl (fun s m => s.takeBody l f m) s
        | .exch b => { s with exchIn := s.exchIn ++ [(s.beatNo, f.dstPart, f.srcPkg, b)] }
        | _ => s

/-- The frame uses a virtual channel and its receive buffers (R291). -/
def takesBuffer (f : Frame) : Bool :=
  match f.body with
  | .exch _ | .idle => false
  | _ => true

/-- A transit package sends a frame on along its route; an exchange frame goes no further (R291, R300, R302). -/
def State.forward (s : State) (l : Nat) (f : Frame) : State :=
  match f.body with
  | .exch _ | .idle => s
  | body =>
    let die := dieOfLink l
    match s.route die f.dstPkg with
    | none => s
    | some out =>
      let resp := 2 ≤ f.vc
      let s := (s.count (.tl l) 0x68 1).count (.dFab die) 0x20 1
      s.sendOn out ⟨s.channel out resp (some (linkDim l, f.vc)), resp, f.dstPkg, f.srcPkg, f.dstPart, f.srcPart,
        f.origin, f.counter, body, f.key, some (l, f.vc), takesBuffer f⟩

/-- A good frame in order is taken: it has a receive buffer, and is delivered or sent on (R291, R292). -/
def State.takeFrame (s : State) (l : Nat) (f : Frame) : State :=
  let s := s.updLink l fun k => { k with
    nextRx := k.nextRx + 1, badRun := 0, lent := if takesBuffer f then k.lent.modify f.vc (· + 1) else k.lent }
  let s := s.count (.tl l) 0x48 1
  if f.dstPkg = s.pkgIdNat then s.acceptFrame l f else s.forward l f

/-- What a link owes its peer leaves with a waiting frame, or with an idle one (R288, R292). -/
def State.answerLink (s : State) (l : Nat) : State :=
  let t := s.pump l
  if t.out.length = s.out.length then t.sendIdle l else t

/-- TL_FRAME: a frame arrives on a link (R287 to R293, R302 to R307). -/
def execTlFrame (link : Nat) (f : Frame) (s : State) : Res :=
  needUnit "tatting link" link 64 <|
  need s ((s.link link).st == .up) /- no frame flows on this link now -/ <|
  need s (!takesBuffer f || s.rxUse link f.vc < rxBuffers) /- the peer holds no credit for it (R291) -/ <|
  let bad := (List.range 4).filter fun i => (s.link link).lanes.getLsbD i && f.badLanes.contains i
  if !bad.isEmpty then .next ((s.badFrame link f bad).answerLink link)
  else
    let s := s.updLink link fun k => { k with
      dist := f.dist, credits := (List.range 4).map fun i => min 32 (k.credits.getD i 0 + f.credits.getD i 0 % 32) }
    let s := if f.tsync then s.syncSymbol link f else s
    let s := s.takeAck link f.ack f.nak
    match f.body with
    | .idle => .next (s.pump link)
    | _ =>
      if f.seq ≠ (s.link link).nextRx then .next (s.pump link)
      else .next ((s.takeFrame link f).answerLink link)

/-- Ends, as a notice asks, the outstanding requests of a partition's cores to a partition of another package
(R307): device- and system-scope atomics as of unknown outcome (R285), the others refused (R205). -/
def State.refuseFlow (s : State) (part pkg dstPart : Nat) : State :=
  if s.peerPart part pkg ≠ dstPart then s
  else s.cores.foldl (fun s e =>
    if s.partOfCore e.1 ≠ some part then s
    else
      let hit := e.2.ni.filter fun q => s.remotePkg q.2.addr == some pkg && q.2.answer.isNone
      (hit.foldl (fun s q =>
        let st := match q.2.kind with
          | .atom _ _ _ _ _ => 4
          | _ => 1
        match (s.core e.1).ni.find q.1 with
        | some cur => s.niRefused e.1 q.1 st cur
        | none => s) s).niFreed e.1) s

/-- NOTICE: a notice arrives at the source package, which refuses the flow's outstanding requests (R307, R311). -/
def execNotice (link part dstPkg dstPart reason : Nat) (s : State) : Res :=
  needUnit "tatting link" link 64 <|
  need s (s.noticeIn.contains (link, part, dstPkg, dstPart, reason)) /- no such notice has been taken -/ <|
  let s := { s with noticeIn := s.noticeIn.erase (link, part, dstPkg, dstPart, reason) }
  let s := s.count (.tl link) 0x60 1
  let key := (s.pkgIdNat, part, dstPkg, dstPart, true)
  let s := if s.noticed.contains key then s
    else { s with noticed := s.noticed ++ [key] }.record (unitLink link) 0x0D06 2 part
      [(0, s.pkgIdNat), (14, part), (17, reason), (19, 1), (20, dstPart), (23, dstPkg)]
  .next (s.refuseFlow part dstPkg dstPart)

/-! ### Bridges and shadows (R281, R282, R413) -/

/-- BRIDGE_TRANSFER: a transfer crosses the bridge of a hop of its path; one whose CRC fails is retried, and the 16th
failure in a beat calls for a retrain at the next boundary (R281, R413). -/
def execBridgeTransfer (src dst : Nat) : HopIn → State → Res
  | ⟨hop, crcOk⟩, s =>
    needUnit "node" src 26 <| needUnit "node" dst 26 <|
    needSome s ((pathOf src dst)[hop]?) /- the path has no such hop -/ fun h =>
    needSome s (bridgeOf h.1 h.2) /- no bridge joins the two -/ fun bridge =>
    if crcOk then .next s
    else
      let s := if h.1 < 8 then s.count (.dFab h.1) 0x10 1 else s
      let n := s.mf.bridgeCrc.get bridge 0 + 1
      .next (s.updMf fun m => { m with
        bridgeCrc := m.bridgeCrc.put bridge n
        bridgeDue := if 16 ≤ n ∧ !m.bridgeDue.any (fun b => b.1 == bridge) then m.bridgeDue ++ [(bridge, s.beatNo + 1)]
          else m.bridgeDue })

/-- FAB_SHADOW_RELOAD: the reload of a die's shadows is done and waiting translations go on (R282). -/
def execFabShadowReload (die : Nat) (s : State) : Res :=
  needUnit "compute die" die 8 <|
  need s (s.die die).reloading /- no reload runs on this die -/ <|
  let s := s.updDie die fun d => { d with
    reloading := false, shadowBad := none, shadowGen := s.boot.gen
    shadow := s.map.filter fun e => dieOfCore e.1 == die }
  .next ((s.count (.dFab die) 0x18 1).record (unitRouter die) 0x0D08 1 (partField (s.partOfDie die))
    [(0, s.boot.gen % 2 ^ 16)])

/-! ### Routes at a boundary (R301) -/

/-- The link on which a frame that was on link `l` goes now; an exchange frame keeps to the link of its plan (R291). -/
def State.newRoute (s : State) (l : Nat) (f : OutFrame) : Option Nat :=
  match f.body with
  | .exch _ => none
  | _ => s.route (dieOfLink l) f.dstPkg

/-- The frames that a link which is not UP keeps or holds waiting go on their new routes, ahead of newer frames (R301). A
link in RETRAIN keeps its replay buffer (R294) and what has no other route; one out of service keeps nothing. -/
def State.requeueLink (s : State) (l : Nat) : State :=
  let k := s.link l
  let stays := k.st == .retrain
  let moves (f : OutFrame) : Bool := (s.newRoute l f).isSome
  let fs := ((k.replay.filter fun r => !r.rerouted && moves r.frame).map (·.frame)) ++ k.queue.filter moves
  let s := s.updLink l fun k => { k with
    replay := if stays then k.replay.map fun r => { r with rerouted := r.rerouted || moves r.frame } else []
    queue := if stays then k.queue.filter fun f => !moves f else [] }
  fs.foldr (fun f s => match s.newRoute l f with
    | none => s
    | some m => s.updLink m fun k => { k with
        queue := { f with vc := s.channel m f.resp (f.via.map fun v => (linkDim v.1, v.2)) } :: k.queue }) s

/-- Frames leave the links that are not UP. -/
def State.requeue (s : State) : State :=
  s.links.foldl (fun s e => if e.2.st == .up then s else s.requeueLink e.1) s

/-- Routes are recomputed where the set of links that are UP has changed; cores with requests outstanding on a
changed route hold new ones (R301). -/
def State.recomputeRoutes (s : State) : State :=
  let up := (s.links.filter fun e => e.2.st == .up).map (·.1)
  if up = s.routeUp then up.foldl (fun s l => s.pump l) s.requeue
  else
    let old := s.routeUp
    let changed (n pkg : Nat) : Bool := s.routeWith old n pkg != s.routeWith up n pkg
    let pkgs := List.range (8 * s.torusX * s.torusY)
    let s := (List.range 8).foldl (fun s n => pkgs.foldl (fun s pkg =>
      if changed n pkg then s.record (unitRouter n) 0x0D09 0 (partField (s.partOfDie n)) [(0, pkg)] else s) s) s
    let s := { s with routeUp := up }
    let s := { s with cores := s.cores.map fun (e : Nat × Core) =>
      let out := (e.2.ni.filterMap fun (q : Nat × NiEntry) => s.remotePkg q.2.addr).eraseDups
      (e.1, { e.2 with reroute := out.filter fun pkg => e.2.reroute.contains pkg || changed (dieOfCore e.1) pkg }) }
    up.foldl (fun s l => s.pump l) s.requeue

end Sys2Proof.Machine
end

