-- ==== Sys2Proof/Machine/Parts.lean ====
section
/-! DEFINITION. Must-finish records (R419, R472), the numbering of cores (R11, R400, R402), the end of sessions
(R365), and the partitions: definition, reset, zeroisation, release, start and scrub (R370 to R374). -/

namespace Sys2Proof.Machine

/-! ### Must-finish operations (R419, R472) -/

/-- Code of the grant that a partition's end rejects (R368). -/
def codePartEnd : Nat := 0x100C

/-- Unit number of the primary hub's cantle core 0. -/
def State.cantle0 (s : State) : Nat := unitHub s.primary 0

/-- A must-finish operation of codes 3 to 7 completes: the microseconds that it took are a free value, since the
model keeps no time within a beat (R472). -/
def State.mfDone (s : State) (op part : Nat) : State :=
  let (us, s) := s.drawWord
  let s := s.updMf fun m => { m with lastOp := op, lastPart := part, lastUs := us.toNat }
  s.record s.cantle0 0x120C 0 part [(0, op), (4, part), (32, us.toNat)]

/-! ### Numbering (R400, R402) -/

/-- A core's entry is repointed: its per-core registers return to their reset values (R18, R62, R233, R259, R447), but
for those that other state holds, and its read cache is the new physical core's, which holds nothing. -/
def State.resetCoreRegs (s : State) (c : Nat) : State :=
  let a := 0x0200_0000 + 0x1000 * c
  { s with
    regs := s.regs.filter fun e => !(a ≤ e.1 && e.1 < a + 0x1000)
    cores := s.cores.modify c fun (k : Core) => { k with rc := [] } }

/-- Logical cores `160 d + i` take the good physical cores in ascending order; the rest are spares (R400). -/
def State.numberDie (s : State) (d : Nat) (bad : List Nat) : State :=
  let u := s.die d
  let usable := !u.failed && !u.failedService && !(s.seamStacks d).isEmpty
  let good := if usable then (List.range 168).filter fun i => !bad.contains i else []
  let s := (List.range 160).foldl (fun s i =>
    let c := 160 * d + i
    let t := { s with map := s.map.put c ⟨good[i]?, false⟩ }
    if s.physOf c = good[i]? then t else t.resetCoreRegs c) s
  s.updDie d fun u => { u with spares := if usable then good.drop 160 else [] }

/-- Physical cores of a die retired since the cold start. -/
def State.retiredOf (s : State) (d : Nat) : List Nat :=
  ((s.die d).phys.filter fun e => e.2.retired).map (·.1)

/-- A change of any entry: the generation rises by 1 at each boundary at which there is one, however many entries
change there, and wraps at 16 bits; every shadow of the changed dies takes it (R24, R282). -/
def State.mapChanged (s : State) (ds : List Nat) : State :=
  let g := if s.boot.genBeat = some s.beatNo then s.boot.gen else (s.boot.gen + 1) % 2 ^ 16
  ds.foldl (fun s d => s.updDie d fun u => { u with shadowGen := g, shadow := s.map.filter fun e => dieOfCore e.1 == d })
    (s.updBoot fun b => { b with gen := g, genBeat := some s.beatNo })

/-! ### Sessions end (R361, R365) -/

/-- Records of the host side come from the command sequencer of the primary hub (R386). -/
def State.seqUnit (s : State) : Nat := unitSeq s.primary

/-- A partition changes state (R371). -/
def State.setPartSt (s : State) (p : Nat) (st : PartSt) : State :=
  (s.updPart p fun q => { q with st := st }).record s.seqUnit 0x1005 0 p [(0, st.code)]

/-- Partition of a scope; 0xF for the package. -/
def scopePart : Scope → Nat
  | .package => 0xF
  | .partition p => p

/-- A session ends with a cause: its QPs and SAs go, and a partition that was OPEN returns to DEFINED (R361, R365,
R371). It is must-finish operation 5. -/
def State.closeSession (s : State) (n cause : Nat) : State :=
  match s.host.sessions.find n with
  | none => s
  | some x =>
    let p := scopePart x.scope
    let s := s.updHost fun h => { h with
      sessions := h.sessions.del n, qps := h.qps.filter fun q => q.2.sess != n }
    let s := { s with latches := s.latches.filter fun l => l.path != Path.session n }
    let s := (s.record s.seqUnit 0x1003 0 p [(0, n), (32, cause)]).mfCount
    let s := s.mfDone 5 p
    match x.scope with
    | .package => s
    | .partition p =>
      let s := s.updPart p fun q => { q with session := none }
      if (s.part p).st == .opened then s.setPartSt p .defined else s

/-! ### Stopping a partition (R373, R374) -/

/-- Logical cores of a partition that hold anything. -/
def State.coresOf (s : State) (p : Nat) : List Nat :=
  (s.cores.filter fun e => s.partOfCore e.1 == some p).map (·.1)

/-- The privileged grants of a partition that end with it, taken or waiting, by session, tag and grant id. -/
def Part.privOpen (q : Part) : List (Nat × Word × Word) :=
  (q.grants.filterMap fun (g : Grant) => match g.src with
    | .priv n => some (n, g.tag, g.launch.grant)
    | _ => none) ++ q.priv.map fun (w : PrivWait) => (w.sess, w.tag, w.launch.grant)

/-- The partition leaves RUNNING: privileged grants get their second answer, and every grant and entry is discarded
without a completion record (R368, R373). -/
def State.dropWork (s : State) (p : Nat) : State :=
  let s := (s.part p).privOpen.foldl (fun s w =>
    if (s.host.sessions.find w.1).isSome then
      s.emit (.privDone w.1 ⟨s.time.tsc, w.2.1, 2, codePartEnd, w.2.2, 0, 0, 0, 0⟩)
    else s) s
  s.updPart p fun q => { q with grants := [], owed := [], priv := [] }

/-- Address of a partition's register blocks that a reset clears (R338, R353, R387, R447). -/
def resetAddr (p a : Nat) : Bool :=
  [Blk.cmdt p, .xplan p, .digest p, .health p, .upd p, .pgrp p].any (fun b => b.base ≤ a && a < b.base + 0x1000) ||
  (Blk.nrg.base + 0x120 + 0x40 * p ≤ a && a < Blk.nrg.base + 0x130 + 0x40 * p)

/-- The partition's registers return to their reset values, its plan and its update table are disarmed, and its RWL
fields are unlocked (R338, R353, R373, R467). -/
def State.resetPartRegs (s : State) (p : Nat) : State :=
  { s with regs := s.regs.filter fun e => !resetAddr p e.1 }.updPart p fun q => { q with
    head := 0, phase := false, badCfg := false, unreadSlot := none, unreadCons := false, cplCount := 0,
    cplHeld := [], full := false, nrgFull := false, stepLate := false, stepping := 0, locked := false,
    ex := Exch.fresh, upd := Upd.fresh }

/-- Stacks and modules that are to leave do so at a partition reset (R270, R277). -/
def State.leaveInterleave (s : State) (ds : List Nat) : State :=
  (List.range 24).foldl (fun s m =>
    if ds.contains (dieOfMem m) && (s.memUnit m).leave then s.updMemUnit m fun u => { u with insvc := false } else s) s

/-- The bytes of a die's memories take undefined values (R273, R419). -/
def State.forget (s : State) (d : Nat) : State :=
  { s with mem := s.mem.filter fun c => dieOfMem (c.1 / 2 ^ 40) != d }.updDie d fun u => { u with keyEpoch := u.keyEpoch + 1 }

/-- Stops every block of a partition as a reset does: committed records stand and are applied (R40, R373). -/
def State.stopBlocks (s : State) (p : Nat) : State :=
  (s.coresOf p).foldl (fun s c => (s.core c).blocks.foldl (fun s b => s.stopBlock c b.1 true) s) s

/-- PARTITION_RESET: the reset that was requested runs at its boundary (R373, R419). A wedged die is reset by its
wire: it reruns its tests before START, and the partition's memory is undefined. -/
def execPartitionReset (part : Nat) (s : State) : Res :=
  needUnit "partition" part 8 <|
  needSome s (s.part part).resetPend /- no reset of the partition is due -/ fun b =>
  need s (b ≤ s.beatNo) /- the reset runs at the next beat boundary -/ <|
  let ds := s.diesOf part
  let hard := ds.filter fun d => (s.die d).wedged && !(s.die d).powerLost
  let s := ((s.stopBlocks part).dropWork part).resetPartRegs part
  let s := s.leaveInterleave ds
  let s := if hard.isEmpty then s else ds.foldl (fun s d => s.forget d) s
  let s := hard.foldl (fun s d => s.updDie d fun u => { u with
    wedged := false, silent := 0, wedgedFor := 0, testsDone := false }) s
  let s := s.updPart part fun q => { q with resetPend := none }
  .next ((s.setPartSt part (if (s.part part).session.isSome then .opened else .defined)).mfDone 6 part)

/-! ### Zeroisation and scrub (R273, R374) -/

/-- The compute dies can run the memory scrub. -/
def State.canScrub (s : State) (p : Nat) : Bool :=
  !s.mf.tripped && (s.diesOf p).all fun d =>
    let u := s.die d
    u.powered && !u.wedged && !u.failed && !u.failedService

/-- Content of an erase report: what the part keeps of the last erase (R384, R385). -/
def State.eraseReport (s : State) (p : Nat) (scrub : Bool) : Report :=
  let q := s.part p
  let ds := s.diesOf p
  { kind := 3
    serial := match s.boot.fuse with
      | some f => f.serial
      | none => 0
    fwhash := match s.boot.image with
      | some i => i.hash
      | none => 0
    fwver := s.fwverNow
    mapped := (ds.map s.mapped).sum
    expected := 160 * ds.length
    dies := listMask ds
    flags := s.viewPkg 0x54 / 2 % 2 + 2 * (s.viewPkg 0x54 / 4 % 2) + 4 * (s.viewPkg 0x54 / 8 % 2)
      + (if s.boot.disagree = 0 then 0 else 8)
    owner := q.tenant
    nonce := 0
    tsc := s.time.tsc
    epoch := q.epoch
    ztsc := q.ztsc
    stsc := q.stsc
    erase := 1 + 2 * scrub.toNat + 4 * (ds.any fun d => (s.die d).wedged).toNat
    sig := 0 }

/-- The erase ends: FREE after a RELEASE, otherwise ERASED with its report (R371, R374, R384). -/
def State.eraseDone (s : State) (p : Nat) (scrub : Bool) : State :=
  let s := s.updPart p fun q => { q with
    scrubbed := scrub, wedgedErase := !scrub, stsc := if scrub then s.time.tsc else 0 }
  let q := s.part p
  if q.toFree then
    (s.setPartSt p .free).setPart p { Part.fresh with
      epoch := q.epoch, scrubbed := q.scrubbed, wedgedErase := q.wedgedErase, nextUid := q.nextUid }
  else (s.updPart p fun q => { q with eraseReport := some (s.eraseReport p scrub) }).setPartSt p .erased

/-- The frame carries data of partition `p` of this package. -/
def State.ownFrame (s : State) (p : Nat) (f : OutFrame) : Bool := f.srcPkg == s.pkgIdNat && f.srcPart == p

/-- The frame as it is resent once its partition's key is gone: under its SEQ, with nothing in its body (R292, R308; a
choice, notes/assumptions/153). -/
def OutFrame.emptied (f : OutFrame) : OutFrame := { f with body := .fabric [], key := none }

/-- Everything of a partition's work goes at a zeroisation: blocks, requests, staged and committed lines (R273). -/
def State.dropPartition (s : State) (p : Nat) : State :=
  let ds := s.diesOf p
  let cs := s.coresOf p
  let s := { s with
    cores := s.cores.filter fun e => !cs.contains e.1
    inbox := s.inbox.filter fun q => q.dstPart != p
    exchIn := s.exchIn.filter fun q => q.2.1 != p
    noticeIn := s.noticeIn.filter fun q => q.2.1 != p
    links := s.links.mapAll fun (k : Link) => { k with
      queue := k.queue.filter fun f => !s.ownFrame p f
      replay := k.replay.map fun r => if s.ownFrame p r.frame then { r with frame := r.frame.emptied } else r } }
  ds.foldl (fun s d => s.updDie d fun u => { u with
    atoms := u.atoms.filter fun e => !cs.contains e.1
    fill := u.fill.filter fun e => e.2.part != p }) s

/-- Key zeroisation of a partition: it stops, its keys are cleared, its session closes, and the scrub begins where
the compute dies can run it (R273, R374). -/
def State.zeroisePart (s : State) (p : Nat) (toFree : Bool) : State :=
  let ds := s.diesOf p
  let s := ((s.dropWork p).dropPartition p).resetPartRegs p
  let s := s.leaveInterleave ds
  let s := ds.foldl (fun s d => s.updDie d fun u => { u with keyed := false }) s
  let s := s.updPart p fun q => { q with
    keys := false, linkKey := 0, toFree := toFree, ztsc := s.time.tsc, startPend := none, resetPend := none,
    deadFlows := [], txCtr := [], rxCtr := [] }
  let s := match (s.part p).session with
    | some n => s.closeSession n (if toFree then 4 else 3)
    | none => s
  let s := (s.setPartSt p .erasing).mfDone 4 p
  if s.canScrub p then s else s.eraseDone p false

/-- MEMORY_SCRUB_DONE: every line is written with zero ciphertext, which clears every poison (R273, R374). -/
def execMemoryScrubDone (part : Nat) (s : State) : Res :=
  needUnit "partition" part 8 <|
  need s ((s.part part).st == .erasing) /- no erase of the partition runs -/ <|
  need s (s.canScrub part) /- the compute dies cannot run the scrub -/ <|
  let ds := s.diesOf part
  let s := ds.foldl (fun s d => s.forget d) s
  let s := (List.range 24).foldl (fun s m =>
    if ds.contains (dieOfMem m) then s.updMemUnit m fun u => { u with poison := [] } else s) s
  .next (s.eraseDone part true)

/-! ### PART_ registers (R370, R371) -/

/-- A write of `PART_CFGp` by a package session: QPS is stored, and DEFINE = 1 defines the partition where R370 and
R403 allow it. -/
def State.writePartCfg (s : State) (path : Path) (a p v : Nat) : State :=
  let keep := s.reg .part (4 * p)
  let qps := min (v % 2 ^ 15) 16384
  let size := v / 2 ^ 16 % 4
  let define := nbit v 18
  if (s.part p).st != .free then
    let s := s.setReg .part (4 * p) (keep / 2 ^ 15 * 2 ^ 15 + qps)
    if define then s.mgmtRecord 0x0106 path a v true 2 else s
  else
    let s := s.setReg .part (4 * p) (size * 2 ^ 16 + qps)
    let ds := partDies p size
    if !define then s
    else if p % 2 ^ size ≠ 0 then s
    else if ds.any fun d => (s.die d).failed || (s.die d).failedService then s.mgmtRecord 0x0106 path a v true 0
    else if ds.any fun d => (s.partOfDie d).isSome then s.mgmtRecord 0x0106 path a v true 1
    else
      let s := s.setReg .part (4 * p) (2 ^ 18 + size * 2 ^ 16 + qps)
      (s.updPart p fun q => { q with size := size }).setPartSt p .defined

/-- A write of `PART_CTRLp` by a package session (R371, R373, R374). Zeroisation goes before a reset (R423). -/
def State.writePartCtrl (s : State) (p v : Nat) : State :=
  let s := if nbit v 1 then
      match (s.part p).st with
      | .defined | .opened | .running => (s.mfCount).zeroisePart p true
      | .erased =>
        if (s.part p).scrubbed then
          let s := match (s.part p).session with
            | some n => s.closeSession n 4
            | none => s
          (s.updPart p fun q => { q with toFree := true }).eraseDone p true
        else (s.mfCount).zeroisePart p true
      | _ => s
    else s
  if nbit v 0 then
    match (s.part p).st with
    | .running => ((s.updPart p fun q => { q with resetPend := some (s.beatNo + 1) }).setPartSt p .resetting).mfCount
    | _ => s
  else s

/-! ### START (R372) -/

/-- Size of the HBM range: 126 GB for each stack (R202). -/
def hbmShare : Nat := 126 * 0x4000_0000

/-- The grade at which a partition's modules run: the highest that all of them list (R276). Where they list none in common the
rule gives no grade, and it is a free one (notes/assumptions/149). -/
def State.commonGrade (s : State) (ms : List Nat) : Nat × State :=
  if ms.isEmpty then (0, s)
  else match ([0, 1, 2].filter fun g => ms.all fun m => (s.memUnit (16 + m)).grades.contains g).max? with
    | some g => (g, s)
    | none => (s.drawWord.1.toNat % 3, s.drawWord.2)

/-- PARTITION_START: at the boundary after START the cores are numbered, the sizes set, the filters loaded and the
partition marked RUNNING (R202, R203, R230, R372, R402). -/
def execPartitionStart (part : Nat) (s : State) : Res :=
  needUnit "partition" part 8 <|
  needSome s (s.part part).startPend /- no START of the partition is due -/ fun b =>
  need s (b ≤ s.beatNo) /- START acts at the next beat boundary -/ <|
  need s ((s.part part).st == .opened) /- the partition is not OPEN -/ <|
  need s ((s.coresOf part).all fun c => (s.core c).blocks.isEmpty) /- blocks of the last run are not yet released -/ <|
  let ds := s.diesOf part
  need s (ds.all fun d => (s.die d).testsDone) /- a die that was reset by its wire reruns its tests (R419) -/ <|
  let old := s.map
  let s := ds.foldl (fun s d => s.numberDie d (s.badSet d ++ s.retiredOf d)) s
  let s := if s.map = old then s else s.mapChanged ds
  let s := s.updMf fun m => { m with moves := m.moves.filter fun e => !ds.contains (dieOfCore e.1) }
  let hbm := (List.range 16).filter fun m => ds.contains (dieOfMem m) && (s.memUnit m).insvc
  let lpx := (List.range 8).filter fun m => ds.contains (dieOfMem (16 + m)) && (s.memUnit (16 + m)).insvc
  let cap := match (lpx.map fun m => (s.memUnit (16 + m)).gb).min? with
    | some c => c * 0x4000_0000
    | none => 0
  let (grade, s) := s.commonGrade lpx
  let s := lpx.foldl (fun s m => s.updMemUnit (16 + m) fun u => { u with grade := grade }) s
  let s := s.updPart part fun q => { q with
    startPend := none, hbmSet := hbm, lpxSet := lpx, hbmSize := hbm.length * hbmShare, lpxSize := lpx.length * cap }
  .next (s.setPartSt part .running)

/-- PART_DEFINE, PART_RESET and PART_RELEASE reach `PART_CFGp` and `PART_CTRLp` by these addresses. -/
def partCfgAddr (p : Nat) : Nat := Blk.part.base + 4 * p
def partCtrlAddr (p : Nat) : Nat := Blk.part.base + 0x20 + 4 * p

end Sys2Proof.Machine
end

