-- ==== Sys2Proof/Machine/Completion.lean ====
section
/-! DEFINITION. What the hubs read and write in a partition's memory, completion records and their ring (R380,
R381), energy records (R445), and what the end of a grant does (R229, R257, R315, R349). -/

namespace Sys2Proof.Machine

/-! ### Hub accesses to a partition's memory -/

/-- Every byte of a range lies in the partition's HBM range (R201). -/
def State.inHbm (s : State) (p : Nat) (a : DWord) (n : Nat) : Bool :=
  match s.classify a with
  | .hbm x => x + n ≤ (s.part p).hbmSize
  | _ => false

/-- Every byte of a range lies in the partition's HBM range, or in its LPDDR range. -/
def State.inRanges (s : State) (p : Nat) (a : DWord) (n : Nat) : Bool :=
  s.inHbm p a n || match s.classify a with
    | .lpx x => x + n ≤ (s.part p).lpxSize
    | _ => false

/-- Bytes of a partition's memory at a device address. -/
def State.hubBytes (s : State) (p : Nat) (a : DWord) (n : Nat) : List Byte := s.partBytes p (s.normal a).toNat n

/-- A little-endian number at a device address. -/
def State.hubNat (s : State) (p : Nat) (a : DWord) (n : Nat) : Nat := leNat (s.hubBytes p a n)

/-- Some line of a range lies at a home that has left service (R413, R414). -/
def State.partLost (s : State) (p a n : Nat) : Bool :=
  (List.range ((a % 64 + n + 63) / 64)).any fun i => match (s.part p).place (a / 64 * 64 + 64 * i) with
    | some (m, _) => s.homeLost m
    | none => false

/-- Some line of a range at a device address cannot be read, because it is poisoned (R266), its home has left service
(R413, R414) or a trip has stopped the memories (R422). -/
def State.hubPoisoned (s : State) (p : Nat) (a : DWord) (n : Nat) : Bool :=
  s.mf.tripped || s.partPoisoned p (s.normal a).toNat n || s.partLost p (s.normal a).toNat n

/-- The homes check the lines of a hub's reads, with the verdicts listed for them (R215, R265, R266). -/
def State.hubCheck (s : State) (p : Nat) (v : Verdicts) (rs : List (DWord × Nat)) : State :=
  let ls := (rs.flatMap fun r => (List.range (ceilDiv (lineOff r.1 + r.2) 64)).map fun i =>
    lineOf (s.normal r.1) + BitVec.ofNat 64 (64 * i)).eraseDups
  ls.foldl (fun s l => match s.home p l with
    | some h => if s.homeLost h.1 || s.mf.tripped then s else (s.poolRead h.1 h.2 ((v.lookup l).getD .clean)).st
    | none => s) s

/-- Some line of a range waits at its home for a retrain or for a page's copy (R268, R270). -/
def State.hubHeld (s : State) (p : Nat) (a : DWord) (n : Nat) : Bool :=
  (List.range (ceilDiv (lineOff a + n) 64)).any fun i => match s.home p (lineOf a + BitVec.ofNat 64 (64 * i)) with
    | some h => s.homeHeld h.1 h.2
    | none => false

/-- Writes bytes of one line at its home as one update (R218); a home without keys, or out of service, discards
it, and so does every home after a trip (R273, R413, R422). -/
def State.hubLine (s : State) (p : Nat) (a : DWord) (data : Line) (mask : DWord) : State :=
  match s.home p (lineOf a) with
  | none => s
  | some h =>
    if (s.die (dieOfMem h.1)).keyed && !s.homeLost h.1 && !s.mf.tripped then
      (s.lineUpdate h.1 h.2 data mask).pooled h.1 else s

/-- Writes bytes of a partition's memory from a device address on, a line at a time in ascending order. -/
def State.hubStore (s : State) (p : Nat) (a : DWord) (v : List Byte) : State :=
  let o := lineOff a
  (List.range (ceilDiv (o + v.length) 64)).foldl (fun s i =>
    let lo := if i = 0 then o else 0
    let chunk := (v.drop (64 * i - if i = 0 then 0 else o)).take (64 - lo)
    s.hubLine p (lineOf a + BitVec.ofNat 64 (64 * i)) (BitVec.ofNat 512 (leNat chunk * 2 ^ (8 * lo)))
      (spanMask lo chunk.length)) s

/-- The last beat boundary. -/
def State.boundaryTsc (s : State) : DWord := BitVec.ofNat 64 (s.beatNo * 2048)

/-- Low word first, a 64-bit register of a block. -/
def State.regD (s : State) (b : Blk) (o : Nat) : DWord := BitVec.ofNat 64 (s.reg64 b o)

/-- Clears low bits that a base register ignores. -/
def alignDown (a : DWord) (n : Nat) : DWord := BitVec.ofNat 64 (a.toNat / n * n)

/-! ### The completion ring (R380, R381) -/

/-- The 64 bytes of a completion record (R380). -/
def Cpl.line (c : Cpl) (phase : Nat) : Line :=
  bytesLine (natLe 8 c.tsc.toNat ++ natLe 4 c.tag.toNat ++ natLe 1 (c.kind % 16) ++ natLe 1 phase ++ natLe 2 c.code
    ++ natLe 4 c.id.toNat ++ natLe 1 (c.flags % 4) ++ natLe 3 0 ++ natLe 8 c.version.toNat ++ natLe 8 c.word.toNat
    ++ natLe 1 (c.decision % 8) ++ natLe 23 0)

/-- Slots of the completion ring. -/
def State.cplSlots (s : State) (p : Nat) : Nat := 2 ^ (s.reg (.cmdt p) 0x20 % 32)

/-- Device address of the consumer index. -/
def State.cplCons (s : State) (p : Nat) : DWord := alignDown (s.regD (.cmdt p) 0x28) 8

/-- The consumer index cannot be read. -/
def State.consUnreadable (s : State) (p : Nat) : Bool := s.hubPoisoned p (s.cplCons p) 8

/-- The ring is full, or its consumer index cannot be read (R381). -/
def State.cplFull (s : State) (p : Nat) : Bool :=
  s.consUnreadable p ||
    ((s.part p).cplCount + 2 ^ 64 - s.hubNat p (s.cplCons p) 8) % 2 ^ 64 == s.cplSlots p

/-- Notes the ring's state: full, and its unreadable index recorded once (R381). -/
def State.cplLook (s : State) (p : Nat) : State :=
  let bad := s.consUnreadable p
  let s := if bad && !(s.part p).unreadCons then s.record s.seqUnit 0x1009 1 p [(16, 1)] else s
  let full := s.cplFull p
  s.updPart p fun q => { q with unreadCons := bad, full := full }

/-- Writes a record into its slot and into the mirror (R381). A mirror write that fails raises nothing. -/
def State.cplWrite (s : State) (p : Nat) (c : Cpl) : State :=
  let q := s.part p
  let n := s.cplSlots p
  let slot := q.cplCount % n
  let line := c.line (if q.cplCount / n % 2 = 0 then 1 else 0)
  let base := alignDown (s.regD (.cmdt p) 0x18) 64
  let s := s.hubLine p (base + BitVec.ofNat 64 (64 * slot)) line (BitVec.allOnes 64)
  let s := (s.updPart p fun q => { q with cplCount := q.cplCount + 1 }).count (.cmdt p) 0x50 1
  let m := s.reg (.cmdt p) 0x30
  if m / 2 ^ 31 = 0 then s
  else match q.windows.find (m % 4096) with
    | none => s
    | some w =>
      if (s.host.qps.find w.qpn).isNone || w.len < 64 * slot + 64 then s
      else s.emit (.rdmaWriteOut w.qpn (w.va + BitVec.ofNat 64 (64 * slot)) w.rkey (BitVec.allOnes 64) line)

/-- Writes records that wait in the hub, oldest first, while the ring has room. -/
def State.drainN (s : State) (p : Nat) : Nat → State
  | 0 => s.cplLook p
  | n + 1 =>
    let s := s.cplLook p
    match (s.part p).cplHeld with
    | [] => s
    | c :: rest =>
      if (s.part p).full then s
      else State.drainN ((s.updPart p fun q => { q with cplHeld := rest }).cplWrite p c) p n

/-- Writes the waiting completion records of a partition as far as the ring has room (R381). -/
def State.drainCpl (s : State) (p : Nat) : State := s.drainN p (s.part p).cplHeld.length

/-- Forms a completion record (R380). -/
def State.formRecord (s : State) (p : Nat) (c : Cpl) : State :=
  (s.updPart p fun q => { q with cplHeld := q.cplHeld ++ [c] }).drainCpl p

/-! ### Version word and energy record (R257, R445) -/

/-- Writes a version word: the whole line as one update, STAMP the TSC of the write (R257). -/
def State.versionWord (s : State) (p : Nat) (a version : DWord) (buf : Bool) : State :=
  s.hubLine p a (bytesLine (natLe 8 version.toNat ++ natLe 8 s.time.tsc.toNat ++ natLe 1 buf.toNat))
    (BitVec.allOnes 64)

/-- Offset in the package `NRG_` block of a partition's registers. -/
def glogAt (p : Nat) : Nat := 0x100 + 0x40 * p

/-- Writes a grant's energy record where `NRG_GLOGp_CTRL.EN` is 1 (R445). -/
def State.energyRecord (s : State) (p : Nat) (g : Grant) : State :=
  let ctrl := s.reg .nrg (glogAt p + 0x28)
  if ctrl / 2 ^ 31 = 0 then s
  else
    let size := 2 ^ (ctrl / 2 ^ 16 % 32)
    let slot := ctrl % 2 ^ 16 % size
    let base := alignDown (s.regD .nrg (glogAt p + 0x20)) 32
    let s := s.hubStore p (base + BitVec.ofNat 64 (32 * slot))
      (natLe 4 g.launch.grant.toNat ++ natLe 4 g.tag.toNat ++ natLe 8 s.boundaryTsc.toNat ++ natLe 8 g.eCore ++ natLe 8 g.eMem)
    let s := if (s.part p).nrgFull then
        s.setReg .nrg (glogAt p + 0x2C) (satAdd 32 (s.reg .nrg (glogAt p + 0x2C)) 1)
      else s
    let next := (slot + 1) % size
    let s := s.setReg .nrg (glogAt p + 0x28) (ctrl / 2 ^ 16 * 2 ^ 16 + next)
    if next = 0 then s.updPart p fun q => { q with nrgFull := true } else s

/-! ### Marks of the local health word (R329, R332, R334) -/

def hNonfin : Nat := 0
def hSat : Nat := 1
def hXnonfin : Nat := 2
def hGrant : Nat := 3
def hLate : Nat := 4
def hMissing : Nat := 5
def hDigest : Nat := 6
def hCheck : Nat := 7

/-- Unit of the exchange-plan stepper that records (R337). -/
def State.planUnit (s : State) : Nat := unitPlan s.primary

/-- Sets a bit of the local word, LATE and MISSING in `XPLAN_STATUS` as well; once the word is frozen only
`HEALTH_STATUS.LATE` changes (R329, R335). -/
def State.mark (s : State) (p bit : Nat) : State :=
  s.updEx p fun x =>
    if x.frozen then { x with hLate := true }
    else { x with
      localWord := setBit x.localWord bit true, late := x.late || bit == hLate, missing := x.missing || bit == hMissing }

/-- A gradient grant's end acts on the step that it belongs to (R315, R332). -/
def State.gradEnd (s : State) (p : Nat) (g : Grant) : State :=
  let x := (s.part p).ex
  if !g.launch.grad || !(x.active || x.decided) || g.step ≠ x.step || g.start ≠ x.start then s
  else if g.fault.isSome then s.mark p hGrant
  else
    let s := if g.launch.gate < 255 then s.updEx p fun x => { x with
        gates := if x.gates.contains g.launch.gate then x.gates else x.gates ++ [g.launch.gate] } else s
    let s := if g.nf then s.mark p hNonfin else s
    if g.sat then s.mark p hSat else s

/-! ### Update grants (R349, R350, R380) -/

/-- `UPD_VERSION`. -/
def State.updVersion (s : State) (p : Nat) : DWord := s.regD (.upd p) 0x20

/-- The update record of a step (R380): 0 committed, 1 fault, 2 skipped, 3 held, 4 reverted. -/
def State.updRecord (s : State) (p decision : Nat) (step : Word) : State :=
  s.formRecord p ⟨s.boundaryTsc, 0, 6, 0, step, 0, s.updVersion p, 0, decision⟩

/-- The last grant of an update that does not commit has ended: RUNNING clears (R349, R350). -/
def State.updStop (s : State) (p : Nat) : State :=
  let u := (s.part p).upd
  let s := s.updUpd p fun u => { u with
    running := false, reverted := u.reverted || u.cancel, armed := u.armed && !u.disarmAtEnd,
    cancel := false, disarmAtEnd := false }
  let s := if u.cancel then s.count (.upd p) 0x58 1 else s
  let s := if u.runFault then s.count (.upd p) 0x50 1 else s
  s.updRecord p (if u.runFault then 1 else 4) u.runStep

/-- An entry of the update has ended: a fault keeps the update from its commit (R349). -/
def State.updEntryEnd (s : State) (p entry : Nat) (grant : Word) (fault : Bool) : State :=
  let u := (s.part p).upd
  let s := if !fault then s
    else
      (s.updUpd p fun u => { u with
        fault := true, runFault := true, entry := if u.runFault then u.entry else entry }).record s.seqUnit
        0x0F03 1 p [(0, entry), (16, grant.toNat), (64, u.runStep.toNat)]
  let s := s.updUpd p fun u => { u with ended := u.ended + 1 }
  let u := (s.part p).upd
  if u.running && (u.runFault || u.cancel) && u.entries.length ≤ u.ended then s.updStop p else s

/-! ### The end of a grant -/

/-- The completion record of a grant (R380). -/
def State.grantCpl (s : State) (g : Grant) : Cpl :=
  ⟨s.boundaryTsc, g.tag, 1, g.fault.getD 0, g.launch.grant, g.sat.toNat + 2 * g.nf.toNat, 0, 0, 0⟩

/-- A grant ends: version word, gate and health bits, energy record, completion record or second answer, and its
part in the update (R257, R315, R349, R368, R380, R445). -/
def State.completeGrant (s : State) (p : Nat) (g : Grant) : State :=
  let s := if g.fault.isNone && g.launch.vw then s.versionWord p g.launch.vwaddr g.launch.vvalue g.launch.vbuf else s
  let s := (s.gradEnd p g).energyRecord p g
  let s := s.updPart p fun q => { q with
    grants := q.grants.filter fun h => h.uid != g.uid, owed := q.owed.filter (· != .grant g.uid) }
  match g.src with
  | .priv n => if (s.host.sessions.find n).isSome then s.emit (.privDone n (s.grantCpl g)) else s
  | .table _ => s.formRecord p (s.grantCpl g)
  | .update e => (s.formRecord p (s.grantCpl g)).updEntryEnd p e g.launch.grant g.fault.isSome

/-- COMPLETION_RECORD: at a boundary, the next grant in entry order whose conditions hold gets its record (R229,
R380). -/
def execCompletionRecord (part : Nat) (s : State) : Res :=
  needUnit "partition" part 8 <|
  needSome s ((s.part part).grants.find? fun (g : Grant) => g.ready) /- no grant's conditions held at the boundary -/ fun g =>
  .next (s.completeGrant part g)

end Sys2Proof.Machine
end

