-- ==== Sys2Proof/Machine/Launch.lean ====
section
/-! DEFINITION. Launch entries (R377): their fields, their checks, and what the sequencer does when it takes one
(R213, R229, R315). -/

namespace Sys2Proof.Machine

/-! ### Reading an entry -/

/-- A field of an entry held as a number: byte, low bit, width. -/
def fieldAt (v byte lo w : Nat) : Nat := v / 2 ^ (8 * byte + lo) % 2 ^ w

/-- Bytes of an entry with its valid word. -/
def entryBytes : Nat := 128

/-- Bytes 0 to 119. -/
def entryBody (v : Nat) : Nat := v % 2 ^ 960

/-- TAG, TYPE, PHASE and reserved bits of the valid word (R375). -/
def entryTag (v : Nat) : Word := BitVec.ofNat 32 (fieldAt v 120 0 32)
def entryType (v : Nat) : Nat := fieldAt v 124 0 4
def entryPhase (v : Nat) : Bool := fieldAt v 125 0 1 == 1
def entryValid (v : Nat) : Bool := entryType v ≤ 3 && fieldAt v 124 4 4 == 0 && fieldAt v 125 1 23 == 0

/-- The fields of a LAUNCH entry (R377). -/
def launchOf (v : Nat) : Launch where
  grant := BitVec.ofNat 32 (fieldAt v 0 0 32)
  gx := fieldAt v 4 0 32 + 1
  gy := fieldAt v 8 0 16 + 1
  gz := fieldAt v 10 0 16 + 1
  groups := fieldAt v 12 0 5 + 1
  rpt := 8 * (fieldAt v 13 0 5 + 1)
  pages := fieldAt v 14 0 9
  csize := fieldAt v 16 0 4 + 1
  grad := fieldAt v 17 0 1 == 1
  priv := fieldAt v 17 1 1 == 1
  vw := fieldAt v 17 2 1 == 1
  after := fieldAt v 17 3 1 == 1
  gate := fieldAt v 18 0 8
  wdog := fieldAt v 20 0 32
  entry := BitVec.ofNat 64 (fieldAt v 24 0 64)
  args := BitVec.ofNat 64 (fieldAt v 32 0 64)
  vwaddr := BitVec.ofNat 64 (fieldAt v 40 0 64)
  vvalue := BitVec.ofNat 64 (fieldAt v 48 0 64)
  vbuf := fieldAt v 56 0 1 == 1

/-- The bits of bytes 0 to 119 that the fields of a LAUNCH entry hold. -/
def launchUsed (v : Nat) : Nat :=
  ([(0, 0, 32), (4, 0, 32), (8, 0, 16), (10, 0, 16), (12, 0, 5), (13, 0, 5), (14, 0, 9), (16, 0, 4), (17, 0, 4),
    (18, 0, 8), (20, 0, 32), (24, 0, 64), (32, 0, 64), (40, 0, 64), (48, 0, 64), (56, 0, 1)].map
      fun (f : Nat × Nat × Nat) => fieldAt v f.1 f.2.1 f.2.2 * 2 ^ (8 * f.1 + f.2.1)).sum

/-- Blocks of a grant. -/
def Launch.blocks (l : Launch) : Nat := l.gx * l.gy * l.gz

/-- The reason for which a LAUNCH entry is rejected: the first failing row of R377, then any other bit. `priv` is a
PRIVLAUNCH message (R368). -/
def State.checkLaunch (s : State) (p v : Nat) (priv : Bool) : Option Nat :=
  let l := launchOf v
  if fieldAt v 13 0 5 = 0 then some 0x1001
  else if 65536 < l.groups * 32 * l.rpt then some 0x1002
  else if 256 < l.pages then some 0x1001
  else if l.blocks % l.csize ≠ 0 then some 0x1003
  else if l.priv && !priv then some 0x1005
  else if if l.grad then 254 < l.gate else l.gate ≠ 0 then some 0x1006
  else if l.wdog ≠ 0 ∧ (l.wdog < 16 ∨ 1048576 < l.wdog) then some 0x1001
  else if l.entry.toNat % 8 ≠ 0 || !s.inRanges p l.entry 8 then some 0x1004
  else if priv && !s.inRanges p l.args 1 then some 0x100A
  else if if l.vw then l.vwaddr.toNat % 64 ≠ 0 || !s.inHbm p l.vwaddr 64 else l.vwaddr ≠ 0 then some 0x1007
  else if launchUsed v ≠ entryBody v then some 0x1008
  else none

/-! ### Taking an entry -/

/-- Every read cache of the partition is invalidated, and no fill under way enters one (R213). -/
def State.dropReadCaches (s : State) (p : Nat) : State :=
  (s.coresOf p).foldl (fun s c => s.updCore c fun k => { k with
    rc := [], ni := k.ni.mapAll fun (e : NiEntry) => { e with cache := none } }) s

/-- Grants outstanding that stop the sequencer (R376). -/
def grantLimit : Nat := 1024

/-- The sequencer takes a launch entry: its grant starts, of the step that is current (R213, R315, R376). -/
def State.startGrant (s : State) (p : Nat) (l : Launch) (tag : Word) (src : GrantSrc) : State :=
  let x := (s.part p).ex
  let g : Grant := ⟨(s.part p).nextUid, l, tag, src, 0, 0, 0, false, false, none, x.step, x.start, false, 0, 0⟩
  (s.updPart p fun q => { q with
    grants := q.grants ++ [g], owed := q.owed ++ [.grant g.uid], nextUid := q.nextUid + 1 }).dropReadCaches p

/-- A rejected entry: counted and recorded (R377, R386). -/
def State.rejected (s : State) (p slot reason : Nat) (tag : Word) : State :=
  (s.count (.cmdt p) 0x48 1).record s.seqUnit 0x1004 0 p [(0, reason), (16, slot), (32, tag.toNat)]

/-- An update's launches are due and not all taken (R348). -/
def State.updDue (s : State) (p : Nat) : Bool :=
  let u := (s.part p).upd
  u.running && u.launched < u.entries.length && u.launchBeat ≤ s.beatNo

/-- The sequencer takes the privileged grants that are due, after an update's launches and ahead of the command
table, as far as outstanding grants allow (R368). -/
def State.takePriv (s : State) (p : Nat) : State :=
  let q := s.part p
  if s.updDue p || q.st != .running then s
  else
    let room := grantLimit - q.grants.length
    let due := (q.priv.filter fun w => w.due ≤ s.beatNo).take room
    let s := s.updPart p fun q => { q with priv := q.priv.drop due.length }
    due.foldl (fun s (w : PrivWait) => (s.startGrant p w.launch w.tag (.priv w.sess)).count (.cmdt p) 0x40 1) s

end Sys2Proof.Machine
end

