-- ==== Sys2Proof/Machine/Update.lean ====
section
/-! DEFINITION. The parameter update (chapter 15): arming the table (R344, R345), the decision and its argument
blocks (R346, R347), bias correction (R343), launches (R348), commit (R349) and revert (R350, R351). -/

namespace Sys2Proof.Machine

/-! ### Parameter groups (R341 to R343) -/

def pgWord (s : State) (p n o : Nat) : Word := s.regWord ((Blk.pgrp p).base + 0x40 * n + o)

/-- The values of a group that a step boundary latches (R341). -/
def State.pgLatch (s : State) (p n : Nat) : PgLatch where
  lr := pgWord s p n 0x00
  decay := pgWord s p n 0x04
  beta1 := pgWord s p n 0x08
  beta2 := pgWord s p n 0x0C
  eps := pgWord s p n 0x10
  ctrl := pgWord s p n 0x14
  seed := BitVec.ofNat 64 ((pgWord s p n 0x20).toNat + 2 ^ 32 * (pgWord s p n 0x24).toNat)
  stream := pgWord s p n 0x28

/-- Every group's values are latched at a step boundary (R341). -/
def State.latchGroups (s : State) (p : Nat) : State :=
  s.updUpd p fun u => { u with latched := (List.range 64).map fun n => (n, s.pgLatch p n) }

/-- T of a group. -/
def State.pgT (s : State) (p n : Nat) : Nat := (pgWord s p n 0x18).toNat

/-- T + 1, saturating (R342). -/
def nextT (t : Nat) : Nat := if t = ones32 then ones32 else t + 1

/-- |β|^t for β = m·2^e as n/2^k, exact, in two cases replaced by a number that 1 − β^t cannot tell from it in FP32:
where (1 − |β|)·t is at least 26 the power is below e^−26 and stands as 0 (1 ∓ e^−26 rounds to 1); where
min (|β| − 1, 1)·t is at least 129 it is at least 2^129 and stands as 2^129 (both overflow). -/
def betaPow (m : Nat) (e : Int) (t : Nat) : Nat × Nat :=
  let g := Nat.gcd m (2 ^ 24)
  let m := m / g
  let e := e + (Nat.log2 g : Int)
  let d := if 0 ≤ e then 1 else 2 ^ (-e).toNat
  let v := if 0 ≤ e then m * 2 ^ e.toNat else m
  if v < d ∧ 26 * d ≤ (d - v) * t then (0, 0)
  else if d < v ∧ 129 * d ≤ min (v - d) d * t then (2 ^ 129, 0)
  else (v ^ t, if 0 ≤ e then 0 else (-e).toNat * t)

/-- 1 − β^t, exact and rounded once to FP32 (R343). -/
def biasC (beta : Word) (t : Nat) : Word :=
  let v : FVal := match fp32.decode beta.toNat with
    | .nan => .nan
    | .inf neg => .inf !(neg && t % 2 == 1)
    | .fin neg m e =>
      let (n, k) := betaPow m e t
      let p : Int := (if neg && t % 2 == 1 then -1 else 1) * (n : Int)
      FVal.ofInt (((2 ^ k : Nat) : Int) - p) (-(k : Int))
  BitVec.ofNat 32 (fp32.result v).1

/-! ### Arming (R344, R345) -/

/-- Device address of an update-table entry. -/
def State.updEntryAt (s : State) (p i : Nat) : DWord :=
  alignDown (s.regD (.upd p) 0x08) 32 + BitVec.ofNat 64 (32 * i)

/-- The version word's address: bits [5:0] are taken as zero. -/
def State.updVword (s : State) (p : Nat) : DWord := alignDown (s.regD (.upd p) 0x18) 64

/-- A range lies in the partition's memory and can be read. -/
def State.hubReadable (s : State) (p : Nat) (a : DWord) (n : Nat) : Bool := s.inRanges p a n && !s.hubPoisoned p a n

/-- The launch entry at an address passes the sequencer's checks for an update grant (R345, R377): TYPE and the reserved bits
of the valid word, the rows of R377's table and the other bits of bytes 0 to 119. TAG and PHASE belong to the command ring
and are not looked at (notes/assumptions/61). -/
def State.updLaunchOk (s : State) (p : Nat) (a : DWord) : Bool :=
  s.hubReadable p a entryBytes &&
    (let v := s.hubNat p a entryBytes
     entryValid v && (s.checkLaunch p v false).isNone && !(launchOf v).grad && !(launchOf v).vw)

/-- Entry `i` of the update table, given the ARGS of the entries before it; none where it fails a check. -/
def State.updEntry (s : State) (p i : Nat) (seen : List DWord) : Option UpdEntry :=
  let a := s.updEntryAt p i
  if !s.hubReadable p a 32 then none
  else
    let v := s.hubNat p a 32
    let e : UpdEntry := ⟨BitVec.ofNat 64 (fieldAt v 0 0 64), BitVec.ofNat 64 (fieldAt v 8 0 64), fieldAt v 16 0 6⟩
    if v / 2 ^ (8 * 16 + 6) ≠ 0 then none
    else if e.launch.toNat % 64 ≠ 0 || e.args.toNat % 64 ≠ 0 || !s.inRanges p e.args 64 then none
    else if seen.contains e.args || !s.updLaunchOk p e.launch then none
    else some e

/-- The table's entries from `i` on: all of them, or the number of the first that fails. -/
def State.updTable (s : State) (p : Nat) : Nat → Nat → List UpdEntry → Except Nat (List UpdEntry)
  | 0, _, acc => .ok acc
  | n + 1, i, acc => match s.updEntry p i (acc.map (·.args)) with
    | none => .error i
    | some e => State.updTable s p n (i + 1) (acc ++ [e])

/-- The check of R345: the table, or the ENTRY of its failure. -/
def State.updCheck (s : State) (p : Nat) : Except Nat (List UpdEntry) :=
  let n := s.reg (.upd p) 0x10
  if n = 0 ∨ 1024 < n then .error 0xFFFF
  else match s.updTable p n 0 [] with
    | .error i => .error i
    | .ok es => if s.inHbm p (s.updVword p) 64 then .ok es else .error 0xFFFF

/-- Writes the partition's version word (R340). -/
def State.writeVword (s : State) (p : Nat) : State :=
  let v := s.updVersion p
  s.versionWord p (s.updVword p) v (v.getLsbD 0)

/-- ARM written 1: the table is checked, and one that passes is in force (R345). -/
def State.updArm (s : State) (p : Nat) : State :=
  if (s.part p).upd.armed then s
  else match s.updCheck p with
    | .error i => (s.updUpd p fun u => { u with badEntry := true, entry := i }).record s.seqUnit 0x0F06 0 p [(0, i)]
    | .ok es =>
      let s := (s.updUpd p fun u => { u with badEntry := false, armed := true, entries := es }).writeVword p
      (List.range 64).foldl (fun s n => s.setReg (.pgrp p) (0x40 * n + 0x1C) (s.pgT p n)) s

/-- ARM written 0 (R345, R350). -/
def State.updDisarm (s : State) (p : Nat) : State :=
  s.updUpd p fun u =>
    if u.running then { u with cancel := true, disarmAtEnd := true } else { u with armed := false }

/-- REVERT written 1 (R350). -/
def State.updRevertWrite (s : State) (p : Nat) : State :=
  let u := (s.part p).upd
  if u.running then s.updUpd p fun u => { u with cancel := true }
  else if u.committed then s.updUpd p fun u => { u with revertPend := some (s.beatNo + 1) }
  else s.record s.seqUnit 0x0F05 0 p [(0, s.viewUpd p 0x28)]

/-! ### Revert (R351) -/

/-- Sets `UPD_VERSION` and writes the version word. -/
def State.setVersion (s : State) (p : Nat) (v : DWord) : State := (s.setReg64 (.upd p) 0x20 v.toNat).writeVword p

/-- The revert undoes the last commit (R351). -/
def State.revertNow (s : State) (p : Nat) : State :=
  let s := s.setVersion p (s.updVersion p - 1)
  let s := (s.part p).upd.advanced.foldl (fun s n =>
    s.setReg (.pgrp p) (0x40 * n + 0x18) (pgWord s p n 0x1C).toNat) s
  let s := s.updUpd p fun u => { u with committed := false, reverted := true, advanced := [], revertPend := none }
  (s.count (.upd p) 0x58 1).record s.seqUnit 0x0F04 0 p [(0, (s.updVersion p).toNat)]

/-- A revert that is due goes before what else this boundary does to the update (R350). -/
def State.revertFirst (s : State) (p : Nat) : State :=
  match (s.part p).upd.revertPend with
  | some b => if b ≤ s.beatNo then s.revertNow p else s
  | none => s

/-- REVERT: the revert that was asked for runs at its boundary (R350, R351). -/
def execRevert (part : Nat) (s : State) : Res :=
  needUnit "partition" part 8 <|
  needSome s (s.part part).upd.revertPend /- no revert is due -/ fun b =>
  need s (b ≤ s.beatNo) /- the revert runs at the next beat boundary -/ <|
  .next (s.revertNow part)

/-! ### Decision (R346, R347) -/

/-- The decision clears the bits of the last one and names its step (R346). -/
def State.updClear (s : State) (p : Nat) (step : Word) : State :=
  s.updUpd p fun u => { u with
    committed := false, skipped := false, fault := false, reverted := false, held := false, late := false, step := step }

/-- No update follows: 0 not clean, 1 unsure, 2 held, 3 abandoned (R346, R352, R380). -/
def State.updSkip (s : State) (p why : Nat) : State :=
  let step := (s.part p).upd.step
  let s := s.updUpd p fun u => if why = 2 then { u with held := true } else { u with skipped := true }
  let s := (s.count (.upd p) 0x48 1).record s.seqUnit 0x0F02 0 p [(64, step.toNat), (96, why)]
  s.updRecord p (if why = 2 then 3 else 2) step

/-- A step is abandoned before its decision (R314, R346). -/
def State.updAbandon (s : State) (p : Nat) (step : Word) : State := ((s.revertFirst p).updClear p step).updSkip p 3

/-- The 64 bytes of an argument block (R347). -/
def argBlock (step : Word) (t : Nat) (version : DWord) (group : Nat) (v : PgLatch) : Line :=
  let interval := bits v.ctrl 15 0
  bytesLine (natLe 4 step.toNat ++ natLe 4 t ++ natLe 8 version.toNat ++ natLe 4 v.lr.toNat ++ natLe 4 v.decay.toNat
    ++ natLe 4 v.beta1.toNat ++ natLe 4 v.beta2.toNat ++ natLe 4 v.eps.toNat ++ natLe 4 (biasC v.beta1 t).toNat
    ++ natLe 4 (biasC v.beta2 t).toNat ++ natLe 2 interval ++ natLe 2 (if interval = 0 then 0 else t % interval)
    ++ natLe 1 (bits v.ctrl 23 16) ++ natLe 1 (version.toNat % 2) ++ natLe 1 group ++ natLe 1 0
    ++ natLe 4 v.stream.toNat ++ natLe 8 v.seed.toNat)

def noLatch : PgLatch := ⟨0, 0, 0, 0, 0, 0, 0, 0⟩

/-- A clean decision with the table armed: T′ of each named group, with TSAT and its event the first time that it is
saturated, the argument blocks, RUNNING (R342, R346, R347). The launches follow at the next boundary (R348). -/
def State.updRun (s : State) (p : Nat) : State :=
  let u := (s.part p).upd
  let groups := (u.entries.map (·.group)).eraseDups
  let tnew : Tab Nat := groups.foldl (fun (t : Tab Nat) n => t.put n (nextT (s.pgT p n))) []
  let version := s.updVersion p + 1
  let sat := groups.filter fun n => tnew.get n 0 == ones32 && !u.tsat.contains n
  let s := sat.foldl (fun s n => s.record s.seqUnit 0x0F08 0 p [(0, n)]) s
  let s := u.entries.foldl (fun s (e : UpdEntry) =>
    s.hubLine p e.args (argBlock u.step (tnew.get e.group 0) version e.group (u.latched.get e.group noLatch))
      (BitVec.allOnes 64)) s
  s.updUpd p fun u => { u with
    running := true, tsat := u.tsat ++ sat, tnew := tnew, launched := 0, ended := 0, cancel := false, disarmAtEnd := false,
    launchBeat := s.beatNo + 1, runStep := u.step, runFault := false }

/-- What the decision of a step means for the update (R346). -/
def State.updDecide (s : State) (p : Nat) (step : Word) (clean unsure : Bool) : State :=
  let s := (s.revertFirst p).updClear p step
  let u := (s.part p).upd
  if unsure then s.updSkip p 1
  else if !clean then s.updSkip p 0
  else if !u.armed || s.reg (.upd p) 0 / 4 % 2 == 0 then s.updSkip p 2
  else if u.running then s
  else s.updRun p

/-! ### Launch and commit (R348, R349) -/

/-- The sequencer takes entry `i` of the update; an entry that no longer passes its checks ends with a fault. -/
def State.updTake (s : State) (p i : Nat) (e : UpdEntry) : State :=
  let s := (s.updUpd p fun u => { u with launched := u.launched + 1 }).count (.cmdt p) 0x40 1
  if !s.updLaunchOk p e.launch then s.updEntryEnd p i 0 true
  else
    let v := s.hubNat p e.launch entryBytes
    s.startGrant p { launchOf v with args := e.args } (entryTag v) (.update i)

/-- UPDATE_LAUNCH: at the boundary after the decision, the update's launches are taken in table order, as far as
outstanding grants allow (R348, R376). -/
def execUpdateLaunch (part : Nat) (s : State) : Res :=
  needUnit "partition" part 8 <|
  let u := (s.part part).upd
  need s u.running /- no update runs -/ <|
  need s (u.launched < u.entries.length) /- every launch has been taken -/ <|
  need s (u.launchBeat ≤ s.beatNo) /- the launches are taken at the boundary after the decision -/ <|
  need s ((s.part part).st == .running) /- the partition is not RUNNING -/ <|
  let room := grantLimit - (s.part part).grants.length
  let due := ((List.range u.entries.length).zip u.entries).drop u.launched
  .next (((due.take room).foldl (fun s (e : Nat × UpdEntry) => s.updTake part e.1 e.2) s).takePriv part)

/-- A commit advances a group named by the table, once (R342). -/
def State.advance (s : State) (p n t : Nat) : State :=
  let old := s.pgT p n
  (s.setReg (.pgrp p) (0x40 * n + 0x1C) old).setReg (.pgrp p) (0x40 * n + 0x18) t

/-- UPDATE_COMMIT: every update grant has ended; the new version is committed, or an update that was cancelled
ends (R349, R350). -/
def execUpdateCommit (part : Nat) (s : State) : Res :=
  needUnit "partition" part 8 <|
  let u := (s.part part).upd
  need s u.running /- no update runs -/ <|
  need s (u.entries.length ≤ u.ended) /- update grants are still running -/ <|
  if u.runFault || u.cancel then .next (s.updStop part)
  else
    let s := s.setVersion part (s.updVersion part + 1)
    let s := u.tnew.foldl (fun s (e : Nat × Nat) => s.advance part e.1 e.2) s
    let s := s.updUpd part fun u => { u with running := false, committed := true, advanced := u.tnew.map (·.1) }
    let s := (s.count (.upd part) 0x40 1).record s.seqUnit 0x0F01 0 part
      [(0, (s.updVersion part).toNat), (64, u.runStep.toNat)]
    .next (s.updRecord part 0 u.runStep)

end Sys2Proof.Machine
end

