-- ==== Sys2Proof/Machine/Exchange.lean ====
section
/-! DEFINITION. The gradient exchange (chapter 14): the plan and its arming (R317 to R319), steps (R314), sending
(R320 to R322), landing and reducing (R323 to R326), marks (R329), digests and the check (R330, R331), and the
health word (R332 to R336). -/

namespace Sys2Proof.Machine

/-! ### Entries (R317) -/

def opSend : Nat := 1
def opReduce : Nat := 2
def opHup : Nat := 3
def opHdown : Nat := 4
def opRecv : Nat := 5

/-- Elements of a frame (R320). -/
def frameElems : Nat := 248

/-- Frames of an entry. -/
def PlanEntry.frames (e : PlanEntry) : Nat := ceilDiv e.elems frameElems

/-- Beats for which an entry runs. -/
def PlanEntry.beats (e : PlanEntry) : Nat := if e.fpb = 0 then 0 else ceilDiv e.frames e.fpb

/-- Frames of beat `j`. -/
def PlanEntry.framesOf (e : PlanEntry) (j : Nat) : List Nat :=
  (List.range e.fpb).filterMap fun i => if e.fpb * j + i < e.frames then some (e.fpb * j + i) else none

/-- Elements of frame `k`. -/
def PlanEntry.elemsOf (e : PlanEntry) (k : Nat) : Nat := min frameElems (e.elems - frameElems * k)

/-- A plan entry out of its 32 bytes. -/
def planEntryOf (v : Nat) : PlanEntry :=
  ⟨fieldAt v 0 0 32, fieldAt v 4 0 32, fieldAt v 8 0 4, fieldAt v 9 0 8, fieldAt v 10 0 11, fieldAt v 12 0 8,
    fieldAt v 13 0 8, fieldAt v 14 0 16, BitVec.ofNat 64 (fieldAt v 16 0 64), BitVec.ofNat 64 (fieldAt v 24 0 64)⟩

/-! ### Neighbours (R298, R299, R321) -/

/-- A TARGET that names a neighbour: near with d from 1 to 7, or far with a direction. -/
def targetOk (t : Nat) : Bool := if nbit t 3 then t / 4 % 2 == 0 && t < 16 else 1 ≤ t && t < 8

/-- The links to a target: the four near links of its distance, or the eight far links of its direction. -/
def targetLinks (t : Nat) : List Nat :=
  if nbit t 3 then (List.range 8).map fun n => 32 + 4 * n + t % 4
  else (List.range 32).filter fun l => (l / 4 + l % 4) % 8 == t % 8

/-- The package that a target names; none where the torus has one group in its dimension. -/
def State.targetPkg (s : State) (t : Nat) : Option Nat :=
  if !targetOk t then none
  else match targetLinks t with
    | l :: _ =>
      if nbit t 3 && (if t % 4 < 2 then s.torusX == 1 else s.torusY == 1) then none else some (s.peerOfLink l).1
    | [] => none

/-- The links to a target that are UP, lowest first. -/
def State.upLinks (s : State) (t : Nat) : List Nat := (targetLinks t).filter fun l => (s.link l).st == .up

/-! ### Arming (R318, R319) -/

def State.planBase (s : State) (p : Nat) : DWord := alignDown (s.regD (.xplan p) 0x08) 64
def State.listBase (s : State) (p : Nat) : DWord := alignDown (s.regD (.xplan p) 0x18) 4
def State.planCount (s : State) (p : Nat) : Nat := s.reg (.xplan p) 0x10 % 2 ^ 16
def State.listCount (s : State) (p : Nat) : Nat := s.reg (.xplan p) 0x10 / 2 ^ 16

/-- Word `i` of the contributor list, where it can be read. -/
def State.listWord (s : State) (p i : Nat) : Option Nat :=
  let a := s.listBase p + BitVec.ofNat 64 (4 * i)
  if s.listCount p ≤ i || !s.hubReadable p a 4 then none else some (s.hubNat p a 4 % 2 ^ 14)

/-- The contributor list of an entry; none where a word of it cannot be read. -/
def State.listOf (s : State) (p : Nat) (e : PlanEntry) : Option (List Nat) :=
  (List.range e.nc).mapM fun i => s.listWord p (e.link + i)

def ascending : List Nat → Bool
  | [] => true
  | [_] => true
  | a :: b :: l => a < b && ascending (b :: l)

/-- A 64-byte-aligned range of the partition's memory. -/
def State.planRange (s : State) (p : Nat) (a : DWord) (n : Nat) : Bool := a.toNat % 64 == 0 && s.inRanges p a n

/-- The peer table lists a package. -/
def State.lists (s : State) (p pkg : Nat) : Bool := (s.part p).peers.any fun e => e.pkg == pkg

/-- The fields that an entry's OP does not use are zero, and no reserved bit is set. -/
def planFieldsOk (v : Nat) : Bool :=
  let e := planEntryOf v
  let send := e.op == opSend
  let land := e.op == opReduce || e.op == opRecv
  let moves := send || land
  let beat := moves || e.op == opHup || e.op == opHdown
  e.op ≤ 5 && fieldAt v 8 4 4 == 0 && fieldAt v 11 3 5 == 0 &&
    (beat || e.offset == 0) && (moves || e.elems == 0) && (send || e.gate == 0) && (moves || e.fpb == 0) &&
    ((beat && !land) || e.target == 0) && (land || e.nc == 0) && (moves || e.link == 0) && (moves || e.addr == 0) &&
    (land || e.land == 0)

/-- An entry passes the checks of R319. -/
def State.planEntryOk (s : State) (p v : Nat) : Bool :=
  let e := planEntryOf v
  let own := s.pkgIdNat
  planFieldsOk v &&
    (if e.op = opSend then 1 ≤ e.fpb && e.fpb ≤ (if nbit e.target 3 then 1344 else 576) else true) &&
    (if e.op = opSend ∨ e.op = opHup ∨ e.op = opHdown then
      match s.targetPkg e.target with
      | some q => s.lists p q
      | none => false
    else true) &&
    (if e.op = opReduce ∨ e.op = opRecv then
      1 ≤ e.fpb && e.fpb ≤ 1344 && (if e.op = opReduce then 2 ≤ e.nc && e.nc ≤ 12 else e.nc == 1) &&
        (match s.listOf p e with
         | none => false
         | some ids => ascending ids && (e.op != opReduce || ids.contains own) &&
             ids.all fun q => (e.op == opReduce && q == own) || s.lists p q) &&
        s.planRange p e.land (4 * e.nc * e.fpb * 1024)
    else true) &&
    (if e.op = opSend ∨ e.op = opReduce ∨ e.op = opRecv then s.planRange p e.addr (4 * e.elems) else true)

/-- Reservations asked for: the dies of the partition with EN set, and their local index. -/
def State.resWanted (s : State) (p : Nat) : List (Nat × Nat) :=
  (s.diesOf p).filterMap fun d =>
    let r := s.reg (.xplan p) (0x40 + 4 * d)
    if 2 ^ 31 ≤ r then some (d, r % 256) else none

/-- The number of the plan's first failing entry, 0xFFFF where the failure concerns none (R319). -/
def State.planFault (s : State) (p : Nat) : Option Nat :=
  let at' (i : Nat) : DWord := s.planBase p + BitVec.ofNat 64 (32 * i)
  let bad := (List.range (s.planCount p)).find? fun i =>
    !s.hubReadable p (at' i) 32 || !s.planEntryOk p (s.hubNat p (at' i) 32)
  let unreadable := (List.range (s.listCount p)).any fun i => (s.listWord p i).isNone
  let vacant := (s.resWanted p).any fun r => 160 ≤ r.2 || (s.physOf (160 * r.1 + r.2)).isNone
  match bad with
  | some i => some i
  | none => if unreadable || vacant then some 0xFFFF else none

/-- ARM written 1: the plan is checked; one that passes waits for its reserved cores to hold no block (R319). -/
def State.planArm (s : State) (p : Nat) : State :=
  if (s.part p).ex.armed || (s.part p).ex.armPend then s
  else match s.planFault p with
    | some i => (s.updEx p fun x => { x with badEntry := true, entry := i }).record s.planUnit 0x0E03 0 p [(0, i)]
    | none =>
      let plan := (List.range (s.planCount p)).map fun i =>
        planEntryOf (s.hubNat p (s.planBase p + BitVec.ofNat 64 (32 * i)) 32)
      let ids := (List.range (s.listCount p)).map fun i => (s.listWord p i).getD 0
      s.updEx p fun x => { x with
        badEntry := false, entry := x.recorded.head?.getD 0, armPend := true, plan := plan, lists := ids }

/-- The reserved cores of a plan that is armed or about to be: no block is admitted to them (R319). -/
def State.heldForPlan (s : State) (c : Nat) : Bool :=
  (List.range 8).any fun p =>
    let x := (s.part p).ex
    (s.resWanted p).any fun r => 160 * r.1 + r.2 == c &&
      (x.armPend || x.armed && (x.res.get r.1 Resv.fresh).active)

/-- XPLAN_ARMED: every reserved core holds no block, and the plan is armed (R319). -/
def execXplanArmed (part : Nat) (s : State) : Res :=
  needUnit "partition" part 8 <|
  need s (s.part part).ex.armPend /- no plan waits to be armed -/ <|
  need s ((s.resWanted part).all fun r => (s.core (160 * r.1 + r.2)).blocks.isEmpty) /- a reserved core holds a block -/ <|
  let old := (s.part part).ex.res
  let res : Tab Resv := (s.resWanted part).foldl (fun (t : Tab Resv) r =>
    t.put r.1 ⟨true, 0, (old.get r.1 Resv.fresh).level⟩) (old.mapAll fun (r : Resv) => { r with active := false })
  .next (s.updEx part fun x => { x with armPend := false, armed := true, res := res })

/-- ARM written 0: the plan is disarmed and the current step abandoned (R314, R319). -/
def State.planDisarm (s : State) (p : Nat) : State :=
  let x := (s.part p).ex
  let s := s.updEx p fun x => { x with
    armed := false, armPend := false, plan := [], lists := [], active := false,
    res := x.res.mapAll fun (r : Resv) => { r with active := false } }
  if x.active then s.updAbandon p x.step else s

/-! ### Reservations (R326 to R328, R438) -/

/-- Dies whose reservations are active, ascending. -/
def State.activeRes (s : State) (p : Nat) : List Nat :=
  let x := (s.part p).ex
  if x.armed then (x.res.filter fun r => r.2.active).map (·.1) else []

/-- Withdraws a reservation: 1 cinch, 2 budget, 3 vacant (R328). -/
def State.withdraw (s : State) (p d why : Nat) : State :=
  let x := (s.part p).ex
  if !(x.res.get d Resv.fresh).active then s
  else
    (s.updEx p fun x => { x with res := x.res.upd d Resv.fresh fun r => { r with active := false, why := why } }).record
      s.planUnit 0x0E08 1 p [(0, d), (3, why)]

/-- Unit of the cinch controller that decides (R446). -/
def State.cinchUnit (s : State) : Nat := unitCinch s.primary

/-- Counts the one controller's counts: in the deciding hub's block, which the other hub's shows too (R432, R434). -/
def State.cinchCount (s : State) (o n : Nat) : State :=
  let s := s.count (.cinch s.primary) o n
  s.setReg64 (.cinch (1 - s.primary)) o (s.reg64 (.cinch s.primary) o)

/-- The cinch controller withdraws one reservation at a step boundary, never the last (R327, R438); the lowest die's
(notes/assumptions/60). -/
def State.cinchWithdraw (s : State) (p : Nat) : State :=
  match s.activeRes p with
  | d :: _ :: _ => ((s.withdraw p d 1).record s.cinchUnit 0x1303 1 p [(0, d), (4, p)]).cinchCount 0x38 1
  | _ => s

/-! ### Late and missing (R329) -/

/-- An event of an entry: the first of the step is recorded, and the first such entry shows in ENTRY. -/
def State.entryEvent (s : State) (p code i : Nat) (fs : List (Nat × Nat)) : State :=
  let x := (s.part p).ex
  if x.recorded.contains i then s
  else
    (s.updEx p fun x => { x with
      entry := if x.recorded.isEmpty && !x.badEntry then i else x.entry, recorded := x.recorded ++ [i] }).record
      s.planUnit code 1 p fs

/-- A beat of an entry is late; `XPLAN_LATEBEATS` counts it once. -/
def State.lateBeat (s : State) (p i off : Nat) : State :=
  let s := s.mark p hLate
  let s := if (s.part p).ex.lateBeats.contains (i, off) then s
    else (s.updEx p fun x => { x with lateBeats := x.lateBeats ++ [(i, off)] }).count (.xplan p) 0x90 1
  s.entryEvent p 0x0E01 i [(0, i), (16, off)]

/-- A contribution of an entry's beat is missing; `src` is its sender. -/
def State.missBeat (s : State) (p i off src : Nat) : State :=
  (s.mark p hMissing).entryEvent p 0x0E02 i [(0, i), (16, src), (32, off)]

/-! ### The step boundary (R314) -/

/-- The step's fields as a step boundary leaves them (R314). -/
def Exch.newStep (x : Exch) (step : Word) (start : DWord) (decide : Nat) : Exch := { x with
  step := step, start := start, active := true, decided := false, stepPend := none, gates := [], localWord := 0,
  frozen := false, frozenWord := 0, final := none, hups := [], clean := false, unsure := false, hLate := false,
  late := false, missing := false, badEntry := false, entry := 0, recorded := [], lateBeats := [], finalBeat := 0, txDigest := [], rxDigest := [],
  sentDigest := [], mismatch := false, checkFail := false, misSrc := 0, misEntry := 0, got := [], skipped := [],
  beatsDone := [], wrote := [], decideOff := decide, spent := false, resPend := [] }

/-- Reservations leak at a step boundary, and those whose budget was exceeded are withdrawn (R409, R410, R328). -/
def State.stepReservations (s : State) (p : Nat) : State :=
  let x := (s.part p).ex
  let drawn := s.cinch.overdraw || x.overStep
  let s := s.updEx p fun x => { x with
    overStep := false
    res := x.res.mapAll fun (r : Resv) => if r.active then { r with level := r.level - 1 } else r }
  let s := x.resPend.foldl (fun s r => s.withdraw p r.1 r.2) s
  if drawn then s.cinchWithdraw p else s

/-- STEP_BOUNDARY: the boundary after a write of `XPLAN_START_HI` (R314, R341, R350). -/
def execStepBoundary (part : Nat) (s : State) : Res :=
  needUnit "partition" part 8 <|
  needSome s (s.part part).ex.stepPend /- no new step is due -/ fun b =>
  need s (b ≤ s.beatNo) /- the step begins at the next beat boundary -/ <|
  let x := (s.part part).ex
  let s := if x.active then s.updAbandon part x.step else s
  let step := s.regWord ((Blk.xplan part).base + 0x20)
  let start := s.regD (.xplan part) 0x28
  let s := (s.stepReservations part).latchGroups part
  let s := s.updEx part fun x => x.newStep step start (s.reg (.health part) 0)
  let s := { s with cinch := { s.cinch with spent := false } }
  let s := if start.toNat < b + 2 || !s.inSync then s.mark part hLate else s
  .next (if (s.part part).upd.running then
      ((s.updUpd part fun u => { u with late := true }).mark part hLate).record s.seqUnit 0x0F07 1 part
        [(64, step.toNat)]
    else s)

/-! ### Where a beat stands -/

/-- Beats since the start beat; none before it or while no step runs. -/
def State.stepBeat (s : State) (p : Nat) : Option Nat :=
  let x := (s.part p).ex
  if x.current && x.start.toNat ≤ s.beatNo then some (s.beatNo - x.start.toNat) else none

/-- The beat of an entry that runs now, delayed by `shift` beats. -/
def State.entryBeat (s : State) (p : Nat) (e : PlanEntry) (shift : Nat) : Option Nat :=
  match s.stepBeat p with
  | none => none
  | some x => if e.offset + shift ≤ x ∧ x - (e.offset + shift) < e.beats then some (x - (e.offset + shift)) else none

/-- What an entry has done of a beat: 0 its frames or sums, 1 its check. -/
def State.doBeat (s : State) (p i j what : Nat) : State :=
  s.updEx p fun x => { x with beatsDone := x.beatsDone ++ [(i, j, what)] }

/-! ### Digests (R330) -/

/-- CRC-64/XZ of one more byte. -/
def crc64Byte (c : Nat) (b : Byte) : Nat :=
  (List.range 8).foldl (fun c _ => if c % 2 = 1 then Nat.xor (c / 2) 0xC96C5795D7870F42 else c / 2)
    (Nat.xor c b.toNat)

/-- CRC-64/XZ (R330). -/
def crc64 (bs : List Byte) : DWord := BitVec.ofNat 64 (Nat.xor (bs.foldl crc64Byte (2 ^ 64 - 1)) (2 ^ 64 - 1))

/-- A frame's share of its entry's digest. -/
def frameDigest (k : Nat) (payload : List Byte) : DWord := crc64 (natLe 4 k ++ payload)

/-! ### Sending (R320 to R322) -/

/-- Exchange frames that a link carries in a beat (R321). -/
def Link.exLimit (k : Link) : Nat := if popCount 4 k.lanes.toNat = 4 then 192 else if popCount 4 k.lanes.toNat = 3 then 144 else 0

/-- Sends an exchange frame on a link. -/
def State.sendExch (s : State) (p l pkg : Nat) (b : ExchBody) : State :=
  (s.updLink l fun k => { k with exSent := k.exSent + 1 }).sendOn l
    ⟨0, false, pkg, s.pkgIdNat, s.peerPart p pkg, p, 0, 0, .exch b, none, none, false⟩

/-- Words of bytes, little endian. -/
def wordsOf : List Byte → List Word
  | a :: b :: c :: d :: l => BitVec.ofNat 32 (leNat [a, b, c, d]) :: wordsOf l
  | _ => []

/-- Sends frame `k` of a SEND entry: its source is read as it stands (R320, R330). -/
def State.sendFrame (s : State) (p i : Nat) (e : PlanEntry) (off pkg k : Nat) : State :=
  let n := 4 * e.elemsOf k
  let a := e.addr + BitVec.ofNat 64 (4 * frameElems * k)
  if s.hubPoisoned p a n then s.missBeat p i off s.pkgIdNat
  else
    let bytes := s.hubBytes p a n
    let s := s.updEx p fun x => { x with txDigest := x.txDigest.upd i 0 (· ^^^ frameDigest k bytes) }
    let x := (s.part p).ex
    let last := k + 1 == e.frames
    match (s.upLinks e.target).find? fun l => (s.link l).exSent < (s.link l).exLimit with
    | none => s.lateBeat p i off
    | some l => (s.sendExch p l pkg ⟨x.step, k, e.link, 1, last, x.start.setWidth 32,
        if last then x.txDigest.get i 0 else 0, wordsOf bytes⟩).count (.xplan p) 0x80 1

/-- The gate of a SEND is not set at the boundary that starts its first beat (R320). -/
def Exch.gateShut (x : Exch) (e : PlanEntry) (j : Nat) : Bool :=
  e.op == opSend && j == 0 && e.gate != 255 && !x.gates.contains e.gate

/-- An entry sends nothing in this step (R320). -/
def State.skipEntry (s : State) (p i : Nat) : State := s.updEx p fun x => { x with skipped := x.skipped ++ [i] }

/-- EXCHANGE_SEND_BEAT: a SEND entry sends the frames of this beat (R320, R321). -/
def execExchangeSendBeat (part : Nat) : Reads → State → Res
  | ⟨entry, v⟩, s =>
    needUnit "partition" part 8 <|
    let x := (s.part part).ex
    needSome s (x.entries[entry]?) /- the armed plan has no such entry -/ fun e =>
    need s (e.op == opSend) /- the entry is no SEND -/ <|
    needSome s (s.entryBeat part e 0) /- no beat of the entry runs now -/ fun j =>
    need s (!x.spent) /- the exchange beats of this step have stopped (R439) -/ <|
    need s (!x.skipped.contains entry) /- the entry sends nothing in this step (R320) -/ <|
    need s (!x.beatsDone.contains (entry, j, 0)) /- the beat's frames have been sent -/ <|
    let off := e.offset + j
    if x.gateShut e j then .next ((s.skipEntry part entry).lateBeat part entry off)
    else match s.targetPkg e.target with
      | none => .next (s.lateBeat part entry off)
      | some pkg =>
        let s := s.hubCheck part v ((e.framesOf j).map fun k => (e.addr + BitVec.ofNat 64 (4 * frameElems * k), 4 * e.elemsOf k))
        .next ((e.framesOf j).foldl (fun s k => s.sendFrame part entry e off pkg k) (s.doBeat part entry j 0))

/-! ### Landing (R316, R323) -/

/-- The contributor list of an entry of the armed plan. -/
def Exch.idsOf (x : Exch) (e : PlanEntry) : List Nat := (x.lists.drop e.link).take e.nc

/-- Address of a frame's slot in the landing area (R323). -/
def PlanEntry.slot (e : PlanEntry) (i k : Nat) : DWord :=
  e.land + BitVec.ofNat 64 (((k / e.fpb % 4) * e.nc + i) * e.fpb * 1024 + k % e.fpb * 1024)

/-- The frame is of the attempt that is current (R316). -/
def Exch.accepts (x : Exch) (b : ExchBody) : Bool := x.current && b.step == x.step && b.start == x.start.setWidth 32

/-- Takes an exchange frame that has arrived: the beat of its arrival, and the state without it. -/
def State.takeExch (s : State) (p srcPkg : Nat) (b : ExchBody) : Option (Nat × State) :=
  match s.exchIn.find? fun f => f.2.1 == p && f.2.2.1 == srcPkg && f.2.2.2 == b with
  | none => none
  | some f => some (f.1, { s with exchIn := s.exchIn.erase f })

/-- A received frame is discarded (R316, R323). -/
def State.discardExch (s : State) (p : Nat) : State := s.count (.xplan p) 0x98 1

/-- A data frame lands where it is in time (R323, R330). -/
def State.landFrame (s : State) (p srcPkg arrived : Nat) (b : ExchBody) : State :=
  let x := (s.part p).ex
  match x.entries[b.entry]? with
  | none => s.discardExch p
  | some e =>
    match (x.idsOf e).findIdx? (· == srcPkg) with
    | none => s.discardExch p
    | some i =>
      let k := b.frame
      if !(e.op == opReduce || e.op == opRecv) || srcPkg == s.pkgIdNat || e.frames ≤ k || b.payload.length ≠ e.elemsOf k then
        s.discardExch p
      else if x.start.toNat + e.offset + k / e.fpb ≤ arrived then s.discardExch p
      else if x.got.contains (b.entry, i, k) then s
      else
        let key := 1024 * b.entry + i
        let payload := b.payload.flatMap fun w => natLe 4 w.toNat
        let s := s.hubStore p (e.slot i k) (exchBytes b)
        let s := s.updEx p fun x => { x with
          got := x.got ++ [(b.entry, i, k)]
          rxDigest := x.rxDigest.upd key 0 (· ^^^ frameDigest k payload)
          sentDigest := if b.last then x.sentDigest.put key b.value else x.sentDigest }
        s.count (.xplan p) 0x88 1

/-- EXCHANGE_DATA_FRAME: a data frame that has arrived is stored or discarded (R316, R322, R323). -/
def execExchangeDataFrame (part srcPkg : Nat) (b : ExchBody) (s : State) : Res :=
  needUnit "partition" part 8 <|
  need s (b.kind != 2 && b.kind != 3) /- the frame is a health frame -/ <|
  needSome s (s.takeExch part srcPkg b) /- no such frame has arrived -/ fun f =>
  if b.kind ≠ 1 then .next f.2
  else if !(s.part part).ex.accepts b then .next (f.2.discardExch part)
  else .next (f.2.landFrame part srcPkg f.1 b)

/-! ### Reducing (R324 to R326) -/

/-- FP32 addition to nearest even, as the reserved cores and the cantle cores make it (R150, R331). -/
def add32 (a b : Word) : Word := BitVec.ofNat 32 (fp32.result ((fp32.decode a.toNat).add (fp32.decode b.toNat)).1).1

/-- A fixed-order sum (R150). -/
def fixedSum : List Word → Word
  | [] => 0
  | c :: l => l.foldl add32 c

/-- The words of a contribution to beat `j`; none where a frame has not come in time or a line cannot be read. -/
def State.contribution (s : State) (p i : Nat) (e : PlanEntry) (pos j : Nat) : Option (List Word) :=
  let ks := e.framesOf j
  let x := (s.part p).ex
  if ks.any fun k => !x.got.contains (i, pos, k) || s.hubPoisoned p (e.slot pos k + 32) (4 * e.elemsOf k) then none
  else some (ks.flatMap fun k => wordsOf (s.hubBytes p (e.slot pos k + 32) (4 * e.elemsOf k)))

/-- Elements of beat `j`, and the first of them. -/
def PlanEntry.first (e : PlanEntry) (j : Nat) : Nat := frameElems * e.fpb * j
def PlanEntry.count (e : PlanEntry) (j : Nat) : Nat := min (frameElems * e.fpb) (e.elems - e.first j)

/-- The package's own contribution to beat `j`, read from ADDR. -/
def State.ownPart (s : State) (p : Nat) (e : PlanEntry) (j : Nat) : Option (List Word) :=
  let a := e.addr + BitVec.ofNat 64 (4 * e.first j)
  if s.hubPoisoned p a (4 * e.count j) then none else some (wordsOf (s.hubBytes p a (4 * e.count j)))

/-- The own contribution's copy goes into its own slots of the landing area (R324). -/
def State.copyOwn (s : State) (p : Nat) (e : PlanEntry) (pos j : Nat) (own : List Word) : State :=
  (e.framesOf j).foldl (fun s k =>
    let ws := (own.drop (frameElems * k - e.first j)).take (e.elemsOf k)
    s.hubStore p (e.slot pos k + 32) (ws.flatMap fun w => natLe 4 w.toNat)) s

/-- The die whose reservation adds element `n` of a beat's `count`: the elements are divided evenly, in ascending
order (R326). -/
def resOf (dies : List Nat) (count n : Nat) : Nat := dies.getD (n / max 1 (ceilDiv count dies.length)) 0

/-- Draws `n` free words. -/
def State.drawWords (s : State) (n : Nat) : List Word × State :=
  ((List.range n).map fun i => Config.freeWord (s.freeCtr + i), { s with freeCtr := s.freeCtr + n })

/-- The sums of a beat where nothing is missing; none otherwise (R324). -/
def beatSums (n : Nat) (cols : List (Option (List Word))) : Option (List Word) :=
  (cols.mapM id).map fun (cs : List (List Word)) =>
    (List.range n).map fun i => fixedSum (cs.map fun c => c.getD i 0)

/-- A word is NaN or infinite. -/
def nonFinite32 (w : Word) : Bool := bits w 30 23 == 255

/-- The digests of an entry are compared in the beat that reduces its LAST frame (R330). -/
def State.compareDigests (s : State) (p i : Nat) (e : PlanEntry) : State :=
  if s.reg (.digest p) 0 / 256 % 2 = 0 then s
  else
    let x := (s.part p).ex
    let ids := x.idsOf e
    (List.range ids.length).foldl (fun s pos =>
      let key := 1024 * i + pos
      let src := ids.getD pos 0
      match x.sentDigest.find key with
      | none => s
      | some d =>
        if d = x.rxDigest.get key 0 then s
        else
          let s := s.mark p hDigest
          let s := s.updEx p fun x => { x with
            mismatch := true, misSrc := if x.mismatch then x.misSrc else src
            misEntry := if x.mismatch || x.checkFail then x.misEntry else i }
          (s.count (.digest p) 0x28 1).record s.planUnit 0x0E04 1 p [(0, i), (16, src)]) s

/-- The reserved cores do beat `j` of a REDUCE or RECV entry; the sums of missing contributions, and the share of a
die that is late, are free values (R324, R325, R326, R329). -/
def State.reduceBeat (s : State) (p i : Nat) (e : PlanEntry) (j : Nat) (late : List Nat) : State :=
  let x := (s.part p).ex
  let own := s.pkgIdNat
  let ids := x.idsOf e
  let off := e.offset + j
  let dies := s.activeRes p
  let n := e.count j
  let cols := (List.range ids.length).map fun pos =>
    if ids.getD pos 0 = own then s.ownPart p e j else s.contribution p i e pos j
  let s := s.doBeat p i j 0
  let s := (List.range ids.length).foldl (fun s pos =>
    if (cols.getD pos none).isNone then s.missBeat p i off (ids.getD pos 0) else s) s
  if dies.isEmpty then s.lateBeat p i off
  else
    let s := (List.range ids.length).foldl (fun s pos =>
      match cols.getD pos none with
      | some ws => if ids.getD pos 0 = own then s.copyOwn p e pos j ws else s
      | none => s) s
    let lateDies := dies.filter late.contains
    let s := if lateDies.isEmpty then s else s.lateBeat p i off
    let s := if e.op = opReduce then lateDies.foldl (fun s d => s.bump (.reservation p d)) s else s
    let (free, s) := s.drawWords n
    let sums := (beatSums n cols).getD free
    let out := (List.range n).map fun q => if lateDies.contains (resOf dies n q) then free.getD q 0 else sums.getD q 0
    let s := if e.op = opReduce && out.any nonFinite32 then s.mark p hXnonfin else s
    let s := s.hubStore p (e.addr + BitVec.ofNat 64 (4 * e.first j)) (out.flatMap fun w => natLe 4 w.toNat)
    let s := s.updEx p fun x => { x with wrote := x.wrote ++ [(i, j, dies)] }
    if (e.framesOf j).contains (e.frames - 1) then s.compareDigests p i e else s

/-- What beat `j` of an entry reads: the own contribution, and the landed frames of the others (R324). -/
def State.beatReads (s : State) (p : Nat) (e : PlanEntry) (j : Nat) : List (DWord × Nat) :=
  let ids := (s.part p).ex.idsOf e
  (List.range ids.length).flatMap fun pos =>
    if ids.getD pos 0 = s.pkgIdNat then [(e.addr + BitVec.ofNat 64 (4 * e.first j), 4 * e.count j)]
    else (e.framesOf j).map fun k => (e.slot pos k + 32, 4 * e.elemsOf k)

/-- A frame of a beat of an entry has arrived in time and is still to be stored (R323). -/
def State.frameWaits (s : State) (p i : Nat) (e : PlanEntry) (j : Nat) : Bool :=
  let x := (s.part p).ex
  s.exchIn.any fun f => f.2.1 == p && f.2.2.2.kind == 1 && f.2.2.2.entry == i && x.accepts f.2.2.2 &&
    f.2.2.2.frame / e.fpb == j && f.1 < x.start.toNat + e.offset + j

/-- The conditions of a REDUCE or RECV beat. -/
def State.landingBeat (s : State) (part entry op : Nat) (k : PlanEntry → Nat → Res) : Res :=
  needUnit "partition" part 8 <|
  let x := (s.part part).ex
  needSome s (x.entries[entry]?) /- the armed plan has no such entry -/ fun e =>
  need s (e.op == op) /- the entry has another OP -/ <|
  needSome s (s.entryBeat part e 0) /- no beat of the entry runs now -/ fun j =>
  need s (!x.spent) /- the exchange beats of this step have stopped (R439) -/ <|
  need s (!x.beatsDone.contains (entry, j, 0)) /- the beat has been reduced -/ <|
  need s (!s.frameWaits part entry e j) /- a frame that came in time is still to be stored -/ <| k e j

/-- EXCHANGE_REDUCE_BEAT: the reserved cores add the contributions of a beat in fixed order (R324). -/
def execExchangeReduceBeat (part : Nat) : Reads → List Nat → State → Res
  | ⟨entry, v⟩, late, s =>
    s.landingBeat part entry opReduce fun e j => .next ((s.hubCheck part v (s.beatReads part e j)).reduceBeat part entry e j late)

/-- EXCHANGE_RECV_BEAT: the single contribution of a beat is copied to ADDR (R324). -/
def execExchangeRecvBeat (part : Nat) : Reads → List Nat → State → Res
  | ⟨entry, v⟩, late, s =>
    s.landingBeat part entry opRecv fun e j => .next ((s.hubCheck part v (s.beatReads part e j)).reduceBeat part entry e j late)

/-! ### The two-path check (R331) -/

/-- Element `n` of entry `i` is sampled. -/
def State.sampled (s : State) (p i n : Nat) : Bool :=
  let rate := min 30 (s.reg (.digest p) 0 % 256)
  let seed := s.regD (.digest p) 0x08
  let x0 := (philox (seed.setWidth 32) (seed.extractLsb' 32 32) (BitVec.ofNat 32 n) (BitVec.ofNat 32 i)
    (s.part p).ex.step (BitVec.ofNat 32 (0xFFFF_0100 + p))).getD 0 0
  rate != 0 && x0.toNat / 2 ^ (32 - rate) == 0

/-- Address of an element in the landing area. -/
def PlanEntry.landed (e : PlanEntry) (pos n : Nat) : DWord :=
  e.slot pos (n / frameElems) + BitVec.ofNat 64 (32 + 4 * (n % frameElems))

/-- The cantle cores check one element of beat `j`; one whose data cannot be read is passed over. -/
def State.checkElem (s : State) (p i : Nat) (e : PlanEntry) (j n : Nat) (dies : List Nat) : State :=
  let ids := (s.part p).ex.idsOf e
  let a := e.addr + BitVec.ofNat 64 (4 * n)
  let places := (List.range ids.length).map fun pos => e.landed pos n
  if s.hubPoisoned p a 4 || places.any fun q => s.hubPoisoned p q 4 then s
  else
    let s := s.count (.digest p) 0x20 1
    let sum := fixedSum (places.map fun q => BitVec.ofNat 32 (s.hubNat p q 4))
    if sum.toNat = s.hubNat p a 4 then s
    else
      let die := resOf dies (e.count j) (n - e.first j)
      let s := (s.mark p hCheck).updEx p fun x => { x with
        checkFail := true, misEntry := if x.mismatch || x.checkFail then x.misEntry else i }
      (((s.count (.digest p) 0x30 1).record s.planUnit 0x0E05 1 p [(0, i), (16, n), (48, die)]).bump
        (.reservation p die))

/-- CHECK_BEAT: the beat after a REDUCE beat, its sampled sums are recomputed (R331). -/
def execCheckBeat (part : Nat) : Reads → State → Res
  | ⟨entry, v⟩, s =>
    needUnit "partition" part 8 <|
    let x := (s.part part).ex
    needSome s (x.entries[entry]?) /- the armed plan has no such entry -/ fun e =>
    need s (e.op == opReduce) /- the entry is no REDUCE -/ <|
    needSome s (s.entryBeat part e 1) /- no beat of the entry is to be checked now -/ fun j =>
    need s (!x.beatsDone.contains (entry, j, 1)) /- the beat has been checked -/ <|
    needSome s (x.wrote.find? fun w => w.1 == entry && w.2.1 == j) /- the beat wrote no sums -/ fun w =>
    let ns := ((List.range (e.count j)).map (· + e.first j)).filter fun n => s.sampled part entry n
    let s := s.hubCheck part v (ns.flatMap fun n => (e.addr + BitVec.ofNat 64 (4 * n), 4) ::
      (List.range (x.idsOf e).length).map fun pos => (e.landed pos n, 4))
    .next (ns.foldl (fun s n => s.checkElem part entry e j n w.2.2) (s.doBeat part entry j 1))

/-! ### The health word (R332 to R336) -/

/-- Freezes the local word; at the root it is the final word (R334). -/
def State.freeze (s : State) (p : Nat) : State :=
  let x := (s.part p).ex
  let need := s.reg (.health p) 0x04 % 16
  let came := x.hups.filter fun h => h.2.2
  let short : Bool := came.length < need
  let w := came.foldl (fun a h => a ||| h.2.1)
    (x.localWord ||| BitVec.ofNat 64 (s.reg (.health p) 0x08 % 2 ^ 16 * 2 ^ 48))
  let w := if short then setBit w hMissing true else w
  s.updEx p fun x => { x with
    frozen := true, frozenWord := w, missing := x.missing || short
    final := if x.isRoot then some w else x.final
    finalBeat := if x.isRoot then s.beatNo else x.finalBeat }

/-- Sends a health word on the two lowest-numbered UP links to its target (R333); what no link can carry is not sent, and
the beat is late (R321). -/
def State.sendHealth (s : State) (p i : Nat) (e : PlanEntry) (kind : Nat) (w : DWord) : State :=
  let x := (s.part p).ex
  let s := s.doBeat p i 0 0
  match s.targetPkg e.target with
  | none => s
  | some pkg =>
    let ls := (s.upLinks e.target).take 2
    if ls.isEmpty then s.lateBeat p i e.offset
    else ls.foldl (fun s l =>
      if (s.link l).exSent < (s.link l).exLimit then
        s.sendExch p l pkg ⟨x.step, 0, 0, kind, false, x.start.setWidth 32, w, []⟩
      else s.lateBeat p i e.offset) s

/-- First beat of the entries with an OP. -/
def Exch.firstOf (x : Exch) (op : Nat) : Option Nat := ((x.entries.filter fun e => e.op == op).map (·.offset)).min?

/-- The beat at which the local word is frozen, where it is not the decision's (R334). -/
def Exch.freezeAt (x : Exch) : Option Nat := if x.isRoot then x.firstOf opHdown else x.firstOf opHup

/-- The offset of the boundary at which the local word is frozen: the decision's for a root without HDOWN entries (R334). -/
def Exch.freezeOff (x : Exch) : Nat := x.freezeAt.getD x.decideOff

/-- A health frame of a KIND arrived before a boundary of the step and is still to be taken (R333, R334). -/
def State.healthWaits (s : State) (p kind off : Nat) : Bool :=
  let x := (s.part p).ex
  s.exchIn.any fun f => f.2.1 == p && f.2.2.2.kind == kind && x.accepts f.2.2.2 && f.1 < x.start.toNat + off

/-- HUP entries of this beat whose frames have not been sent. -/
def State.hupsDue (s : State) (p : Nat) : List (Nat × PlanEntry) :=
  let x := (s.part p).ex
  ((List.range x.entries.length).zip x.entries).filter fun e =>
    e.2.op == opHup && s.stepBeat p == some e.2.offset && !x.beatsDone.contains (e.1, 0, 0)

/-- HEALTH_FREEZE: the local word is frozen at the first HUP beat, or the root's first HDOWN beat, and the HUP
entries of the beat send it (R333, R334). -/
def execHealthFreeze (part : Nat) (s : State) : Res :=
  needUnit "partition" part 8 <|
  let x := (s.part part).ex
  need s x.current /- no step is current -/ <|
  let due := !x.frozen && match x.freezeAt, s.stepBeat part with
    | some f, some b => f ≤ b
    | _, _ => false
  need s (due || !(s.hupsDue part).isEmpty) /- neither a freeze nor a HUP is due -/ <|
  need s (!(due && s.healthWaits part 2 x.freezeOff)) /- a child's word that came in time is still to be taken -/ <|
  let s := if x.frozen then s else s.freeze part
  let w := (s.part part).ex.frozenWord
  .next ((s.hupsDue part).foldl (fun s (e : Nat × PlanEntry) => s.sendHealth part e.1 e.2 2 w) s)

/-- Two copies of a health frame differ (R417): DIVERGENCE is recorded and MISSING set. -/
def State.healthDiverged (s : State) (p : Nat) : State :=
  ((s.count .flt 0x28 1).record s.cantle0 0x1208 1 p [(0, 6)]).mark p hMissing

/-- A health frame of the current attempt: the beat of its arrival, and the state without it. -/
def State.healthFrame (s : State) (part srcPkg kind : Nat) (b : ExchBody) (k : Nat → State → Res) : Res :=
  needUnit "partition" part 8 <|
  need s (b.kind == kind) /- the frame has another KIND -/ <|
  needSome s (s.takeExch part srcPkg b) /- no such frame has arrived -/ fun f =>
  if !(s.part part).ex.accepts b then .next (f.2.discardExch part) else k f.1 f.2

/-- HEALTH_UP_FRAME: a child's word arrives; the first good copy counts, and bits that come after the freeze set
LATE in `HEALTH_STATUS` only (R333, R335). -/
def execHealthUpFrame (part srcPkg : Nat) (b : ExchBody) (s : State) : Res :=
  s.healthFrame part srcPkg 2 b fun came s =>
    let x := (s.part part).ex
    let late : Bool := x.frozen || x.start.toNat + x.freezeOff ≤ came
    match x.hups.lookup srcPkg with
    | some w => .next (if w.1 = b.value then s else s.healthDiverged part)
    | none => .next (s.updEx part fun x => { x with
        hups := x.hups ++ [(srcPkg, b.value, !late)], hLate := x.hLate || (late && b.value != 0) })

/-- HEALTH_DOWN_SEND: an HDOWN beat sends the final word; without one the entry sends nothing and is recorded
(R334). -/
def execHealthDownSend (part entry : Nat) (s : State) : Res :=
  needUnit "partition" part 8 <|
  let x := (s.part part).ex
  needSome s (x.entries[entry]?) /- the armed plan has no such entry -/ fun e =>
  need s (e.op == opHdown) /- the entry is no HDOWN -/ <|
  need s (s.stepBeat part == some e.offset) /- this is not the entry's beat -/ <|
  need s (!x.beatsDone.contains (entry, 0, 0)) /- the entry's frames have been sent -/ <|
  need s (!(x.isRoot && !x.frozen && s.healthWaits part 2 x.freezeOff)) /- a child's word is still to be taken -/ <|
  let s := if x.isRoot && !x.frozen then s.freeze part else s
  let y := (s.part part).ex
  match (if y.isRoot || y.finalBeat < s.beatNo then y.final else none) with
  | some w => .next (s.sendHealth part entry e 3 w)
  | none => .next ((s.doBeat part entry 0 0).entryEvent part 0x0E01 entry [(0, entry), (16, e.offset)])

/-- HEALTH_DOWN_FRAME: the first health-down word is the final word of a package that is not the root (R334). -/
def execHealthDownFrame (part srcPkg : Nat) (b : ExchBody) (s : State) : Res :=
  s.healthFrame part srcPkg 3 b fun came s =>
    let x := (s.part part).ex
    if x.isRoot then .next s
    else match x.final with
      | some w => .next (if w = b.value then s else s.healthDiverged part)
      | none => .next (if x.decided || x.start.toNat + x.decideOff ≤ came then s
          else s.updEx part fun x => { x with final := some b.value, finalBeat := came })

/-- HEALTH_DECISION: the final word is latched and the step is decided; a root with no HDOWN entry freezes its local word
here (R334, R335, R336, R346). -/
def execHealthDecision (part : Nat) (s : State) : Res :=
  needUnit "partition" part 8 <|
  need s (s.part part).ex.active /- no step waits for its decision -/ <|
  need s (let x := (s.part part).ex
    x.start.toNat + x.decideOff ≤ s.beatNo) /- the decision boundary has not come -/ <|
  need s (!s.healthWaits part 3 (s.part part).ex.decideOff) /- a health-down word is still to be taken -/ <|
  let last := (s.part part).ex.isRoot && ((s.part part).ex.firstOf opHdown).isNone && !(s.part part).ex.frozen
  need s (!(last && s.healthWaits part 2 (s.part part).ex.decideOff)) /- a child's word is still to be taken -/ <|
  let s := if last then s.freeze part else s
  let x := (s.part part).ex
  let unsure := x.final.isNone
  let own := if x.frozen then x.frozenWord else x.localWord
  let w := x.final.getD (setBit own hMissing true)
  let clean := !unsure && w == 0
  let s := s.updEx part fun x => { x with
    active := false, decided := true, clean := clean, unsure := unsure, finalLatched := w }
  let s := s.count (.health part) 0x30 1
  let s := if clean then s
    else (s.count (.health part) 0x38 1).record s.planUnit 0x0E06 1 part [(0, w.toNat), (64, x.step.toNat)]
  let s := if unsure then s.record s.planUnit 0x0E07 2 part [(64, x.step.toNat)] else s
  let s := s.updDecide part x.step clean unsure
  .next (s.formRecord part ⟨s.boundaryTsc, 0, 5, 0, x.step, 0, 0, w, 1 + 2 * clean.toNat + 4 * unsure.toNat⟩)

end Sys2Proof.Machine
end

