-- ==== Sys2Proof/Machine/Cmdt.lean ====
section
/-! DEFINITION. The command table (R375 to R379): enabling it, and the entries that the sequencer takes. -/

namespace Sys2Proof.Machine

/-! ### Enabling (R376) -/

def State.cmdtBase (s : State) (p : Nat) : DWord := alignDown (s.regD (.cmdt p) 0x08) 4096
/-- Slots of the command ring. -/
def State.cmdtSlots (s : State) (p : Nat) : Nat := 2 ^ (s.reg (.cmdt p) 0x10 % 32)
/-- `CMDT_CTRL.EN`. -/
def State.cmdtOn (s : State) (p : Nat) : Bool := s.reg (.cmdt p) 0 % 2 == 1

/-- What keeps a write of EN = 1 from being accepted, as CMDT_BADCFG reports it (R376, R386). -/
def State.cmdtBad (s : State) (p : Nat) : Nat :=
  ((s.part p).st != .running).toNat
    + 2 * (!s.inHbm p (s.cmdtBase p) (entryBytes * s.cmdtSlots p)).toNat
    + 4 * (!s.inHbm p (alignDown (s.regD (.cmdt p) 0x18) 64) (64 * s.cplSlots p)).toNat
    + 8 * (!s.inHbm p (s.cplCons p) 8).toNat

/-- A write of `CMDT_CTRL`: an accepted EN = 1 has its first entry read at the next boundary (R376). -/
def State.writeCmdtCtrl (s : State) (p v : Nat) : State :=
  if v % 2 = 0 then s.setReg (.cmdt p) 0 0
  else if s.cmdtBad p ≠ 0 then
    ((s.setReg (.cmdt p) 0 0).updPart p fun q => { q with badCfg := true }).record s.seqUnit 0x100A 0 p
      [(0, s.cmdtBad p)]
  else
    (s.setReg (.cmdt p) 0 1).updPart p fun q => { q with
      badCfg := false, head := 0, phase := true, unreadSlot := none, stepping := 0 }

/-! ### Taking the entry at HEAD (R376) -/

/-- Entries that a beat's stepping takes at most. -/
def stepLimit : Nat := 32

/-- The sequencer may take an entry of the table now. -/
def State.mayStep (s : State) (p : Nat) : Bool :=
  let q := s.part p
  s.cmdtOn p && q.st == .running && !s.mf.tripped && q.grants.length < grantLimit && q.cplHeld.isEmpty && !s.cplFull p

/-- Device address of the entry at HEAD. -/
def State.headAt (s : State) (p : Nat) : DWord := s.cmdtBase p + BitVec.ofNat 64 (entryBytes * (s.part p).head)

/-- The valid word of the entry at HEAD cannot be read: the beat's stepping ends, and the slot is recorded once. -/
def State.headUnreadable (s : State) (p : Nat) : State :=
  let q := s.part p
  let s := if q.unreadSlot = some q.head then s else s.record s.seqUnit 0x1009 1 p [(0, q.head)]
  s.updPart p fun q => { q with unreadSlot := some q.head, stepping := 0 }

/-- HEAD advances past an entry that is taken; the expected phase inverts where HEAD wraps to 0. -/
def State.advanceHead (s : State) (p : Nat) : State :=
  let next := ((s.part p).head + 1) % s.cmdtSlots p
  (s.updPart p fun q => { q with
    head := next, phase := if next = 0 then !q.phase else q.phase, unreadSlot := none, stepping := q.stepping - 1 }).count
    (.cmdt p) 0x40 1

/-- The record of a rejected entry (R377, R380). -/
def State.rejectEntry (s : State) (p slot reason : Nat) (tag id : Word) : State :=
  (s.rejected p slot reason tag).formRecord p ⟨s.boundaryTsc, tag, 2, reason, id, 0, 0, 0, 0⟩

/-- The sequencer takes the entry at HEAD, where its TYPE is the command's; the checks that every entry meets come
first (R376, R377). `ecc` are the verdicts on the entry's lines; `k` gets the state, the slot and the entry. -/
def State.takeEntry (s : State) (p : Nat) (ecc : Verdicts) (mine : Nat → Bool) (k : State → Nat → Nat → State) : Res :=
  needUnit "partition" p 8 <|
  let s := s.takePriv p
  need s (!s.updDue p) /- the update's launches come first (R348) -/ <|
  need s (s.mayStep p) /- the sequencer takes no entry now (R376) -/ <|
  need s (0 < (s.part p).stepping) /- the beat's stepping has ended -/ <|
  let a := s.headAt p
  let s := s.hubCheck p ecc [(a, entryBytes)]
  if s.hubPoisoned p (a + 64) 64 then .next (s.headUnreadable p)
  else
    let lost := s.hubPoisoned p a 64
    let v := s.hubNat p (a + 64) 64 * 2 ^ 512 + if lost then 0 else s.hubNat p a 64
    let slot := (s.part p).head
    need s (entryPhase v == (s.part p).phase) /- the entry at HEAD is not of the expected phase -/ <|
    need s (mine (entryType v)) /- the entry at HEAD has another TYPE -/ <|
    let t := s.advanceHead p
    .next (if lost then t.rejectEntry p slot 0x100B (entryTag v) 0
      else if !entryValid v then
        t.rejectEntry p slot 0x1008 (entryTag v) (if entryType v = 1 then BitVec.ofNat 32 (fieldAt v 0 0 32) else 0)
      else k t slot v)

/-- CMDT_LAUNCH: a LAUNCH entry is taken and its grant started, or it is rejected; so is an entry of a reserved TYPE
(R377). -/
def execCmdtLaunch : Reads → State → Res
  | ⟨part, ecc⟩, s =>
    s.takeEntry part ecc (fun t => t == 1 || 4 ≤ t) fun s slot v =>
      match s.checkLaunch part v false with
      | some r => s.rejectEntry part slot r (entryTag v) (launchOf v).grant
      | none => s.startGrant part (launchOf v) (entryTag v) (.table slot)

/-- The change a WINDOW entry asks for is allowed (R378). -/
def State.windowOk (s : State) (p v : Nat) : Bool :=
  let len := fieldAt v 20 0 32
  fieldAt v 0 0 16 < 4096 && (fieldAt v 2 0 1 == 0 ||
    1 ≤ len && len ≤ 2 ^ 28 && match s.host.qps.find (fieldAt v 4 0 32) with
      | some q => q.part == p
      | none => false)

/-- CMDT_WINDOW: a host window is registered or removed (R378). -/
def execCmdtWindow : Reads → State → Res
  | ⟨part, ecc⟩, s =>
    s.takeEntry part ecc (· == 2) fun s slot v =>
      if !s.windowOk part v then s.rejectEntry part slot 0x1009 (entryTag v) 0
      else
        let w := fieldAt v 0 0 12
        let s := s.updPart part fun q => { q with
          windows := if fieldAt v 2 0 1 = 1 then
              q.windows.put w ⟨fieldAt v 4 0 32, BitVec.ofNat 64 (fieldAt v 8 0 64), fieldAt v 16 0 32, fieldAt v 20 0 32⟩
            else q.windows.del w }
        s.formRecord part ⟨s.boundaryTsc, entryTag v, 3, 0, 0, 0, 0, 0, 0⟩

/-- The record of a mark (R379). -/
def State.markRecord (s : State) (p : Nat) (tag : Word) : State := s.formRecord p ⟨s.boundaryTsc, tag, 4, 0, 0, 0, 0, 0, 0⟩

/-- CMDT_MARK: a MARK entry is taken; its record follows those of the grants taken before it (R379). -/
def execCmdtMark : Reads → State → Res
  | ⟨part, ecc⟩, s =>
    s.takeEntry part ecc (· == 3) fun s _ v =>
      if (s.part part).owed.isEmpty then s.markRecord part (entryTag v)
      else s.updPart part fun q => { q with owed := q.owed ++ [.mark (entryTag v)] }

/-- CMDT_NOP: a NOP entry is taken and does nothing (R379). -/
def execCmdtNop : Reads → State → Res
  | ⟨part, ecc⟩, s => s.takeEntry part ecc (· == 0) fun s _ _ => s

/-- MARK_COMPLETE: every grant taken before a mark has its record (R379). -/
def execMarkComplete (part : Nat) (s : State) : Res :=
  needUnit "partition" part 8 <|
  match (s.part part).owed with
  | .mark tag :: rest => .next ((s.updPart part fun q => { q with owed := rest }).markRecord part tag)
  | _ => .next s -- no mark waits first in the order of entries

end Sys2Proof.Machine
end

