-- ==== Sys2Proof/Machine/MgmtWrite.lean ====
section
/-! DEFINITION. Writes of the management register space: reach and access rights (R18, R20, R21, R313, R370, R432,
R447, R467), the write latch of 64-bit registers (R20), and what a write of each register starts. The commands that
have a row of their own and REGISTER_WRITE, REGWRITE and the stores of a commit all go through `State.mgmtWrite`. -/

namespace Sys2Proof.Machine

/-! ### Who writes what -/

/-- Blocks that only a package session writes (R312, R313, R370, R432). -/
def packageOnly : Blk → Bool
  | .dFab _ | .tl _ | .cinch _ | .part => true
  | _ => false

/-- Blocks that a partition-bound session reads only (R21, R313, R447). -/
def readOnlyBound : Blk → Bool
  | .pkg | .nrg | .dNrg _ | .core _ 11 => true
  | _ => false

/-- The path may write the block. -/
def State.mayWrite (s : State) (path : Path) (b : Blk) : Bool :=
  s.isPackage path || (!packageOnly b && ((s.boundTo path).isNone || !readOnlyBound b))

/-- An RWL field of a die is locked for a path (R467). -/
def State.rwlLocked (s : State) (path : Path) (d : Nat) : Bool :=
  match s.partOfDie d with
  | none => false
  | some p => (s.part p).locked && !(s.isPackage path && (s.part p).session.isNone)

/-! ### Single registers -/

/-- The stored word after a write of the fields that a write sets, clears or leaves (R5, R6). -/
def Reg.after (r : Reg) (old v : Word) : Word :=
  let rw := BitVec.ofNat 32 r.rw
  ((old &&& ~~~rw) ||| (v &&& rw)) &&& ~~~(v &&& BitVec.ofNat 32 r.w1c)

/-- The plain effect of a write of a word, with the held low word of a 64-bit register. -/
def State.putWord (s : State) (a : Nat) (r : Reg) (low : Option Word) (v : Word) : State :=
  let s := match low with
    | some w => match regAt (a - 4) with
      | some q => s.setRegWord (a - 4) (q.after (s.regWord (a - 4)) w)
      | none => s
    | none => s
  if r.rw = 0 ∧ r.w1c = 0 then s else s.setRegWord a (r.after (s.regWord a) v)

/-- `PKG_ID` (R23): the id and VALID, then LOCK, which stores the id in the board configuration record (R458). -/
def State.writePkgId (s : State) (path : Path) (v : Word) : State :=
  if nbit (s.regWord 0x10).toNat 31 then s.mgmtRecord 0x0104 path 0x10 v.toNat true 0
  else
    let id := bits v 13 0
    let lock := nbit v.toNat 31
    let s := s.setRegWord 0x10 (BitVec.ofNat 32 (word [(31, lock.toNat), (30, 1), (0, id)]))
    if lock then s.updFlash fun f => { f with pkgId := some (BitVec.ofNat 14 id) } else s

/-- The record that `EVLOG_SEL` selects: one of the ring by its index, or one of the retained area, INDEX 0 being the
oldest there; an index that holds no record selects none, and the DATA words then show 0 (R39; notes/assumptions/107). -/
def Log.pick (l : Log) (v : Word) : Option Rec :=
  let i := bits v 13 0
  if nbit v.toNat 15 then l.retained[i]?
  else l.ring[(l.total + 2 * 16384 - 1 - i) % 16384]?

/-- `EVLOG_SEL` captures a record in `EVLOG_DATA0` to `EVLOG_DATA7` of its hub (R39). -/
def State.writeEvlogSel (s : State) (h : Nat) (v : Word) : State :=
  let image := match s.log.pick v with
    | some r => r.image
    | none => 0
  (List.range 8).foldl (fun s i => s.setReg (.evlog h) (0x10 + 4 * i) (image / 2 ^ (32 * i) % 2 ^ 32))
    (s.setReg (.evlog h) 0x0C (bits v 15 15 * 2 ^ 15 + bits v 13 0))

/-- `BOOT_CTRL`: NOFAST is written through to the board configuration record, DISCARD erases the saved-settings
records (R393, R394, R406). -/
def State.writeBootCtrl (s : State) (v : Word) : State :=
  s.updFlash fun f => { f with nofast := v.getLsbD 0, saved := if v.getLsbD 1 then [] else f.saved }

/-- `FAB_TOPO` (R312): all eight dies, and SET. -/
def State.writeTopo (s : State) (path : Path) (a : Nat) (v : Word) : State :=
  if !s.isPackage path then s.mgmtRecord 0x0105 path a v.toNat true 2
  else if s.farUp then s.mgmtRecord 0x0105 path a v.toNat true 0
  else if 2048 < (bits v 5 0 + 1) * (bits v 13 8 + 1) then s.mgmtRecord 0x0105 path a v.toNat true 1
  else (List.range 8).foldl (fun s d => s.setReg (.dFab d) 0 (word [(31, 1), (8, bits v 13 8), (0, bits v 5 0)])) s

/-- A cinch register, which takes effect at the next beat boundary and reads back at once (R432); a change to
fixed-frequency mode sets 2.000 GHz in the write (R441; notes/assumptions/159). -/
def State.writeCinch (s : State) (o : Nat) (v : Word) : State :=
  let c := s.cinch
  State.clockMoved { s with cinch := match o with
    | 0x00 => { c with capNext := bits v 15 0 }
    | 0x04 => { c with fastNext := bits v 15 0 }
    | 0x08 => { c with ctrlNext := v &&& 0xFF01, mhz := if v.getLsbD 0 then c.mhz else 2000 }
    | _ => c } c.mhz

/-- Ring sizes are stored from 4 to 16 (R375, R445). -/
def ringLog (n : Nat) : Nat := max 4 (min 16 n)

/-- `NRG_GLOGp_CTRL` (R445): HEAD is the part's. -/
def State.writeGlog (s : State) (o : Nat) (v : Word) : State :=
  s.setReg .nrg o (word [(31, bits v 31 31), (16, ringLog (bits v 20 16)), (0, s.reg .nrg o % 2 ^ 16)])

/-- `XPLAN_CTRL` (R314, R319). -/
def State.writeXplanCtrl (s : State) (p : Nat) (v : Word) : State :=
  let s := s.setReg (.xplan p) 0 (bits v 0 0)
  if v.getLsbD 0 then s.planArm p
  else s.planDisarm p

/-- `UPD_CTRL` (R345, R350). -/
def State.writeUpdCtrl (s : State) (p : Nat) (v : Word) : State :=
  let s := s.setReg (.upd p) 0 (v &&& 5).toNat
  let s := if v.getLsbD 0 then s.updArm p else s.updDisarm p
  if v.getLsbD 3 then s.updRevertWrite p else s

/-- `UPD_CTRL.ARM` and ARMED are both 0 (R345). -/
def State.updIdle (s : State) (p : Nat) : Bool := s.reg (.upd p) 0 % 2 == 0 && !(s.part p).upd.armed

/-- `AMAP_RC_CTRL.INVAL` (R233). -/
def State.writeRcCtrl (s : State) (c : Nat) (v : Word) : State :=
  let s := s.setReg (.core c 7) 0 (bits v 0 0)
  if v.getLsbD 1 then s.updCore c fun k => { k with rc := [] } else s

/-- `AMAP_FAULT_INFO.VALID` (R233): 1 clears the register and `AMAP_FAULT_ADDR`. -/
def State.writeFaultInfo (s : State) (c : Nat) (v : Word) : State :=
  if v.getLsbD 31 then ((s.setReg (.core c 7) 4 0).setReg (.core c 7) 8 0).setReg (.core c 7) 12 0 else s

/-- `TL_CTRL` (R294): both fields act at the next beat boundary. -/
def State.writeTlCtrl (s : State) (l : Nat) (v : Word) : State :=
  let s := s.setReg (.tl l) 0 (bits v 0 0)
  if v.getLsbD 1 then s.updLink l fun k => { k with retrainPend := true } else s

/-! ### The dispatcher -/

/-- A write that its path may make, at an offset of a block. -/
def State.applyWrite (s : State) (path : Path) (b : Blk) (o a : Nat) (r : Reg) (low : Option Word) (v : Word) : State :=
  let plain := s.putWord a r low v
  if r.perf then
    if v.getLsbD 31 then (s.setRegWord (a - 4) 0).setRegWord a 0 else s
  else match b with
  | .pkg => s
  | .evlog h => if o = 0x0C then s.writeEvlogSel h v else s
  | .boot => if o = 0x0C then s.writeBootCtrl v else s
  | .cinch _ => s.writeCinch o v
  | .nrg => if 0x100 ≤ o ∧ o % 0x40 = 0x28 then s.writeGlog o v else plain
  | .part =>
    if o < 0x20 then s.writePartCfg path a (o / 4) v.toNat
    else if o < 0x40 then s.writePartCtrl ((o - 0x20) / 4) v.toNat
    else s
  | .cmdt p =>
    if o = 0 then s.writeCmdtCtrl p v.toNat
    else if o = 0x30 then plain
    else if s.cmdtOn p then s
    else if o = 0x10 ∨ o = 0x20 then s.setReg (.cmdt p) o (ringLog (bits v 4 0))
    else plain
  | .xplan p =>
    if o = 0 then s.writeXplanCtrl p v
    else if o = 0x2C then plain.updEx p fun x => { x with stepPend := some (s.beatNo + 1) }
    else plain
  | .upd p => if o = 0 then s.writeUpdCtrl p v else if s.updIdle p then plain else s
  | .pgrp p => if o % 0x40 = 0x18 ∧ !s.updIdle p then s else plain
  | .dAmap d => if r.rwl && s.rwlLocked path d then s else plain
  | .core c 7 => if o = 0 then s.writeRcCtrl c v else if o = 4 then s.writeFaultInfo c v else plain
  | .tl l => if o = 0 then s.writeTlCtrl l v else plain
  | _ => plain

/-- A 32-bit write on a path (R18, R19, R20, R21). -/
def State.mgmtWrite (s : State) (path : Path) (a : Nat) (v : Word) : State :=
  let held := (s.latch path).wr
  let s := s.dropLatch path
  if a % 4 ≠ 0 then s.mgmtRecord 0x0101 path a v.toNat true 0
  else if s.outOfReach path a then s.mgmtRecord 0x0103 path a v.toNat true 0
  else match locate a, regAt a with
    | some (b, o), some r =>
      let vacant := match b with
        | .core c _ => (s.physOf c).isNone
        | _ => false
      let low := match held with
        | some (h, w) => if h = a then some w else none
        | none => none
      let topo := match b with
        | .dFab _ => o == 0
        | _ => false
      if vacant then s
      else if topo then s.writeTopo path a v
      else if a = 0x10 ∧ (s.mayWrite path b || nbit (s.regWord 0x10).toNat 31) then s.writePkgId path v
      else if !s.mayWrite path b then s
      else if r.half = 1 then s.setLatch ⟨pathKey path, none, some (a + 4, v)⟩
      else s.applyWrite path b o a r low v
    | _, _ => s.mgmtRecord 0x0102 path a v.toNat true 0

/-! ### The commands -/

/-- A write on a path, answered where the path is a session (R367). -/
def State.pathWrite (s : State) (path : Path) (a : Nat) (v : Word) : Res :=
  need s (!s.moveDue a) /- the decision on the core comes first (R18) -/ <|
  s.access path false fun s =>
    let s := s.mgmtWrite path a v
    .next (match path with
      | .session n => s.emit (.ok n)
      | .priv _ => s)

/-- REGISTER_WRITE: a write of any register of the space (R20). -/
def execRegisterWrite (path : Path) (addr : Nat) (val : Word) (s : State) : Res := s.pathWrite path addr val

/-- REGWRITE: a session message writes a register; any width but 4 bytes, or misalignment, is refused (R19, R367). -/
def execRegwrite (sess addr width : Nat) (val : Word) (s : State) : Res :=
  let path := Path.session sess
  if width ≠ 4 ∨ addr % 4 ≠ 0 then
    s.access path false fun s =>
      .next (((s.dropLatch path).mgmtRecord 0x0101 path addr val.toNat true 0).emit (.refused sess))
  else s.pathWrite path addr val

/-- OVF_CLEAR: writing 1 to OVF clears it and COUNT (R34); `addr` is the counter's high word. -/
def execOvfClear (path : Path) (addr : Nat) (s : State) : Res :=
  need s ((regAt addr).any fun r => r.perf && r.half == 2) /- the address is no performance counter's high word -/ <|
  s.pathWrite path addr 0x8000_0000

/-- EVLOG_SEL: the part captures the selected record (R39). -/
def execEvlogSel (path : Path) (hub : Nat) (val : Word) (s : State) : Res :=
  needUnit "hub" hub 2 <| s.pathWrite path ((Blk.evlog hub).base + 0x0C) val

/-- PKG_ID (R23). -/
def execPkgId (path : Path) (val : Word) (s : State) : Res := s.pathWrite path 0x10 val

/-- AMAP_RC_INVAL (R233). -/
def execAmapRcInval (path : Path) (core : Nat) (val : Word) (s : State) : Res :=
  needUnit "logical core" core 1280 <|
  need s (val.getLsbD 1) /- INVAL is not written 1 -/ <| s.pathWrite path (Blk.core core 7).base val

/-- AMAP_FAULT_CLEAR (R233). -/
def execAmapFaultClear (path : Path) (core : Nat) (val : Word) (s : State) : Res :=
  needUnit "logical core" core 1280 <|
  need s (val.getLsbD 31) /- VALID is not written 1 -/ <| s.pathWrite path ((Blk.core core 7).base + 4) val

/-- TL_CTRL_EN: the write of `TL_CTRL.EN` (R294). -/
def execTlCtrlEn (path : Path) (link : Nat) (val : Word) (s : State) : Res :=
  needUnit "tatting link" link 64 <| s.pathWrite path (Blk.tl link).base val

/-- TL_CTRL_RETRAIN: the write of RETRAIN = 1 (R294). -/
def execTlCtrlRetrain (path : Path) (link : Nat) (val : Word) (s : State) : Res :=
  needUnit "tatting link" link 64 <|
  need s (val.getLsbD 1) /- RETRAIN is not written 1 -/ <| s.pathWrite path (Blk.tl link).base val

/-- FAB_TOPO (R312). -/
def execFabTopo (path : Path) (die : Nat) (val : Word) (s : State) : Res :=
  needUnit "die" die 8 <| s.pathWrite path (Blk.dFab die).base val

/-- XPLAN_START: the write of the high word asks for a step boundary (R314). -/
def execXplanStart (path : Path) (part : Nat) (val : Word) (s : State) : Res :=
  needUnit "partition" part 8 <| s.pathWrite path ((Blk.xplan part).base + 0x2C) val

/-- XPLAN_ARM: ARM written 1 (R319). -/
def execXplanArm (path : Path) (part : Nat) (val : Word) (s : State) : Res :=
  needUnit "partition" part 8 <|
  need s (val.getLsbD 0) /- ARM is not written 1 -/ <| s.pathWrite path (Blk.xplan part).base val

/-- XPLAN_DISARM: ARM written 0 (R319). -/
def execXplanDisarm (path : Path) (part : Nat) (val : Word) (s : State) : Res :=
  needUnit "partition" part 8 <|
  need s (!val.getLsbD 0) /- ARM is not written 0 -/ <| s.pathWrite path (Blk.xplan part).base val

/-- UPD_ARM: ARM written 1 (R345). -/
def execUpdArm (path : Path) (part : Nat) (val : Word) (s : State) : Res :=
  needUnit "partition" part 8 <|
  need s (val.getLsbD 0) /- ARM is not written 1 -/ <| s.pathWrite path (Blk.upd part).base val

/-- UPD_DISARM: ARM written 0 (R350). -/
def execUpdDisarm (path : Path) (part : Nat) (val : Word) (s : State) : Res :=
  needUnit "partition" part 8 <|
  need s (!val.getLsbD 0) /- ARM is not written 0 -/ <| s.pathWrite path (Blk.upd part).base val

/-- UPD_REVERT: REVERT written 1 (R350). -/
def execUpdRevert (path : Path) (part : Nat) (val : Word) (s : State) : Res :=
  needUnit "partition" part 8 <|
  need s (val.getLsbD 3) /- REVERT is not written 1 -/ <| s.pathWrite path (Blk.upd part).base val

/-- PART_DEFINE: a write of `PART_CFGp` with DEFINE = 1 (R370). -/
def execPartDefine (path : Path) (part : Nat) (val : Word) (s : State) : Res :=
  needUnit "partition" part 8 <|
  need s (val.getLsbD 18) /- DEFINE is not written 1 -/ <| s.pathWrite path (partCfgAddr part) val

/-- PART_RESET: a write of `PART_CTRLp` with RESET = 1 (R373). -/
def execPartReset (path : Path) (part : Nat) (val : Word) (s : State) : Res :=
  needUnit "partition" part 8 <|
  need s (val.getLsbD 0) /- RESET is not written 1 -/ <| s.pathWrite path (partCtrlAddr part) val

/-- PART_RELEASE: a write of `PART_CTRLp` with RELEASE = 1 (R374). -/
def execPartRelease (path : Path) (part : Nat) (val : Word) (s : State) : Res :=
  needUnit "partition" part 8 <|
  need s (val.getLsbD 1) /- RELEASE is not written 1 -/ <| s.pathWrite path (partCtrlAddr part) val

/-- CMDT_EN: a write of `CMDT_CTRL` (R376). -/
def execCmdtEn (path : Path) (part : Nat) (val : Word) (s : State) : Res :=
  needUnit "partition" part 8 <| s.pathWrite path (Blk.cmdt part).base val

/-- BOOT_DISCARD: DISCARD written 1 (R406). -/
def execBootDiscard (path : Path) (val : Word) (s : State) : Res :=
  need s (val.getLsbD 1) /- DISCARD is not written 1 -/ <| s.pathWrite path (Blk.boot.base + 0x0C) val

/-- BOOT_NOFAST: the write of NOFAST (R393). -/
def execBootNofast (path : Path) (val : Word) (s : State) : Res := s.pathWrite path (Blk.boot.base + 0x0C) val

/-- CINCH_CAP (R432). -/
def execCinchCap (path : Path) (hub : Nat) (val : Word) (s : State) : Res :=
  needUnit "hub" hub 2 <| s.pathWrite path (Blk.cinch hub).base val

/-- CINCH_FAST (R432). -/
def execCinchFast (path : Path) (hub : Nat) (val : Word) (s : State) : Res :=
  needUnit "hub" hub 2 <| s.pathWrite path ((Blk.cinch hub).base + 4) val

/-- CINCH_CTRL (R432, R441). -/
def execCinchCtrl (path : Path) (hub : Nat) (val : Word) (s : State) : Res :=
  needUnit "hub" hub 2 <| s.pathWrite path ((Blk.cinch hub).base + 8) val

end Sys2Proof.Machine
end

