-- ==== Sys2Proof/Machine/Admit.lean ====
section
/-! DEFINITION. Dispatch (R40 to R45): which core can take a block, what a block holds when it starts, and the
commands of admission, cluster start and release. -/

namespace Sys2Proof.Machine

/-! ### What a core has free (R40, R61) -/

/-- Block slots, group slots, register granules and scratchpad pages in use. -/
def Core.slotsUsed (k : Core) : List Nat := k.blocks.map (·.1)
def Core.groupsUsed (k : Core) : List Nat := k.blocks.flatMap fun b => b.2.gslots
def Core.granulesUsed (k : Core) : List Nat := k.blocks.flatMap fun b => b.2.granules
def Core.pagesUsed (k : Core) : List Nat := k.blocks.flatMap fun b => b.2.pageTab

/-- What a block takes (R40): block slot, group slots, granules and pages, the lowest that are free (R41). -/
structure Room where
  slot : Nat
  gslots : List Nat
  granules : List Nat
  pages : List Nat
  deriving DecidableEq, Repr

/-- Register granules of a block. -/
def Desc.granules (d : Desc) : Nat := d.groups * d.rpt / 8

/-- The resources for a block, where all four are free at once. -/
def Core.room (k : Core) (d : Desc) : Option Room :=
  let b := lowestFree 16 1 k.slotsUsed
  let g := lowestFree 32 d.groups k.groupsUsed
  let r := lowestFree 256 d.granules k.granulesUsed
  let p := lowestFree 256 d.pages k.pagesUsed
  match b with
  | [n] => if g.length = d.groups ∧ r.length = d.granules ∧ p.length = d.pages then some ⟨n, g, r, p⟩ else none
  | _ => none

/-- The decision on a hardware fault of the core's physical core has not been made (R249). -/
def State.faultPending (s : State) (c : Nat) : Bool :=
  match s.physOf c with
  | none => false
  | some p => s.mf.pending.any fun d => match d.what with
      | .core e q _ => e == dieOfCore c && q == p
      | _ => false

/-- A core of a partition that takes new blocks: not vacant (R43), with a seam store (R240), not reserved (R319),
with no fault undecided, and dispatch not paused (R418, R422). -/
def State.takesBlocks (s : State) (p c : Nat) : Bool :=
  (s.diesOf p).contains (dieOfCore c) && (s.part p).st == .running && (s.physOf c).isSome &&
    !(s.die (dieOfCore c)).failedService && !(s.seamStacks (dieOfCore c)).isEmpty && !s.heldForPlan c &&
    !s.faultPending c && !s.mf.rebuild && !s.mf.tripped

/-- The core can admit a block of this shape now. -/
def State.canTake (s : State) (p c : Nat) (d : Desc) : Bool := s.takesBlocks p c && ((s.core c).room d).isSome

/-! ### The next block of a grant (R43, R44) -/

/-- The first grant, in the order of taking, that has a block to start: one that a fault has ended starts none (R59). -/
def Part.nextGrant (q : Part) : Option Grant :=
  q.grants.find? fun (g : Grant) => g.fault.isNone && g.nextLin < g.launch.blocks

/-- A grant with AFTER waits until every earlier grant has its completion record (R377). -/
def Part.afterHeld (q : Part) (g : Grant) : Bool :=
  g.launch.after && match q.grants with
    | h :: _ => h.uid != g.uid
    | [] => false

/-- The descriptor of a grant's next block on a logical core. -/
def Grant.desc (g : Grant) (p core : Nat) : Desc :=
  let l := g.launch
  let n := g.nextLin
  ⟨p, g.uid, l.grant, n, n % l.gx, n / l.gx % l.gy, n / (l.gx * l.gy), l.groups, l.rpt, l.pages, l.csize,
    n % l.csize, l.entry, l.args, l.wdog, l.priv, core⟩

/-- Logical cores that hold the earlier blocks of a block's cluster. -/
def State.clusterCores (s : State) (d : Desc) : List Nat :=
  (s.cores.filter fun (e : Nat × Core) => e.2.blocks.any fun (b : Nat × Block) =>
    b.2.desc.part == d.part && b.2.desc.uid == d.uid && b.2.desc.lin / d.csize == d.lin / d.csize).map (·.1)

/-- A cluster lies on distinct logical cores of one die (R44). -/
def State.clusterFits (s : State) (d : Desc) (c : Nat) : Bool :=
  (s.clusterCores d).all fun e => e != c && dieOfCore e == dieOfCore c

/-- A core may take a block of this descriptor. -/
def State.qualifies (s : State) (d : Desc) (c : Nat) : Bool := s.canTake d.part c d && s.clusterFits d c

/-! ### A block as it starts (R45) -/

/-- A group with the registers of R45. -/
def State.freshGroup (s : State) (d : Desc) (bslot gi : Nat) : Group where
  bslot := bslot
  gidx := gi
  s := [(0, BitVec.ofNat 64 (d.x + d.y * 2 ^ 32 + d.z * 2 ^ 48)),
    (1, BitVec.ofNat 64 (word [(0, d.grant.toNat), (32, gi), (37, d.groups - 1), (42, d.crank), (46, d.csize - 1)])),
    (2, BitVec.ofNat 64 (s.source d.home)), (3, d.argp)]
  threads := (List.range 32).map fun t =>
    { Thread.fresh d.entry with g := [(0, BitVec.ofNat 32 (gi * 32 + t))] }
  gWait := []
  sWait := []
  hold := .none
  lastPc := d.entry
  consec := 0
  waited := []
  forced := none

/-- A block at admission; the blocks of a cluster wait for one another (R44). -/
def Desc.block (d : Desc) (r : Room) : Block where
  desc := d
  st := if 1 < d.csize then .admitted else .running
  gslots := r.gslots
  granules := r.granules
  pageTab := r.pages
  spad := []
  wset := []
  mgmt := []
  phase := .run
  trig := none
  stamp := 0
  pstamp := 0
  cstamp := 0
  logOff := 0
  logLen := 0
  pend := none
  attempt := 0
  applied := false
  final := false
  log := []
  slot := none
  journal := none
  atom := none
  acq := 0
  age := 0
  accSat := false
  accNf := false
  lnf := false
  wds := []
  dirtyP := []
  wroteP := []
  full := true
  stopped := false

/-- Puts the groups of a block, as they start, into its group slots. -/
def State.putGroups (s : State) (c bslot : Nat) (d : Desc) (gs : List Nat) : State :=
  ((List.range gs.length).zip gs).foldl (fun s (e : Nat × Nat) => s.setGroup c e.2 (s.freshGroup d bslot e.1)) s

/-- Every block of a core at or above its high-water mark takes an overflow trigger, after the allowance has changed
(R235, R236). -/
def State.recheck (s : State) (c : Nat) : State :=
  s.updCore c fun k => { k with blocks := k.blocks.mapAll fun (b : Block) =>
    if b.st == .running && !b.final then b.checkMark k.allowance else b }

/-- Changes a grant of a partition. -/
def State.updGrant (s : State) (p uid : Nat) (f : Grant → Grant) : State :=
  s.updPart p fun q => { q with grants := q.grants.map fun (g : Grant) => if g.uid = uid then f g else g }

/-- A block that its core's vacancy has stopped waits for a host core (R252). -/
def Block.displaced (b : Block) : Bool := b.stopped && !b.final && b.st == .running

/-- Blocks of a die that wait for a host core: their vacant logical core, slot and block. -/
def State.displacedOn (s : State) (d : Nat) : List (Nat × Nat × Block) :=
  s.cores.flatMap fun (e : Nat × Core) =>
    if dieOfCore e.1 = d ∧ (s.physOf e.1).isNone then
      (e.2.blocks.filter fun (b : Nat × Block) => b.2.displaced).map fun b => (e.1, b.1, b.2)
    else []

/-- BLOCK_ADMISSION: the dispatcher starts the next block of the partition's grants on a core (R40, R43, R45); its directory
entry is written with VALID = 1, STAMP = 0 and ATTEMPT = 0 (R242). Grants
are served in the order of taking; a block that a vacancy displaced goes first (R252), and a gated core takes none
while an ungated one can (R435). -/
def execBlockAdmission (part core : Nat) (s : State) : Res :=
  needUnit "partition" part 8 <|
  needUnit "logical core" core 1280 <|
  needSome s (s.part part).nextGrant /- no grant has a block to start -/ fun g =>
  need s (!(s.part part).afterHeld g) /- the grant waits for every earlier one (AFTER) -/ <|
  let d := g.desc part core
  need s (s.qualifies d core) /- the core cannot admit the block -/ <|
  need s (!(s.displacedOn (dieOfCore core)).any fun b => s.qualifies b.2.2.desc core) /- a displaced block goes first (R252) -/ <|
  need s (!s.cinch.gated.contains core ||
    !(List.range 1280).any fun c => !s.cinch.gated.contains c && s.qualifies { d with home := c } c)
    /- an ungated core can admit the block (R435) -/ <|
  needSome s ((s.core core).room d) /- the core cannot admit the block -/ fun r =>
  let s := ((s.setBlock core r.slot (d.block r)).putGroups core r.slot d r.gslots).dirWritten core r.slot
  .next ((s.updGrant part g.uid fun g => { g with nextLin := g.nextLin + 1, live := g.live + 1 }).recheck core)

/-! ### Clusters -/

/-- CLUSTER_START: every block of a cluster has been admitted, or replayed, and they start together (R44). -/
def execClusterStart (core slot : Nat) (s : State) : Res :=
  needUnit "logical core" core 1280 <|
  needSome s (s.block core slot) /- the slot holds no block -/ fun b =>
  let ms := s.liveMates core slot
  need s (b.st == .admitted) /- the block has started -/ <|
  need s ((s.mates core slot).length == b.desc.csize) /- a block of the cluster has not been admitted -/ <|
  need s (s.allBlocks ms fun _ _ k => k.st == .admitted && !k.stopped) /- a block of the cluster waits for its replay -/ <|
  .next (ms.foldl (fun s m => s.updBlock m.1 m.2 fun k => { k with st := .running }) s)

/-! ### Release (R40) -/

/-- Frees what a block holds: its slots, granules and pages, its sets and the pricking table, its descriptors. Its directory
entry is written with VALID = 0 (R248). -/
def State.freeBlock (s : State) (c b : Nat) : State :=
  match s.block c b with
  | none => s
  | some k =>
    let mine (g : Nat) : Bool := k.gslots.contains g
    let s := s.updCore c fun q => { q with
      blocks := q.blocks.del b
      groups := q.groups.filter fun (e : Nat × Group) => !mine e.1
      sets := q.sets.mapAll fun (a : AccSet) => match a.holder with
        | some h => if mine h then AccSet.fresh else a
        | none => a
      ptHolder := if q.ptHolder = some b then none else q.ptHolder
      dma := q.dma.filter fun (e : Nat × Dma) => e.2.bslot != b
      ni := q.ni.mapAll fun (e : NiEntry) => if e.bslot = b then { e with dead := true } else e }
    (s.dirWritten c b).recheck c

/-- A block leaves its grant: one whose final commit completed counts as done (R229). -/
def State.leaveGrant (s : State) (k : Block) : State :=
  s.updGrant k.part k.desc.uid fun g => { g with
    live := g.live - 1, done := if k.final && k.st == .committing then g.done + 1 else g.done }

/-- Every line of the block's committed records is made and acknowledged (R243, R248). -/
def Block.allMade (b : Block) : Bool := b.log.all fun r => r.lines.all fun l => l.made

/-- The block has nothing left to do: its final commit is complete, or it stopped and its records are applied. -/
def Block.settled (b : Block) : Bool :=
  (b.final && b.allMade) || (b.st == .stopping && b.log.isEmpty)

/-- The members of a cluster free their resources together (R40). -/
def State.freeMates (s : State) (c b : Nat) : State :=
  (s.mates c b).foldl (fun s m => match s.block m.1 m.2 with
    | some k => (s.leaveGrant k).freeBlock m.1 m.2
    | none => s) s

/-- BLOCK_STOP_RELEASE: a block that stopped frees what it holds, once every committed record of it is applied and,
in a cluster, every member has ended or stopped (R40). A cluster that a grant fault keeps from starting is withdrawn
(R59). -/
def execBlockStopRelease (core slot : Nat) (s : State) : Res :=
  needUnit "logical core" core 1280 <|
  needSome s (s.block core slot) /- the slot holds no block -/ fun b =>
  let unstarted := b.st == .admitted && b.attempt == 0 && (s.mates core slot).length < b.desc.csize &&
    (s.part b.part).grants.all fun (g : Grant) => g.uid != b.desc.uid || g.fault.isSome
  if unstarted then .next (s.freeMates core slot)
  else
    need s (b.st == .stopping) /- the block has not stopped -/ <|
    need s (s.allBlocks (s.mates core slot) fun _ _ k => k.settled)
      /- a committed record is not applied, or a member of the cluster still runs -/ <|
    .next (s.freeMates core slot)

end Sys2Proof.Machine
end

