-- ==== Sys2Proof/Machine/Sessions.lean ====
section
/-! DEFINITION. The Ethernet ports and their frames (R354 to R358), RDMA of the host (R359, R360), the handshake
(R362 to R364), and the session messages (R367 to R369, R384, R385, R428). -/

namespace Sys2Proof.Machine

/-! ### Ports (R354 to R358) -/

/-- The port's link is up. -/
def State.portUp (s : State) (port : Nat) : Bool :=
  nbit (s.reg (.eth port) 0) 31 && nbit (s.reg (.eth port) 4) 31 && s.hubOk (hubOfPort port)

/-- The module in a port's cage is rejected: its register shows it seated with a failed check (R355). -/
def State.portRejected (s : State) (port : Nat) : Bool :=
  let m := s.reg (.eth port) 0xA0
  nbit m 0 && m / 2 % 8 != 7

/-- The port has been brought up: MP and EP0 to EP3 at firmware start, MP alone while the part waits for an image (R388,
R392). -/
def State.portRaised (s : State) (port : Nat) : Bool :=
  s.boot.firmware || (port == 4 && s.boot.phase == .recovery)

/-- ETH_LINK_CHANGE: a port's link comes up with a PHY, or goes down (R354, R355). -/
def execEthLinkChange (port : Nat) (up : Bool) (phy : Nat) (fec : Bool) (s : State) : Res :=
  needUnit "port" port 5 <|
  need s (!up || s.hubOk (hubOfPort port)) /- the port's hub is not in service -/ <|
  need s (!up || (nbit (s.reg (.eth port) 4) 31 && s.portRaised port)) /- the port is down -/ <|
  let app := if s.boot.firmware then s.host.apps.find port else some .gaui25
  need s (!up || (match app with
    | some .cr4 => phy == 1 && fec
    | some .gaui400C2m => phy == 2 && fec
    | some .gaui25 => phy == 3
    | _ => false)) /- the module selected gives no such PHY option of R354 -/ <|
  .next (s.setReg (.eth port) 0 (if up then word [(31, 1), (28, phy), (27, fec.toNat)] else 0))

/-- One event per SA in a beat for dropped packets (R358): 0 no SA, 1 ICV, 2 replay. -/
def State.espDrop (s : State) (port spi why : Nat) : State :=
  let s := s.count (.eth port) 0xD0 1
  if s.host.dropRec.contains spi then s
  else (s.updHost fun h => { h with dropRec := h.dropRec ++ [spi] }).record (unitPort port) 0x1006 1 0xF
    [(0, spi), (32, why)]

/-- A frame of traffic that is not in R357 is dropped and counted. -/
def State.ethDrop (s : State) (port : Nat) : State := s.count (.eth port) 0xE0 1

/-! ### Identities (R356): 0 to 7 the dies and 8 the package on EP0 to EP3, 8 alone on MP -/

/-- Base address of the package: `PKG_MAC_BASE.MAC`. -/
def State.macBase (s : State) : BitVec 48 :=
  match s.boot.fuse with
  | some f => f.mac
  | none => 0

/-- MAC address of an identity of a port. -/
def State.macOf (s : State) (port i : Nat) : BitVec 48 :=
  s.macBase + BitVec.ofNat 48 (if port = 4 then 36 else if i = 8 then 32 + port else 8 * port + i)

/-- The IPv6 link-local address of a MAC address, as a modified EUI-64. -/
def linkLocal (m : BitVec 48) : BitVec 128 :=
  let m := m.toNat
  BitVec.ofNat 128 (0xFE80 * 2 ^ 112 + (m / 2 ^ 24 ^^^ 0x020000) * 2 ^ 40 + 0xFFFE * 2 ^ 24 + m % 2 ^ 24)

/-- `ETH_IPi`, low word first; 0 stands for none (notes/assumptions/155). -/
def State.ipOf (s : State) (port i : Nat) : BitVec 128 :=
  BitVec.ofNat 128 (((List.range 4).map fun j => s.reg (.eth port) (0x10 + 16 * i + 4 * j) * 2 ^ (32 * j)).sum)

/-- An IPv4 address in IPv4-mapped form. -/
def isV4 (a : BitVec 128) : Bool := a.toNat / 2 ^ 32 == 0xFFFF

/-- The identity has the IP address. -/
def State.hasIp (s : State) (port i : Nat) (a : BitVec 128) : Bool :=
  a == linkLocal (s.macOf port i) || (a != 0 && a == s.ipOf port i)

/-- The identity of a port that a frame is for: it has the address, and the frame goes to its MAC address, or, where `group`
allows it, to a group address. -/
def State.identityFor (s : State) (port : Nat) (f : EthDst) (group : Bool) : Option Nat :=
  ((List.range 9).filter fun i => port < 4 || i == 8).find? fun i =>
    s.hasIp port i f.ip && (f.mac == s.macOf port i || (group && f.mac.getLsbD 40))

/-! ### IPsec (R358, R366) -/

/-- Packets of the anti-replay window (R358). -/
def replayWindow : Nat := 1024

/-- SPI of the SA of a session for a port and a direction, 0 from host to part (R366). -/
def spiOf (n port dir : Nat) : Nat := 16 * n + 2 * port + dir + 0x100

/-- Key and salt of the SA of a session for a port and a direction (R366); read by nothing but the port. -/
def Session.saKey (x : Session) (port dir : Nat) : BitVec 288 :=
  Config.hkdf (natLe 48 x.z.toNat) (natLe 64 x.nonces.toNat)
    ([0x65, 0x73, 0x70] ++ natLe 1 port ++ natLe 1 dir)

/-- The session that an inbound SPI of a port names (R366). -/
def State.spiSession (s : State) (port spi : Nat) : Option Nat :=
  let n := (spi - 0x100) / 16
  if spi = spiOf n port 0 ∧ (s.host.sessions.find n).isSome then some n else none

/-- The identity is one of the session's (R356, R357): MP's serves every session, a die's its partition, the package's the
package. -/
def State.ownIdentity (s : State) (x : Session) (port i : Nat) : Bool :=
  match x.scope with
  | .package => i == 8
  | .partition p => port == 4 || (s.diesOf p).contains i

/-- What an authenticated packet carries for an identity (R357, R359). -/
def State.innerTake (s : State) (n : Nat) (x : Session) (port i : Nat) : Inner → State
  | .message => if s.ownIdentity x port i then s else s.ethDrop port
  | .other => s.ethDrop port
  | .roce qpn ce op => match s.host.qps.find qpn with
    | none => s.ethDrop port
    | some q =>
      if q.sess ≠ n ∨ q.die ≠ i then s.ethDrop port
      else
        let s := if ce then s.emit (.cnp qpn) else s
        match op with
        | .supported => s
        | .unsupported => (s.emit (.rdmaNak qpn 1)).count (.eth port) 0xD8 1
        | .otherTransport => s.ethDrop port

/-- An ESP packet for an identity is checked and taken (R358, R366). -/
def State.espTake (s : State) (port i spi : Nat) (seq : DWord) (icvOk : Bool) (inner : Inner) : State :=
  match s.spiSession port spi with
  | none => s.espDrop port spi 0
  | some n => match s.host.sessions.find n with
    | none => s
    | some x =>
      let w := x.seen.get spi (0, [])
      if !icvOk then s.espDrop port spi 1
      else if seq.toNat + replayWindow ≤ w.1 || w.2.contains seq.toNat then s.espDrop port spi 2
      else
        let top := max w.1 seq.toNat
        let seen := (seq.toNat :: w.2).filter fun q => top < q + replayWindow
        let x := { x with port := port, lastPkt := s.time.tsc, seen := x.seen.put spi (top, seen) }
        (s.updHost fun h => { h with sessions := h.sessions.put n x }).innerTake n x port i inner

/-- ETH_FRAME: a frame for an identity of the port is answered, taken or dropped (R354, R356 to R359). -/
def execEthFrame (port : Nat) (f : EthDst) (kind : EthKind) (s : State) : Res :=
  needUnit "port" port 5 <|
  need s (s.portUp port) /- the port has no link -/ <|
  let s := s.count (.eth port) 0xC0 1
  let ctrl := s.reg (.eth port) 4
  let taken (group : Bool) (k : Nat → State) : Res := .next (match s.identityFor port f group with
    | some i => k i
    | none => s.ethDrop port)
  if f.vlan ≠ ctrl % 4096 then .next (s.ethDrop port)
  else match kind with
    | .arp => if isV4 f.ip then taken true fun i => s.emit (.ethReply port i) else .next (s.ethDrop port)
    | .neighbour => if isV4 f.ip then .next (s.ethDrop port) else taken true fun i => s.emit (.ethReply port i)
    | .echo => taken false fun i => s.emit (.ethReply port i)
    | .handshake => taken false fun _ => s
    | .esp spi seq icvOk inner => taken false fun i => s.espTake port i spi seq icvOk inner
    | .pfc prio => .next (if port < 4 ∧ prio < 8 ∧ prio = ctrl / 2 ^ 12 % 16 then s else s.ethDrop port)
    | .cleartextRoce | .cleartextSession | .other => .next (s.ethDrop port)

/-! ### RDMA of the host (R359, R360) -/

/-- Refuses an operation with a NAK: 1 Invalid Request, 2 Remote Access Error, 3 Remote Operational Error. -/
def State.rdmaRefuse (s : State) (port qpn code : Nat) : State :=
  (s.emit (.rdmaNak qpn code)).count (.eth port) 0xD8 1

/-- A range that RDMA may name: device addresses within the partition's HBM or LPDDR range (R360). -/
def State.rdmaRange (s : State) (p : Nat) (a : DWord) (n : Nat) : Bool := n == 0 || s.inRanges p a n

/-- An RDMA operation on a QP: its session's key and the partition's ranges are checked, and it waits while its homes do
(R268, R270, R360). -/
def State.rdmaOp (s : State) (qpn rkey : Nat) (a : DWord) (n : Nat) (k : Qp → State → State) : Res :=
  needSome s (s.host.qps.find qpn) /- no such QP -/ fun q =>
  needSome s (s.host.sessions.find q.sess) /- the QP's session is closed -/ fun x =>
  need s (!s.mf.tripped) /- memory traffic is stopped (R422) -/ <|
  let ok := rkey == x.rkey && s.rdmaRange q.part a n
  need s (!ok || !s.hubHeld q.part a n) /- a home of the range is held -/ <|
  let s := s.updHost fun h => { h with sessions := h.sessions.modify q.sess fun y => { y with lastPkt := s.time.tsc } }
  if ok then .next (k q s) else .next (s.rdmaRefuse q.port qpn 2)

/-- The lines that a write of a range changes only in part, and so reads (R218). -/
def partLines (a : DWord) (n : Nat) : List (DWord × Nat) :=
  (List.range (ceilDiv (lineOff a + n) 64)).filterMap fun i =>
    let l := lineOf a + BitVec.ofNat 64 (64 * i)
    if (i = 0 ∧ lineOff a ≠ 0) ∨ lineOff a + n < 64 * i + 64 then some (l, 64) else none

/-- RDMA_WRITE: the lines are made at their homes in ascending order, then the write is acknowledged (R360). -/
def execRdmaWrite (qpn rkey : Nat) (addr : DWord) : Payload → State → Res
  | ⟨bytes, v⟩, s =>
    s.rdmaOp qpn rkey addr bytes.length fun q s =>
      ((s.hubCheck q.part v (partLines addr bytes.length)).hubStore q.part addr bytes).emit (.rdmaAck qpn)

/-- RDMA_READ: the bytes, or a Remote Operational Error NAK where a line is poisoned or its home is out of service
(R266, R360). -/
def execRdmaRead (qpn rkey : Nat) (addr : DWord) : Reads → State → Res
  | ⟨len, v⟩, s =>
    s.rdmaOp qpn rkey addr len fun q s =>
      let s := s.hubCheck q.part v [(addr, len)]
      if len ≠ 0 ∧ s.hubPoisoned q.part addr len then s.rdmaRefuse q.port qpn 3
      else s.emit (.rdmaData qpn (s.hubBytes q.part addr len))

/-! ### The handshake (R362 to R364) -/

/-- Ticks of a second. -/
def second : Nat := 1000000000

/-- A scope code: 0xF the package, 0 to 7 a partition (R386). -/
def scopeOfCode (c : Nat) : Scope := if c < 8 then .partition c else .package

/-- PART of a scope's record. -/
def scopeCode : Scope → Nat
  | .package => 0xF
  | .partition p => p

/-- The failed proofs of a scope's owner. -/
def HostSide.failsOf (h : HostSide) (sc : Scope) : Option Fails := h.fails.find? fun f => f.scope == sc

/-- The credential in force takes the method: the package owner's KEY only; a tenant's its own; before a claim the
claim code (R362, R364, R369). -/
def State.holdsMethod (s : State) (sc : Scope) (pw : Bool) : Bool :=
  match sc with
  | .package => if s.host.owner.isSome then !pw else pw
  | .partition p => match (s.part p).tenant with
    | some (.key _) => !pw
    | some (.password _ _ _) => pw
    | none => false

/-- A tenant session may be opened (R364). -/
def PartSt.takesSession : PartSt → Bool
  | .defined | .opened | .running | .erased => true
  | .free | .resetting | .erasing => false

/-- Checks 2 to 5 of R364: the reason of the first that fails. -/
def State.ownerCheck (s : State) (port : Nat) (sc : Scope) (pw : Bool) : Option Nat :=
  let stateOk := match sc with
    | .package => true
    | .partition p => (s.part p).st.takesSession
  if s.host.owner.isNone && !(sc == .package && port == 4 && pw) then some 2
  else if !stateOk then some 3
  else if !s.holdsMethod sc pw then some 4
  else if (s.host.failsOf sc).any fun f => f.locked then some 5
  else none

/-- REFUSE with its reason, and its record (R364, R386). -/
def State.refuseSession (s : State) (port part reason : Nat) : State :=
  (s.emit (.refuse port reason)).record s.seqUnit 0x1002 0 part [(0, reason), (8, port)]

/-- The private identity key (R383). -/
def State.identity (s : State) : BitVec 384 :=
  match s.boot.fuse with
  | some f => Config.identityKey f.secret
  | none => 0

/-- The certificate chain that comes with every REPLY and every report (R383). -/
def State.chain (s : State) : List Byte := Config.certChain (Config.ecPublic s.identity)

/-- The bytes of a HELLO, its fields in R363's order (notes/assumptions/154). -/
def helloBytes (h : Hello) : List Byte :=
  natLe 1 h.version ++ natLe 1 h.scope ++ natLe 1 h.method ++ natLe 97 h.pub.toNat ++ natLe 32 h.nonce.toNat ++
    natLe 1 h.takeover.toNat

/-- Salt and count that REPLY carries for PASSWORD: of the owner's record, or before a claim those in the fuses (R363,
R369). -/
def State.saltCount (s : State) : Scope → Option (BitVec 256 × Nat)
  | .package => s.boot.fuse.map fun f => (f.claimSalt, f.claimCount.toNat)
  | .partition p => match (s.part p).tenant with
    | some (.password salt count _) => some (salt, count)
    | _ => none

/-- The bytes of a REPLY up to the signature. -/
def replyBytes (eph : BitVec 776) (nonce : BitVec 256) (pw : Option (BitVec 256 × Nat)) (chain : List Byte) : List Byte :=
  natLe 97 eph.toNat ++ natLe 32 nonce.toNat ++ (match pw with
    | some x => natLe 32 x.1.toNat ++ natLe 4 x.2
    | none => []) ++ chain

/-- The part answers a HELLO with REPLY and holds the handshake: it draws an ephemeral key and a nonce, and signs the
transcript with its identity key (R363). -/
def State.beginShake (s : State) (port : Nat) (h : Hello) (sc : Scope) : State :=
  let (eph, s) := s.drawKey
  let (key, s) := s.drawKey
  let nonce : BitVec 256 := key.setWidth 256
  let pw := if h.method = 1 then s.saltCount sc else none
  let n := s.host.shakes.foldl (fun a (e : Nat × Handshake) => max a (e.1 + 1)) 0
  let s := s.updHost fun x => { x with
    shakes := x.shakes.put n ⟨port, sc, h.method == 1, h.takeover, s.host.owner.isNone, s.time.tsc,
      Config.ecdh eph h.pub, BitVec.ofNat 512 (h.nonce.toNat + 2 ^ 256 * nonce.toNat)⟩ }
  let pub := Config.ecPublic eph
  s.emit (.reply port n pub nonce pw s.chain
    (Config.ecdsa s.identity (Config.sha384 (helloBytes h ++ replyBytes pub nonce pw s.chain))))

/-- HELLO: a handshake begins; what can be checked before the proof is (R363, R364). Before `PKG_ID.VALID` the part
accepts no session (R13). -/
def execHello (port : Nat) (h : Hello) (s : State) : Res :=
  needUnit "port" port 5 <|
  need s (s.portUp port) /- the port has no link -/ <|
  need s s.boot.firmware /- the firmware has not started -/ <|
  if nbit (s.reg .pkg 0x10) 30 then
    if h.malformed || h.version != 1 || (8 ≤ h.scope && h.scope != 0xF) || 2 ≤ h.method then
      .next (s.refuseSession port 0xF 1)
    else
      let sc := scopeOfCode h.scope
      match s.ownerCheck port sc (h.method == 1) with
      | some r => .next (s.refuseSession port (scopeCode sc) r)
      | none => .next (s.beginShake port h sc)
  else .next s

/-- Failed proofs that lock a method, and the first lock in seconds (R364). -/
def lockAfter : Nat := 5
def lockFirst : Nat := 60

/-- A failed proof is counted; the fifth in succession and each further one locks the method (R364). -/
def State.proofFails (s : State) (sc : Scope) : State :=
  s.updHost fun h =>
    let n := (match h.failsOf sc with
      | some f => f.count
      | none => 0) + 1
    let f : Fails := if n < lockAfter then ⟨sc, n, false, 0, 0⟩
      else ⟨sc, n, true, min (2 ^ 16) (lockFirst * 2 ^ min 16 (n - lockAfter)), s.time.tsc⟩
    { h with fails := (h.fails.filter fun g => g.scope != sc) ++ [f], failTotal := satAdd 16 h.failTotal 1 }

/-- The owner's failures are forgotten (R364). -/
def State.clearFails (s : State) (sc : Scope) : State :=
  s.updHost fun h => { h with fails := h.fails.filter fun g => g.scope != sc }

/-- A session opens: its number, its device R_Key, the lock of its partition's RWL fields (R363 to R366, R371, R467). -/
def State.openSession (s : State) (k : Handshake) : State :=
  let n := s.host.nextSess
  let (w, t) := s.drawWord
  let (rkey, s) : Nat × State := match k.scope with
    | .package => (0, s)
    | .partition _ => (w.toNat, t)
  let s := s.updHost fun h => { h with
    sessions := h.sessions.put n ⟨k.scope, k.pw, k.port, rkey, k.claim, s.time.tsc, [], [], k.z, k.nonces⟩, nextSess := n + 1 }
  let s := s.record (unitPort k.port) 0x1001 0 (scopeCode k.scope) [(0, n), (32, scopeCode k.scope), (36, k.pw.toNat)]
  let s := match k.scope with
    | .package => s
    | .partition p =>
      let s := s.updPart p fun q => { q with session := some n, locked := true }
      if (s.part p).st == PartSt.defined then s.setPartSt p .opened else s
  s.emit (.accept k.port n ((List.range 5).flatMap fun i => [spiOf n i 0, spiOf n i 1]) rkey)

/-- Package sessions open. -/
def State.packageSessions (s : State) : Nat :=
  (s.host.sessions.filter fun (e : Nat × Session) => e.2.scope == .package).length

/-- PROOF: the handshake's remaining checks, in their order, then its session (R364). A proof of a handshake that was
dropped is dropped. -/
def execProof (hs : Nat) (ok : Bool) (s : State) : Res :=
  match s.host.shakes.find hs with
  | none => .next s
  | some k =>
    if k.began.toNat + 2 * second ≤ s.time.tsc.toNat then .next s
    else
      let s := s.updHost fun h => { h with shakes := h.shakes.del hs }
      let part := scopeCode k.scope
      match s.ownerCheck k.port k.scope k.pw with
      | some r => .next (s.refuseSession k.port part r)
      | none =>
        if !ok then .next ((s.proofFails k.scope).refuseSession k.port part 6)
        else
          let s := s.clearFails k.scope
          let old := match k.scope with
            | .package => none
            | .partition p => (s.part p).session
          if old.isSome && !k.takeover then .next (s.refuseSession k.port part 7)
          else if k.scope == .package && 2 ≤ s.packageSessions then .next (s.refuseSession k.port part 8)
          else
            let s := match old with
              | some n => s.closeSession n 1
              | none => s
            .next (s.openSession k)

/-- HANDSHAKE_TIMEOUT: a handshake not complete within 2 s is dropped without a REFUSE (R363, R364). -/
def execHandshakeTimeout (hs : Nat) (s : State) : Res :=
  needSome s (s.host.shakes.find hs) /- no such handshake -/ fun k =>
  need s (k.began.toNat + 2 * second ≤ s.time.tsc.toNat) /- the handshake began less than 2 s ago -/ <|
  .next ((s.updHost fun h => { h with shakes := h.shakes.del hs }).record s.seqUnit 0x1002 0 (scopeCode k.scope)
    [(0, 9), (8, k.port)])

/-- LOCK_EXPIRY: a method's lock ends; the count of failures stays (R364). -/
def execLockExpiry (sc : Scope) (s : State) : Res :=
  needSome s (s.host.failsOf sc) /- no failed proof of this owner is counted -/ fun f =>
  need s f.locked /- the owner's method is not locked -/ <|
  need s (f.since.toNat + f.secs * second ≤ s.time.tsc.toNat) /- the lock has not run out -/ <|
  .next (s.updHost fun h => { h with fails := h.fails.map fun g => if g.scope = sc then { g with locked := false } else g })

/-- SESSION_IDLE_TIMEOUT: `SESS_CTRL.IDLE` seconds without an authenticated packet (R365). -/
def execSessionIdleTimeout (sess : Nat) (s : State) : Res :=
  needSome s (s.host.sessions.find sess) /- the session is not open -/ fun x =>
  let idle := s.reg .sess 4
  need s (idle != 0) /- sessions have no idle limit -/ <|
  need s (x.lastPkt.toNat + idle * second ≤ s.time.tsc.toNat) /- the limit has not passed -/ <|
  .next (s.closeSession sess 2)

/-! ### Session messages (R367) -/

/-- A message refused. -/
def State.no (s : State) (n : Nat) : Res := .next (s.emit (.refused n))

/-- A message of partition scope. -/
def State.tenantMsg (s : State) (n : Nat) (erasedOk : Bool) (k : Nat → State → Res) : Res :=
  s.message n erasedOk fun x s => match x.scope with
    | .partition p => k p s
    | .package => s.no n

/-- A message of package scope. -/
def State.packageMsg (s : State) (n : Nat) (k : State → Res) : Res :=
  s.message n true fun x s => match x.scope with
    | .package => k s
    | .partition _ => s.no n

/-- QPs of the package, and their numbers from 2 on (R359). -/
def qpMax : Nat := 16384

/-- QPNs that a registered window still names. -/
def State.windowQpns (s : State) : List Nat :=
  (List.range 8).flatMap fun p => (s.part p).windows.map fun w => w.2.qpn

/-- Path MTUs (R359). -/
def pathMtus : List Nat := [1024, 2048, 4096]

/-- QP_CREATE: a QP of the session's partition on one of its die identities, at one of the ports that have them (R354, R356,
R359, R360, R367). -/
def execQpCreate (sess : Nat) : QpIn → State → Res
  | ⟨die, port, mtu⟩, s =>
    s.tenantMsg sess false fun p s =>
      let mine := (s.host.qps.filter fun (e : Nat × Qp) => e.2.part == p).length
      let used := s.host.qps.map (·.1) ++ s.windowQpns
      match ((List.range (used.length + 1)).map (· + 2)).find? fun n => !used.contains n with
      | none => s.no sess
      | some n =>
        if !(s.diesOf p).contains die || 4 ≤ port || !pathMtus.contains mtu || s.reg .part (4 * p) % 2 ^ 15 ≤ mine ||
          qpMax ≤ s.host.qps.length then s.no sess
        else .next ((s.updHost fun h => { h with qps := h.qps.put n ⟨p, die, sess, port, mtu, 0, 0, []⟩ }).emit (.qpn sess n))

/-- QP_DESTROY: a QP of the session goes (R361). -/
def execQpDestroy (sess qpn : Nat) (s : State) : Res :=
  s.tenantMsg sess false fun _ s => match s.host.qps.find qpn with
    | some q => if q.sess = sess then
        .next ((s.updHost fun h => { h with qps := h.qps.del qpn }).emit (.ok sess)) else s.no sess
    | none => s.no sess

/-- KEYS: the link key, and XTS keys that the part draws, are installed (R273, R306, R367); refused while RUNNING.
In ERASED they move the partition to OPEN, and they make a release token void (R371, R428). -/
def execKeys (sess : Nat) (linkKey : BitVec 256) (s : State) : Res :=
  s.tenantMsg sess true fun p s =>
    let st := (s.part p).st
    if st == .running then s.no sess
    else
      let s := (s.diesOf p).foldl (fun s d => (s.forget d).updDie d fun u => { u with keyed := true }) s
      let s := (s.updPart p fun q => { q with
        keys := true, linkKey := linkKey, epoch := q.epoch + 1, deadFlows := [], txCtr := [], rxCtr := []
        eraseReport := none }).updHost fun h => { h with token := none }
      let s := if st == .erased then s.setPartSt p .opened else s
      .next (s.emit (.ok sess))

/-- PEERS: the peer table, of at most 1,024 entries, while the partition is OPEN (R367). -/
def execPeers (sess : Nat) (es : List PeerEntry) (s : State) : Res :=
  s.tenantMsg sess false fun p s =>
    if (s.part p).st != .opened || 1024 < es.length then s.no sess
    else .next ((s.updPart p fun q => { q with peers := es, peersIn := true }).emit (.ok sess))

/-- START: the partition starts at the next boundary; it needs KEYS, PEERS, EN = 0 and a ready part (R372, R405). -/
def execStart (sess : Nat) (s : State) : Res :=
  s.tenantMsg sess false fun p s =>
    let q := s.part p
    if q.st != .opened || !q.keys || !q.peersIn || s.cmdtOn p || !s.boot.ready || q.startPend.isSome then s.no sess
    else .next ((s.updPart p fun q => { q with startPend := some (s.beatNo + 1) }).emit (.ok sess))

/-- The partition can be zeroised (R371, R423). -/
def PartSt.erasable : PartSt → Bool
  | .defined | .opened | .running | .resetting | .erased => true
  | .free | .erasing => false

/-- ZEROISE: key zeroisation of the partition named; a partition-bound session names its own (R367, R374). -/
def execZeroise (sess part : Nat) (s : State) : Res :=
  s.message sess true fun x s =>
    if 8 ≤ part || (x.scope != .package && x.scope != .partition part) || !(s.part part).st.erasable then s.no sess
    else .next (((s.emit (.ok sess)).mfCount).zeroisePart part false)

/-- CLOSE: the session ends (R365). -/
def execClose (sess : Nat) (s : State) : Res :=
  needSome s (s.host.sessions.find sess) /- the session is not open -/ fun x =>
  if x.claim then s.no sess else .next ((s.emit (.ok sess)).closeSession sess 0)

/-- A report over the whole package (R385). -/
def State.packageReport (s : State) (nonce : BitVec 256) : Report :=
  { s.eraseReport 0 false with
    kind := 1, mapped := ((List.range 8).map s.mapped).sum, expected := 1280, dies := 0xFF, owner := s.host.owner
    nonce := nonce, epoch := 0, ztsc := 0, stsc := 0, erase := 0 }

/-- A report over a partition (R385). -/
def State.partReport (s : State) (p : Nat) (nonce : BitVec 256) : Report :=
  { s.eraseReport p false with kind := 2, nonce := nonce, ztsc := 0, stsc := 0, erase := 0 }

/-- The bytes of an owner record (R362; their order is not given, notes/assumptions/154). -/
def credBytes : Cred → List Byte
  | .key pub => natLe 97 pub.toNat
  | .password salt count kpw => natLe 32 salt.toNat ++ natLe 4 count ++ natLe 48 kpw.toNat

/-- OWNER of a report: SHA-384 of the owner record in force; zero where there is none. -/
def ownerHash : Option Cred → BitVec 384
  | some c => Config.sha384 (credBytes c)
  | none => 0

/-- Bytes 0 to 207 of a report (R385). -/
def State.reportBytes (s : State) (r : Report) : List Byte :=
  natLe 2 1 ++ natLe 2 r.kind ++ natLe 4 (s.viewPkg 0) ++ natLe 2 (s.viewPkg 4) ++ natLe 6 0 ++ natLe 8 r.serial.toNat ++
    natLe 48 r.fwhash.toNat ++ natLe 4 r.fwver.toNat ++ natLe 2 r.mapped ++ natLe 2 r.expected ++ natLe 1 r.dies ++
    natLe 1 r.flags ++ natLe 6 0 ++ natLe 48 (ownerHash r.owner).toNat ++ natLe 32 r.nonce.toNat ++ natLe 8 r.tsc.toNat ++
    natLe 8 r.epoch ++ natLe 8 r.ztsc.toNat ++ natLe 8 r.stsc.toNat ++ natLe 8 r.erase

/-- A report is signed with the identity key and leaves with its certificate chain (R383, R385). -/
def State.sendReport (s : State) (sess : Nat) (r : Report) : State :=
  s.emit (.report sess { r with sig := Config.ecdsa s.identity (Config.sha384 (s.reportBytes r)) } s.chain)

/-- ATTEST: a package, partition or erase report (R384, R385); an erase report is must-finish operation 7 (R472). -/
def execAttest (sess kind part : Nat) (nonce : BitVec 256) (s : State) : Res :=
  s.message sess true fun x s =>
    let mine := x.scope == .package || x.scope == .partition part
    if kind = 1 then
      if x.scope == .package then .next (s.sendReport sess (s.packageReport nonce)) else s.no sess
    else if 8 ≤ part || !mine || (s.part part).st == .free then s.no sess
    else if kind = 2 then .next (s.sendReport sess (s.partReport part nonce))
    else match kind, (s.part part).eraseReport with
      | 3, some r =>
        .next (((s.mfCount).sendReport sess { r with nonce := nonce, tsc := s.time.tsc }).mfDone 7 part)
      | _, _ => s.no sess

/-- Iterations that a password record has at least (R362). -/
def minIterations : Nat := 100000

/-- A tenant's record may be registered (R362). -/
def credOk : Cred → Bool
  | .key _ => true
  | .password _ count _ => minIterations ≤ count

/-- ASSIGN: the package owner registers a partition's tenant (R362, R367, R371). -/
def execAssign (sess part : Nat) (c : Cred) (s : State) : Res :=
  s.packageMsg sess fun s =>
    if 8 ≤ part || (s.part part).st == .free || !credOk c then s.no sess
    else .next (((s.updPart part fun q => { q with tenant := some c }).clearFails (.partition part)).emit (.ok sess))

/-- OWNER: the package owner's key; the first message of a claim session (R367, R369). -/
def execOwner (sess : Nat) (pub : BitVec 776) (s : State) : Res :=
  needSome s (s.host.sessions.find sess) /- the session is not open -/ fun x =>
  if x.scope != .package then s.no sess
  else
    let s := (s.updHost fun h => { h with
      owner := some (.key pub), sessions := h.sessions.put sess { x with claim := false, lastPkt := s.time.tsc } }).updFlash
      fun f => { f with owner := some (.key pub) }
    .next ((if x.claim then s.record s.seqUnit 0x1007 0 0xF [(0, (ownerHash (some (.key pub))).toNat % 2 ^ 48)] else s).emit
      (.ok sess))

/-- EVREAD: the partition's records from a ring index on (R367); must-finish operation 2 (R472). -/
def execEvread (sess index count : Nat) (s : State) : Res :=
  s.tenantMsg sess true fun p s =>
    let ring := s.log.ring.reverse
    let first := s.log.total - ring.length
    let from' := (List.range ring.length).find? fun j => (first + j) % 16384 == index
    let rs := match from' with
      | some j => ((ring.drop j).filter fun r => r.part == p).take count
      | none => []
    .next ((s.mfCount).emit (.records sess rs))

/-- Bytes 0 to 143 of a release token (R428). -/
def tokenBytes (t : Token) : List Byte :=
  natLe 8 2 ++ natLe 8 t.serial.toNat ++ natLe 48 (ownerHash t.owner).toNat ++ natLe 8 t.tsc.toNat ++ natLe 1 t.erased ++
    natLe 7 t.wedged ++ natLe 4 t.retained ++ natLe 4 t.field ++ natLe 48 t.fwhash.toNat ++ natLe 8 0

/-- RELEASE: return to the maker: every partition FREE, the owner record removed, the token answered (R428). -/
def execRelease (sess : Nat) (s : State) : Res :=
  s.packageMsg sess fun s =>
    if (List.range 8).any fun p => (s.part p).st != .free then s.no sess
    else
      let r := s.packageReport 0
      let mask (f : Part → Bool) : Nat := listMask ((List.range 8).filter fun p => f (s.part p))
      let t : Token := ⟨r.serial, s.host.owner, s.time.tsc, mask (·.scrubbed), mask (·.wedgedErase), s.log.retained.length,
        s.fieldEntries.length, r.fwhash, 0⟩
      let t := { t with sig := Config.ecdsa s.identity (Config.sha384 (tokenBytes t)) }
      let s := (s.updHost fun h => { h with owner := none, token := some t }).updFlash fun f => { f with owner := none }
      .next ((s.record s.cantle0 0x120F 0 0xF [(0, t.tsc.toNat)]).emit (.token sess t))

/-- PRIVLAUNCH: a privileged grant for the next boundary, or its rejection, answered at once (R368). -/
def execPrivlaunch (sess part : Nat) (bytes : List Byte) (s : State) : Res :=
  s.packageMsg sess fun s =>
    if 8 ≤ part || (s.part part).st != .running || bytes.length != 120 then s.no sess
    else
      let v := leNat bytes
      match s.checkLaunch part v true with
      | some r => .next (s.emit (.privReply sess r))
      | none => .next ((s.updPart part fun q => { q with
          priv := q.priv ++ [⟨sess, launchOf v, 0, s.beatNo + 1⟩] }).emit (.privReply sess 0))

end Sys2Proof.Machine
end

