-- ==== Sys2Proof/Machine/Boot.lean ====
section
/-! DEFINITION. From reset to ready (chapters 17 and 20): reset and its pins, the fuses, the firmware image, the board's
records, the compute dies, their tests, the memories, the core map, and ready. -/

namespace Sys2Proof.Machine

/-! ### Reset and pins (R388, R453, R454, R456) -/

/-- The package cold reset: everything but the fuses and board flash is cleared (R456). -/
def State.coldReset (s : State) : State := State.cold s.flash s.pending s.out s.freeCtr

/-- PACKAGE_COLD_RESET: PKG_RST_N falls (R456). -/
def execPackageColdReset (s : State) : Res := .next s.coldReset

/-- RESET_RELEASE: PKG_RST_N rises, with PG_BOARD high and the straps standing (R388, R450, R452). -/
def execResetRelease (straps : BitVec 14) (s : State) : Res :=
  need s (!s.boot.rstN) /- the reset is released already -/ <|
  .next (s.updBoot fun b => { b with rstN := true, pgBoard := true, straps := straps })

/-- PG_BOARD_FALL: PG_BOARD falls while PKG_RST_N is high, which acts as a package cold reset (R453). -/
def execPgBoardFall (s : State) : Res :=
  need s (s.boot.rstN && s.boot.pgBoard) /- PG_BOARD is low, or PKG_RST_N is low -/ <|
  .next (s.coldReset.updBoot fun b => { b with pgBoard := false })

/-- PG_C_FALL: a compute rail leaves tolerance; its die reports no more (R454). -/
def execPgCFall (die : Nat) (s : State) : Res :=
  needUnit "die" die 8 <|
  need s (s.boot.rstN && (s.die die).powered && !(s.die die).powerLost) /- the die's rail is not in tolerance -/ <|
  .next (s.updDie die fun d => { d with powerLost := true })

/-- CANTLE_PLL_LOCK: the TSC counts from 0 (R27, R388). -/
def execCantlePllLock (s : State) : Res :=
  need s (s.boot.rstN && !s.boot.pll) /- the reset is held, or the PLL is locked -/ <|
  .next { s.updBoot fun b => { b with pll := true } with time := { s.time with tsc := 0 } }

/-! ### Hubs that fail a start (R388, R389, R399) -/

def State.updHub (s : State) (h : Nat) (f : Hub → Hub) : State :=
  s.updBoot fun b => if h = 0 then { b with hub0 := f b.hub0 } else { b with hub1 := f b.hub1 }

/-- The start has stopped for good: the fault output (R389, R456). -/
def State.bootStops (s : State) : State :=
  { s.updBoot fun b => { b with phase := .stopped } with pins := { s.pins with fault := true } }

/-- The primary hub: H0 unless it has failed; with both gone the start stops (R9, R389). -/
def State.choosePrimary (s : State) : State :=
  let b := s.boot
  let s := s.updBoot fun b => { b with h1Primary := b.hub0.failed || b.hub0.lost }
  if (b.hub0.failed || b.hub0.lost) && (b.hub1.failed || b.hub1.lost) then s.bootStops else s

/-- The ports, module slots and links of a hub leave service (R8, R414). -/
def State.hubLeaves (s : State) (h : Nat) : State :=
  let s := (List.range 8).foldl (fun s m => if hubOfDie m = h then
    s.updMemUnit (16 + m) fun u => { u with settled := true, insvc := false } else s) s
  let s := (List.range 64).foldl (fun s l => if hubOfDie (dieOfLink l) = h && (s.link l).st != .retired then
    s.setLinkSt l .retired else s) s
  (List.range 5).foldl (fun s p => if hubOfPort p = h then s.setReg (.eth p) 0 0 else s) s

/-- A hub has failed its start: recorded with the phase, and it takes no further part (R388, R389). -/
def State.hubFails (s : State) (h : Nat) : State :=
  if (s.hub h).failed then s
  else
    let ph := s.boot.phase.code
    let s := (s.updHub h fun u => { u with failed := true, tested := true, cantle := 0 }).hubLeaves h
    let s := s.record (unitHub h 0) 0x1103 3 0xF [(0, h), (1, ph)]
    s.choosePrimary

/-- HUB_SELF_TEST: a hub's boot ROM has tested it (R388, R389). When both have, the fuse phase begins. -/
def execHubSelfTest (hub : Nat) (ok : Bool) (s : State) : Res :=
  needUnit "hub" hub 2 <|
  need s (s.boot.pll && s.boot.phase == .selfTest) /- the hubs are not in their self-test -/ <|
  need s (!(s.hub hub).tested) /- the hub has been tested -/ <|
  let s := if ok then s.updHub hub fun u => { u with tested := true, cantle := 0xF } else s.hubFails hub
  .next (if (s.hub 0).tested && (s.hub 1).tested && s.boot.phase == .selfTest then
    s.updBoot fun b => { b with phase := .fuses } else s)

/-! ### Fuses (R390, R416) -/

/-- A field that both copies hold, with different contents. -/
def fieldDiffers {α : Type} [DecidableEq α] : Option α → Option α → Bool
  | some x, some y => x != y
  | _, _ => false

/-- A list field of two copies: the union where both are readable (R390). -/
def fieldUnion {α : Type} [DecidableEq α] : Option (List α) → Option (List α) → Option (List α)
  | some x, some y => some (if x = y then x else (x ++ y).eraseDups)
  | x, y => x <|> y

/-- Numbers of the fuse fields that differ between two copies, by the rows of the table of R390, but for the two that
take the union. -/
def fuseDiffs (a b : FuseIn) : List Nat :=
  [(0, fieldDiffers a.serials b.serials), (1, fieldDiffers a.mac b.mac), (4, fieldDiffers a.keyHash b.keyHash),
    (5, fieldDiffers a.fwmin b.fwmin), (6, fieldDiffers a.claim b.claim),
    (7, fieldDiffers a.secret b.secret)].filterMap fun (e : Nat × Bool) => if e.2 then some e.1 else none

/-- Two copies as one: a field readable in one copy is taken from it, H0's where both have it (R390). None where a field is
readable in neither copy (notes/assumptions/156). -/
def fuseMerge (a b : FuseIn) : Option FuseCopy :=
  match a.serials <|> b.serials, a.mac <|> b.mac, fieldUnion a.bad b.bad, fieldUnion a.field b.field,
    a.keyHash <|> b.keyHash, a.fwmin <|> b.fwmin, a.claim <|> b.claim, a.secret <|> b.secret with
  | some se, some mac, some bad, some field, some kh, some fw, some cl, some sec =>
    some ⟨se.1, se.2, mac, bad, field, kh, fw, cl.1, cl.2, sec⟩
  | _, _, _, _, _, _, _, _ => none

/-- A die has failed at start: its rail is off, and its cores, stacks, slot and links are out of service (R399). -/
def State.dieFails (s : State) (d : Nat) : State :=
  let s := s.updDie d fun u => { u with failed := true, pwrEn := false, testsDone := true }
  let s := [2 * d, 2 * d + 1, 16 + d].foldl (fun s m =>
    s.updMemUnit m fun u => { u with settled := true, trained := false, insvc := false }) s
  (List.range 64).foldl (fun s l => if dieOfLink l = d && !freeLinks.contains l then s.setLinkSt l .retired else s) s

/-- What the field retirement area keeps out at a start: compute dies, hubs and cantle cores (R416). -/
def State.fieldAtStart (s : State) : State :=
  s.fieldEntries.foldl (fun s e =>
    let u := bits e 19 0
    match bits e 23 20 with
    | 4 => if u < 8 then s.dieFails u else s
    | 5 => if u < 2 then s.hubFails u else s
    | 6 => if 0x1000 ≤ u ∧ u < 0x1008 then
        s.updHub (u % 8 / 4) fun h => { h with cantle := setBit h.cantle (u % 4) false } else s
    | _ => s) s

/-- FUSE_READ: the copies of the hubs that have not failed are read; a hub whose copy is unreadable fails (R389,
R390). -/
def execFuseRead (h0 h1 : Option FuseIn) (s : State) : Res :=
  need s (s.boot.phase == .fuses) /- the part is not in the fuse phase -/ <|
  let h0 := if (s.hub 0).failed then none else h0
  let h1 := if (s.hub 1).failed then none else h1
  let s := s.updBoot fun b => { b with h0Read := h0.isSome, h1Read := h1.isSome }
  let s := if h0.isNone then s.hubFails 0 else s
  let s := if h1.isNone then s.hubFails 1 else s
  let go (f : FuseCopy) (s : State) : State := (s.updBoot fun b => { b with fuse := some f, phase := .image }).fieldAtStart
  let one (a : FuseIn) (h : Nat) : State := match fuseMerge a a with
    | some f => go f s
    | none => s.hubFails h
  match h0, h1 with
  | none, none => .next s
  | some a, none => .next (one a 0)
  | none, some b => .next (one b 1)
  | some a, some b =>
    match fuseMerge a b with
    | none => .next ((s.hubFails 0).hubFails 1)
    | some f =>
    let ds := fuseDiffs a b
    let s := go f s
    let s := ds.foldl (fun s n => s.record (unitFuse s.primary) 0x1104 3 0xF [(0, n)]) s
    .next (if ds.isEmpty then s
      else { s.updBoot fun b => { b with diverge := true } with pins := { s.pins with fault := true } })

/-! ### The image (R391, R392) -/

/-- The first check of R391 that an image fails: 0 magic, 1 key, 2 signature, 3 version, 4 sections. -/
def State.imageFault (s : State) (i : ImageIn) : Option Nat :=
  let key := match s.boot.fuse with
    | some f => f.keyHash
    | none => 0
  if i.magic ≠ 0x415A4631 then some 0
  else if i.keyHash ≠ key then some 1
  else if !i.sigOk then some 2
  else if i.fwver.toNat < s.fwmin then some 3
  else if !i.sectionsOk then some 4 else none

/-- The image fails: recovery wait on MP, with the fault output (R391, R392, R456). -/
def State.imageBad (s : State) (why : Nat) (fwver : Word) : State :=
  let s := s.record (unitHub s.primary 0) 0x1101 3 0xF [(0, why), (32, fwver.toNat)]
  { s.updBoot fun b => { b with phase := .recovery } with pins := { s.pins with fault := true } }

/-- IMAGE_VERIFY: the image is read and verified (R391); diverging fuses stop the start after it (R390). -/
def execImageVerify (img : ImageIn) (s : State) : Res :=
  need s (s.boot.phase == .image) /- the part is not in the image phase -/ <|
  .next (match s.imageFault img with
    | some w => s.imageBad w img.fwver
    | none =>
      let s := s.updBoot fun b => { b with image := some img, coreImageOk := img.coreOk, phase := .firmware }
      if s.boot.diverge then s.bootStops else s)

/-- RECOVER: an image pushed over MP; an accepted one is written to flash and the part cold-resets (R392). -/
def execRecover (img : ImageIn) (ownerSigOk : Bool) (s : State) : Res :=
  need s (s.boot.phase == .recovery) /- the part does not wait for an image -/ <|
  if (s.imageFault img).isSome || (s.flash.owner.isSome && !ownerSigOk) then .next (s.emit .recoverRefused)
  else .next (s.coldReset.record (unitHub s.primary 0) 0x1102 0 0xF [(0, img.fwver.toNat)])

/-! ### Firmware start (R393, R458) -/

/-- A board record is absent, by its kind: 0 board configuration, 1 owner, 2 retained area, 3 remap entries (of one stack),
4 hours and starts (R393). -/
def State.dropBoard (s : State) (r : Nat × Nat) : State :=
  s.updFlash fun f => match r.1 with
    | 0 => { f with pkgId := none, budgets := [], nofast := false }
    | 1 => { f with owner := none }
    | 2 => { f with retained := [], retFull := false }
    | 3 => { f with remap := f.remap.filter fun (e : Nat × Nat × Nat) => e.1 != r.2 }
    | 4 => { f with hours := 0, starts := 0 }
    | _ => f

/-- A board record whose seal fails is treated as absent, with its event: 0 board configuration, 1 owner, 2 retained
area, 3 remap entries (by stack), 4 hours and starts, 5 saved settings (by place) (R393). -/
def State.rejectRecord (s : State) (r : Nat × Nat) : State :=
  (s.dropBoard r).record (unitHub s.primary 0) 0x1108 0 0xF [(0, r.1), (4, r.2)]

/-- The saved-settings records whose seal fails are gone, by their places. -/
def State.rejectSaved (s : State) (rs : List (Nat × Nat)) : State :=
  s.updFlash fun f => { f with
    saved := (((List.range f.saved.length).zip f.saved).filter fun (e : Nat × SavedRec) => !rs.contains (5, e.1)).map (·.2) }

/-- The record kinds of R393. -/
def recordKinds : Nat := 6

/-- FIRMWARE_START: the board's records are read, the package id becomes valid, the ports and the compute dies' rails
come up (R388, R393, R452, R458). -/
def execFirmwareStart (rejected : List (Nat × Nat)) (boardDesc : Option (List Nat)) (descVersion : Nat) (s : State) : Res :=
  need s (s.boot.phase == .firmware && !s.boot.firmware) /- the part is not at firmware start -/ <|
  need s (rejected.all fun r => r.1 < recordKinds) /- no such board record -/ <|
  let s := rejected.foldl (fun s r => s.rejectRecord r) (s.rejectSaved rejected)
  let s := match boardDesc with
    | some _ => s
    | none => (s.updBoot fun b => { b with descBad := true }).record unitPackage 0x1405 2 0xF [(0, descVersion)]
  let s := if s.flash.pkgId.isSome then s
    else s.updFlash fun f => { f with pkgId := some s.boot.straps, budgets := boardDesc.getD [] }
  let id := match s.flash.pkgId with
    | some i => i.toNat
    | none => s.boot.straps.toNat
  let s := s.setReg .pkg 0x10 (2 ^ 30 + id)
  let s := s.updFlash fun f => { f with starts := f.starts + 1 }
  let s := { s with log := { s.log with retained := s.flash.retained, retFull := s.flash.retFull } }.appendHeld
  let s := s.updHost fun h => { h with owner := s.flash.owner }
  let s := (List.range 8).foldl (fun s d => if (s.die d).failed then s else s.updDie d fun u => { u with pwrEn := true }) s
  .next (s.updBoot fun b => { b with firmware := true, phase := .training })

/-- HOUR_TICK: one hour of operation (R393). -/
def execHourTick (s : State) : Res :=
  need s s.boot.firmware /- the firmware does not run -/ <|
  .next (s.updFlash fun f => { f with hours := f.hours + 1 })

/-! ### Compute dies (R397 to R399, R452) -/

/-- A unit's run or phase failed (R399, R407). -/
def State.katFail (s : State) (unit run : Nat) : State := s.record unit 0x1106 2 0xF [(0, unit), (18, run)]

/-- PG_C_ASSERT: a compute rail is in tolerance within 20 ms; its setpoint is written (R452, R455). -/
def execPgCAssert (die : Nat) (s : State) : Res :=
  needUnit "die" die 8 <|
  need s ((s.die die).pwrEn && !(s.die die).powered) /- the die waits for no rail -/ <|
  .next ((s.updDie die fun d => { d with powered := true }).setRail die)

/-- PG_C_TIMEOUT: PG_Cn is not high 20 ms after the enable: the die has failed, and its enable goes low (R452). -/
def execPgCTimeout (die : Nat) (s : State) : Res :=
  needUnit "die" die 8 <|
  need s ((s.die die).pwrEn && !(s.die die).powered) /- the die waits for no rail -/ <|
  .next ((s.dieFails die).katFail (unitRouter die) 0)

/-- CORE_FIRMWARE_CHECK: a die checks its core-code section; the second failed copy fails the die (R397). -/
def execCoreFirmwareCheck (die : Nat) (ok : Bool) (s : State) : Res :=
  needUnit "die" die 8 <|
  let d := s.die die
  need s (d.powered && !d.fwOk && !d.failed) /- the die waits for no core firmware -/ <|
  .next (if ok && s.boot.coreImageOk then s.updDie die fun u => { u with fwOk := true }
    else if d.fwTries = 0 then s.updDie die fun u => { u with fwTries := 1 }
    else (s.dieFails die).katFail (unitRouter die) 0)

/-- A physical core joins the test-bad set (R398, R399). -/
def State.testFails (s : State) (d phys run : Nat) : State :=
  if (s.die d).testBad.contains phys then s
  else
    let s := s.updBoot fun b => { b with
      katFirst := if (b.katFirst.find d).isSome then b.katFirst else b.katFirst.put d (phys, run) }
    (s.updDie d fun u => { u with testBad := u.testBad ++ [phys] }).katFail (unitPhys d phys) run

/-! ### Memories (R262, R271, R275, R276, R394, R395, R416, R470) -/

/-- A stack that the field retirement area keeps out of the interleave: itself, or one of its pseudo-channels. -/
def State.fieldStack (s : State) (m : Nat) : Bool :=
  s.fieldEntries.any fun e =>
    let u := bits e 19 0
    (bits e 23 20 == 2 && u == unitStack m) || (bits e 23 20 == 3 && u / 32 == unitPseudo m 0 / 32)

/-- Pseudo-channels of a stack that the area names. -/
def State.fieldPseudo (s : State) (m : Nat) : BitVec 32 :=
  BitVec.ofNat 32 (listMask (s.fieldEntries.filterMap fun e =>
    let u := bits e 19 0
    if bits e 23 20 = 3 ∧ u / 32 = unitPseudo m 0 / 32 then some (u % 32) else none))

/-- A resource trains: from its saved settings where the part trusts them, in full after a failed check or without them
(R394, R395). Answers whether it is trained. -/
def State.trainWith (s : State) (kind unit unitNo serial : Nat) (v : SavedIn) (checkOk trainOk : Bool) : Bool × State :=
  if s.trusts kind unit serial 0 v.sealOk v.temp then
    if checkOk then (true, s.savedUsed kind unit)
    else (trainOk, s.fallback kind unit unitNo)
  else (trainOk, s.dropSaved kind unit)

/-- A resource that was not trained from saved settings is now trained: its new record is due where it is in service
(R396). -/
def State.trainedFull (s : State) (kind unit serial : Nat) (v : SavedIn) (insvc : Bool) : State :=
  if s.boot.fast.contains (kind, unit) then s
  else if insvc then s.savedDue kind unit serial 0 v.temp v.settings
  else s.updBoot fun b => { b with full := b.full ++ [(kind, unit)] }

/-- Pages of the usable range of a stack (R263, R268). -/
def usablePages : Nat := 126 * 0x4000
/-- Spare pages of a stack (R263, R269). -/
def sparePages : Nat := 0x4000

/-- A page that start-up retires, with a row on a pseudo-channel that repair cannot mend, lies in the lowest free spare page
from here on; with none left the pseudo-channel is retired instead (R268, R269, R271). -/
def State.startRemap (s : State) (m page pc : Nat) : State :=
  let u := s.memUnit m
  if usablePages ≤ page then s
  else match (List.range sparePages).find? fun k => !(u.remap.any fun e => e.2 == k) with
  | none => s.retirePseudo m pc
  | some k =>
    let s := s.updMemUnit m fun u => { u with remap := u.remap.put page k }
    (s.updMf fun f => { f with dueRemap := f.dueRemap ++ [(m, page, k)] }).record (unitStack m) 0x0C02 2 0xF
      [(0, page * 0x1_0000), (64, k)]

/-- HBM_TRAINED: a stack's start-up ends: identity, repair, training and line initialisation (R262, R271, R388, R395,
R470). -/
def execHbmTrained (stack : Nat) (identityOk : Bool) (serial : DWord) (saved : SavedIn) (checkOk trainOk : Bool) (hppr : Nat)
    (pages : List (Nat × Nat)) (s : State) : Res :=
  needUnit "stack" stack 16 <|
  let d := s.die (stack / 2)
  need s (s.boot.firmware && d.powered && !d.failed && !(s.memUnit stack).settled) /- the stack is not in its start-up -/ <|
  let s := s.updMemUnit stack fun u => { u with present := true, settled := true, serial := serial }
  if !identityOk then .next s
  else
    let r := s.trainWith 0 stack (unitStack stack) serial.toNat saved checkOk trainOk
    let s := r.2
    if !r.1 then .next s
    else
      let insvc := !s.fieldStack stack
      let old := (s.flash.remap.filter fun (e : Nat × Nat × Nat) => e.1 == stack).foldl (fun (t : Tab Nat) e => t.put e.2.1 e.2.2) []
      let s := s.updMemUnit stack fun u => { u with
        trained := true, insvc := insvc, hppr := min 255 hppr, poison := [], remap := old, pcRet := s.fieldPseudo stack
        saved := s.boot.fast.contains (0, stack) }
      let new := pages.filter fun p => (old.find p.1).isNone
      let s := new.foldl (fun s p => if ((s.memUnit stack).remap.find p.1).isSome then s else s.startRemap stack p.1 p.2) s
      .next (s.trainedFull 0 stack serial.toNat saved insvc)

/-- What the part can train (R274, R275). -/
def spdTrainable (v : SpdIn) : Bool :=
  v.crcOk && v.keyOk && v.typeOk && v.width == 128 && [64, 96, 128, 192, 256].contains v.gb && !v.grades.isEmpty &&
    v.grades.all (· < 3)

/-- LPDDR_TRAINED: a module's start-up ends (R275, R276, R388, R395, R416). An empty slot causes no event (R462). -/
def execLpddrTrained (module : Nat) (spd : SpdIn) (saved : SavedIn) (checkOk trainOk : Bool) (s : State) : Res :=
  needUnit "module" module 8 <|
  let m := 16 + module
  let d := s.die module
  need s (s.boot.firmware && d.powered && !d.failed && !(s.memUnit m).settled) /- the module is not in its start-up -/ <|
  let s := s.updMemUnit m fun u => { u with present := spd.present, settled := true }
  if !spd.present then .next s
  else
    let s := s.updMemUnit m fun u => { u with serial := spd.serial.zeroExtend 64, mfr := spd.mfr }
    if !spdTrainable spd then .next s
    else
      let top := spd.grades.foldl max 0
      let s := s.updMemUnit m fun u => { u with spdOk := true, gb := spd.gb, spdMax := top, grade := top, grades := spd.grades }
      let r := s.trainWith 1 module (unitModule module) spd.serial.toNat saved checkOk trainOk
      let s := r.2
      if !r.1 then .next s
      else
        let insvc := !s.flash.lpxRetired.contains spd.serial && s.hubOk (hubOfDie module)
        let s := s.updMemUnit m fun u => { u with
          trained := true, insvc := insvc, saved := s.boot.fast.contains (1, module) }
        .next (s.trainedFull 1 module spd.serial.toNat saved insvc)

/-! ### The core map (R400, R401) -/

/-- A physical core in exactly one of the factory map and the test-bad set (R401). -/
def State.disagrees (s : State) (d p : Nat) : Bool := (s.factoryBad d).contains p != (s.die d).testBad.contains p

/-- CORE_MAP_BUILD: at a boundary a die's logical cores are numbered; with the last die the generation becomes 1 and the
counts appear with it (R24, R400, R401). -/
def execCoreMapBuild (die : Nat) (s : State) : Res :=
  needUnit "die" die 8 <|
  let d := s.die die
  need s (s.time.tsc.toNat % 2048 == 0) /- a core-map change takes effect at a beat boundary -/ <|
  need s (s.boot.firmware && !d.mapBuilt) /- the die's map is built -/ <|
  need s (d.failed || (d.testsDone && (s.memUnit (2 * die)).settled && (s.memUnit (2 * die + 1)).settled))
    /- the die's tests and stacks are not done -/ <|
  let s := if d.failed then s else (List.range 168).foldl (fun s p => if s.disagrees die p then
      (s.updBoot fun b => { b with disagree := satAdd 16 b.disagree 1 }).record (unitHub s.primary 0) 0x1105 0 0xF
        [(0, die), (3, p), (11, ((s.factoryBad die).contains p).toNat)] else s) s
  let s := (s.numberDie die (s.badSet die)).updDie die fun u => { u with mapBuilt := true }
  .next (if s.mapSet then s.mapChanged (List.range 8) else s)

/-! ### Limits of the phases (R388) -/

/-- Ticks of a millisecond. -/
def milli : Nat := 1000000

/-- `ms` milliseconds from the release of the reset may have passed: the TSC counts from the lock of the PLL, which came
within the first of them (R388). -/
def State.pastMs (s : State) (ms : Nat) : Bool := (ms - 1) * milli ≤ s.time.tsc.toNat

/-- The limit of a memory's training: that of a fast start where its settings are saved (R388; notes/assumptions/156). -/
def State.trainLimit (s : State) (kind unit full fast : Nat) : Nat :=
  if (s.savedOf kind unit).isSome && !s.flash.nofast then fast else full

/-- START_PHASE_TIMEOUT: a phase exceeds its limit; `phase` is its row of R388 and `unit` the unit concerned (for the
core tests 256 × die + physical core). The link row falls under R294. -/
def execStartPhaseTimeout (phase unit : Nat) (s : State) : Res :=
  need s (s.boot.rstN && !s.boot.ready && s.boot.phase != .stopped) /- no start is in progress -/ <|
  match phase with
  | 0 => needUnit "hub" unit 2 <| need s (!s.boot.pll) /- the PLL is locked -/ <| .next (s.hubFails unit)
  | 1 =>
    needUnit "hub" unit 2 <|
    need s (s.boot.phase == .selfTest && s.boot.pll && !(s.hub unit).tested) /- the hub is not in its self-test -/ <|
    need s (s.pastMs 20) /- 20 ms have not passed -/ <|
    let s := s.hubFails unit
    .next (if (s.hub 0).tested && (s.hub 1).tested && s.boot.phase == .selfTest then
      s.updBoot fun b => { b with phase := .fuses } else s)
  | 2 =>
    needUnit "hub" unit 2 <|
    need s (s.boot.phase == .fuses && !(s.hub unit).failed) /- the part is not in the fuse phase -/ <|
    need s (s.pastMs 25) /- 25 ms have not passed -/ <| .next (s.hubFails unit)
  | 3 =>
    need s (s.boot.phase == .image) /- the part is not in the image phase -/ <|
    need s (s.pastMs 250) /- 250 ms have not passed -/ <| .next (s.imageBad 2 0)
  | 4 =>
    need s (s.boot.phase == .firmware) /- the part is not at firmware start -/ <|
    need s (s.pastMs 300) /- 300 ms have not passed -/ <|
    .next ((s.record (unitHub s.primary 0) 0x1103 3 0xF [(0, s.primary), (1, 4)]).updBoot fun b => { b with
      phase := .stopped, fwStops := true })
  | 5 =>
    needUnit "die" unit 8 <|
    need s (s.boot.firmware && !(s.die unit).fwOk && !(s.die unit).failed) /- the die has its firmware -/ <|
    need s (s.pastMs 340) /- 340 ms have not passed -/ <|
    .next ((s.dieFails unit).katFail (unitRouter unit) 0)
  | 6 =>
    needUnit "die" (unit / 256) 8 <|
    needUnit "physical core" (unit % 256) 168 <|
    need s (s.boot.firmware && !s.boot.katDone && !(s.die (unit / 256)).failed) /- no core test runs -/ <|
    need s (s.pastMs 940) /- 940 ms have not passed -/ <|
    .next (s.testFails (unit / 256) (unit % 256) 0)
  | 7 =>
    needUnit "stack" unit 16 <|
    need s (s.boot.firmware && !(s.memUnit unit).settled) /- the stack's start-up is done -/ <|
    need s (s.pastMs (s.trainLimit 0 unit 2900 500)) /- the limit has not passed -/ <|
    .next ((s.updMemUnit unit fun u => { u with settled := true }).katFail (unitStack unit) 0)
  | 8 =>
    needUnit "module" unit 8 <|
    need s (s.boot.firmware && !(s.memUnit (16 + unit)).settled) /- the module's start-up is done -/ <|
    need s (s.pastMs (s.trainLimit 1 unit 1900 400)) /- the limit has not passed -/ <|
    .next ((s.updMemUnit (16 + unit) fun u => { u with settled := true }).katFail (unitModule unit) 0)
  | 9 => execTlStateTimeout unit s
  | 10 | 11 => .next s
  | _ => .next s -- R388 has no such phase

/-! ### Ready (R403, R404) -/

/-- A link in a state that ready accepts (R404). -/
def State.linkSettled (s : State) (l : Nat) : Bool :=
  freeLinks.contains l || match (s.link l).st with
    | .up | .identify | .off | .free | .retired => true
    | .detect | .equalise | .align | .delay | .retrain => false

/-- The conditions of R404. -/
def State.readyNow (s : State) : Bool :=
  s.boot.firmware && !s.boot.ready && !s.boot.diverge && !s.boot.fwStops && s.boot.katDone &&
    ((List.range 24).all fun m => (s.memUnit m).settled) && ((List.range 64).all s.linkSettled) &&
    ((List.range 8).all fun d => (s.die d).mapBuilt) &&
    (s.inSync || nbit (s.reg .time 8) 0 || !nbit (s.reg .time 8) 1)

/-- A peered link that is out of service (R403). -/
def State.linkOut (s : State) (l : Nat) : Bool :=
  !freeLinks.contains l && !s.unpeered l && ((s.link l).st == .retired || (s.topoSet && (s.link l).st == .off))

/-- The part starts degraded (R403). -/
def State.degradedNow (s : State) : Bool :=
  ((List.range 8).map s.mapped).sum < 1280 || ((List.range 16).any fun m => !(s.memUnit m).insvc) ||
    ((List.range 8).any fun m => (s.memUnit (16 + m)).present && !(s.memUnit (16 + m)).insvc) ||
    ((List.range 64).any s.linkOut) || (List.range 8).any fun d => (s.die d).failed

/-- READY: the boundary at which every condition of R404 holds; FWMIN is raised to the image's MINVER (R391). -/
def execReady (ms : Nat) (s : State) : Res :=
  need s (s.time.tsc.toNat % 2048 == 0) /- ready is set at a beat boundary -/ <|
  need s s.readyNow /- a condition of R404 does not hold -/ <|
  let fast := s.boot.full.isEmpty
  let deg := s.degradedNow
  let mapped := ((List.range 8).map s.mapped).sum
  let minver := match s.boot.image with
    | some i => i.minver
    | none => 0
  let raise := s.fwmin < minver.toNat
  let s := if raise then s.updFlash fun f => { f with fwmin := some minver } else s
  let s := { s with time := { s.time with sync := s.time.sync || s.reg .time 8 % 2 == 1 } }.updBoot fun b => { b with
    ready := true, phase := .ready, readyMs := min ms ones32, degraded := deg, fastStart := fast, fwminRaised := raise }
  let s := if deg then s.record unitPackage 0x1109 2 0xF
      [(0, mapped), (16, listMask ((List.range 8).filter fun d => (s.die d).failed))] else s
  .next (s.record unitPackage 0x110A 0 0xF [(0, min ms ones32), (32, fast.toNat)])

end Sys2Proof.Machine
end

