-- ==== Sys2Proof/Machine/Seam.lean ====
section
/-! DEFINITION. Seams (R234 to R248): when one begins, its steps, the commit point, the apply, clusters and the final
commit. -/

namespace Sys2Proof.Machine

/-! ### When a seam is taken (R236) -/

/-- Every group of the block has ended. -/
def State.blockEnded (s : State) (c : Nat) (b : Block) : Bool := (s.blockGroups c b).all fun e => e.2.ended

/-- The age limit of a core's blocks: 0 takes no age seams, 1 to 15 act as 16. -/
def State.ageLimit (s : State) (c : Nat) : Option Nat :=
  let v := s.reg (.core c 8) 0
  if v = 0 then none else some (max 16 v)

/-- AGE_SEAM: the age limit has passed since the block's admission, last seam or last replay (R236). -/
def execAgeSeam (core slot : Nat) (s : State) : Res :=
  needUnit "logical core" core 1280 <|
  needSome s (s.block core slot) /- the slot holds no block -/ fun b =>
  needSome s (s.ageLimit core) /- the core takes no age seams -/ fun n =>
  need s (n ≤ b.age) /- the block's age is below the limit -/ <|
  need s (b.st == .running && !b.stopped && b.phase == .run && b.trig.isNone) /- the block runs no instructions -/ <|
  .next (s.updBlock core slot fun b => b.trigger .age)

/-- The block's atom has sent operations and has not received every old value: no other seam begins (R253). -/
def Block.atomBusy (b : Block) : Bool :=
  match b.atom with
  | some a => a.started && !a.finished
  | none => false

/-- A seam of the block may begin: the apply of the last one is complete (R236). -/
def Block.mayStop (b : Block) : Bool :=
  b.st == .running && !b.stopped && !b.final && b.phase == .run && b.log.isEmpty && !b.atomBusy

/-- The stamp that a block's next commit takes: the TSC, later than its last (R242). -/
def State.stampAfter (s : State) (old : DWord) : DWord := if old.toNat < s.time.tsc.toNat then s.time.tsc else old + 1

/-- The cluster stamp (R247). -/
def State.clusterStamp (s : State) (ms : List (Nat × Nat)) : DWord :=
  ms.foldl (fun (a : DWord) m => match s.block m.1 m.2 with
    | some k => if a.toNat ≤ k.stamp.toNat then k.stamp + 1 else a
    | none => a) s.time.tsc

/-- SEAM_BEGIN: the block's groups stop, and with them those of its cluster, whose stamp is the TSC of this moment (R237
step 1, R247). -/
def execSeamBegin (core slot : Nat) (s : State) : Res :=
  needUnit "logical core" core 1280 <|
  needSome s (s.block core slot) /- the slot holds no block -/ fun b =>
  need s b.trig.isSome /- nothing asks for a seam (R236) -/ <|
  let ms := s.liveMates core slot
  need s (b.mayStop && s.allBlocks ms fun _ _ k => k.mayStop) /- a seam of the block or its cluster is not applied yet -/ <|
  let stamp := s.clusterStamp ms
  .next (ms.foldl (fun s m => s.updBlock m.1 m.2 fun k => { k.trigger .cluster with
    phase := .stopped, cstamp := if 1 < k.desc.csize then stamp else 0 }) s)

/-! ### Quiesce and log (R237, R238, R239) -/

/-- Nothing that a seam waits for is under way (R139, R179, R237). -/
def State.quiet (s : State) (c slot : Nat) (b : Block) : Bool :=
  let q := s.core c
  let mine (g : Nat) : Bool := b.gslots.contains g
  !(q.staged.any fun x => mine x.grp) && !(q.drains.any fun x => mine x.grp) && !(q.bob.any fun j => mine j.grp) &&
    (q.dma.all fun e => e.2.bslot != slot || q.dmaPaused e.2) &&
    !q.ni.any fun e => e.2.bslot == slot && !e.2.dead && match e.2.kind with
      | .load | .rmw _ _ | .atom _ _ _ _ _ => true
      | _ => false

/-- SEAM_QUIESCED: the matrix, bobbin and flag work of the block and its loads are complete, and its descriptors have
paused (R237 step 2). -/
def execSeamQuiesced (core slot : Nat) (s : State) : Res :=
  needUnit "logical core" core 1280 <|
  needSome s (s.block core slot) /- the slot holds no block -/ fun b =>
  need s (b.phase == .stopped) /- the block is not stopped for a seam -/ <|
  need s (s.quiet core slot b) /- work of the block is under way -/ <|
  .next (s.updBlock core slot fun b => { b with phase := .quiesced })

/-- What a seam saves of a group: its registers, flag words, addresses, exits and waits; the guard of R52 starts anew
(R238). -/
def Group.saved (g : Group) : Group := { g with
  threads := g.threads.map fun (t : Thread) => { t with wrote := 0 }
  gWait := []
  sWait := []
  lastPc := 0
  consec := 0
  waited := []
  forced := none }

/-- What a seam saves of a block (R238). -/
def State.saveState (s : State) (c slot : Nat) (b : Block) : Saved :=
  let q := s.core c
  let mine (g : Nat) : Bool := b.gslots.contains g
  ⟨(s.blockGroups c b).map fun e => (e.1, e.2.saved), b.spad,
    q.sets.filter (fun (e : Nat × AccSet) => match e.2.holder with
      | some h => mine h
      | none => false),
    if q.ptHolder = some slot then some q.ptKeys else none,
    b.accSat, b.accNf, b.lnf,
    (q.dma.filter fun (e : Nat × Dma) => e.2.bslot == slot).map fun e => (e.1, { e.2 with far := [] }),
    b.wroteP, if b.atom.any fun a => a.finished then none else b.atom⟩

/-- Register granules of a block that a seam saves: those written since the last committed one, or all (R239). Granule j of
a group holds registers 8j to 8j + 7 of its threads (notes/assumptions/57). -/
def State.seamGranules (s : State) (c : Nat) (b : Block) : List Nat :=
  if b.full then b.granules
  else
    let n := b.desc.rpt / 8
    (s.blockGroups c b).flatMap fun e =>
      ((List.range n).filter fun j => e.2.threads.any fun t => t.wrote.getLsbD j).filterMap fun j => b.granules[e.2.gidx * n + j]?

/-- Pages that a seam saves with their payload, and as zero pages (R239). -/
def Block.seamPages (b : Block) : List Nat × List Nat :=
  let pages (l : List Nat) : List Nat := l.filterMap fun i => b.pageTab[i]?
  if b.full then (pages b.wroteP, pages ((List.range b.pageTab.length).filter fun i => !b.wroteP.contains i))
  else (pages b.dirtyP, [])

/-- The entries of a block's record (R239, R241). -/
def State.seamEntries (s : State) (c slot : Nat) (b : Block) : List LogEntry :=
  lineEntries b.wset b.mgmt ++
    (s.saveState c slot b).entries slot (s.seamGranules c b) b.seamPages.1 b.seamPages.2

/-- The NI writes `n` bytes of a record at the head of the log (R237 step 3, R241). -/
def State.writeLog (s : State) (c n : Nat) : State :=
  let o := (s.core c).logHead
  ((s.updCore c fun k => { k with logHead := (o + n) % logSize }).regionWritten c (logRanges o n)).count (.core c 8) 0x18 n

/-- SEAM_LOGGED: the NI has written the seam's record, for which the log has room (R237 step 3, R243); a member of a cluster
writes PSTAMP, PLOGOFF and PLOGLEN (R247). -/
def execSeamLogged (core slot : Nat) (s : State) : Res :=
  needUnit "logical core" core 1280 <|
  needSome s (s.block core slot) /- the slot holds no block -/ fun b =>
  need s (b.phase == .quiesced) /- the block is not quiesced -/ <|
  let n := recordLen (s.seamEntries core slot b)
  need s (n ≤ (s.core core).logFree) /- too little of the log is free (R243) -/ <|
  let o := (s.core core).logHead
  let s := (s.writeLog core n).updBlock core slot fun b => { b with
    phase := .logged, pend := some (o, n), pstamp := if 1 < b.desc.csize then b.cstamp else 0 }
  .next (if 1 < b.desc.csize then s.dirWritten core slot else s)

/-! ### The commit point (R242) -/

/-- Holds that wait for a seam learn its stamp (R221, R222). -/
def Hold.stamped (h : Hold) (stamp : DWord) : Hold :=
  match h with
  | .fence sc Option.none => .fence sc (some stamp)
  | .relSpad sc Option.none ws => .relSpad sc (some stamp) ws
  | h => h

/-- The management stores of a commit are made in program order (R211, R217). -/
def State.mgmtStores (s : State) (home : Nat) (ws : List (Nat × Word)) : State :=
  ws.foldl (fun s w => s.mgmtWrite (.priv home) w.1 w.2) s

/-- A management store of the block waits for the decision on the core whose register it writes (R18). -/
def State.movesNow (s : State) (b : Block) : Bool := b.mgmt.any fun w => s.moveDue w.1

/-- The atom has ended: the threads of its path go on at the next instruction (R51, R245). -/
def Group.passAtom (g : Group) (a : AtomPend) : Group :=
  { (a.path.foldl (fun k t => k.updThread t fun th => { th with pc := a.pc + 8 }) g).account g a.pc (a.pc + 8) with
    hold := .none }

/-- The commit point of a block's seam: the directory line names the record, which waits to be applied. An after-seam ends
its atom, which is an acquire (R225, R245). -/
def State.commitSeam (s : State) (c slot : Nat) (stamp : DWord) : State :=
  match s.block c slot with
  | none => s
  | some b =>
    let s := b.gslots.foldl (fun s g => s.updGroup c g fun k => { k with hold := k.hold.stamped stamp }) s
    let ended := b.atom.filter fun a => a.finished
    let s := match ended with
      | some a => (s.updGroup c a.grp fun k => k.passAtom a).acquire c slot
      | none => s
    let atom := if ended.isSome then none
      else b.atom.map fun (a : AtomPend) => if a.seam.isNone then { a with seam := some stamp } else a
    let at_ := b.pend.getD (0, 0)
    let r : SeamRec := ⟨stamp, b.wset, b.mgmt, some { s.saveState c slot b with atom := atom }, false, at_.1, at_.2,
      s.seamGranules c b, b.seamPages.1, b.seamPages.2⟩
    let s := b.gslots.foldl (fun s g => s.updGroup c g fun k => { k with
      threads := k.threads.map fun (t : Thread) => { t with wrote := 0 } }) s
    let s := s.updBlock c slot fun k => { k with
      log := [r], wset := [], mgmt := [], phase := .run, trig := none, stamp := stamp, pstamp := 0, cstamp := 0,
      pend := none, logOff := at_.1, logLen := at_.2, applied := false, age := 0, dirtyP := [], full := false, atom := atom }
    let s := (s.updCore c fun k => k.dropLines (b.wset.map (·.addr))).dirWritten c slot
    let s := (s.count (.core c 8) 0x08 (if b.desc.crank = 0 then 1 else 0)).count (.core c 8) 0x10
      (if b.trig = some .overflow then 1 else 0)
    let s := s.countSome (.core c 8) 0x20
    ((s.mgmtStores b.desc.home b.mgmt).releaseHolds c slot).startAtom c slot

/-- SEAM_COMMITTED: the NI writes the block's directory line; the seam's writes will be made (R237 step 4, R242). -/
def execSeamCommitted (core slot : Nat) (s : State) : Res :=
  needUnit "logical core" core 1280 <|
  needSome s (s.block core slot) /- the slot holds no block -/ fun b =>
  need s (b.phase == .logged) /- the seam's record is not written -/ <|
  need s (b.desc.csize ≤ 1) /- the block's cluster commits together (R247) -/ <|
  need s (!s.movesNow b) /- the decision on a core comes first (R18) -/ <|
  .next (s.commitSeam core slot (s.stampAfter b.stamp))

/-- CLUSTER_COMMIT: every member's PSTAMP is written, and rank 0's directory write, with STAMP equal to it, commits them all;
each member moves PSTAMP into STAMP (R247). -/
def execClusterCommit (core slot : Nat) (s : State) : Res :=
  needUnit "logical core" core 1280 <|
  needSome s (s.block core slot) /- the slot holds no block -/ fun b =>
  need s (1 < b.desc.csize) /- the block is in no cluster -/ <|
  let ms := s.liveMates core slot
  need s (ms.head? == some (core, slot)) /- rank 0 writes the commit point -/ <|
  need s (s.allBlocks ms fun _ _ k => k.phase == .logged && k.pstamp == b.pstamp && !s.movesNow k) /- a member's PSTAMP is not written -/ <|
  .next (ms.foldl (fun s m => s.commitSeam m.1 m.2 b.pstamp) s)

/-! ### Apply (R243) -/

/-- The records applied while a core's work is stopped are those of step 1 of R250. -/
def State.niApplied (s : State) (c : Nat) (b : Block) : State :=
  if b.stopped then s.count (.dSeam (dieOfCore c)) 0x10 1 else s

/-- The places in the slot that a record's state entries are copied to. -/
def SeamRec.slotRanges (r : SeamRec) (slot : Nat) : List (Nat × Nat) :=
  granuleRanges r.grans ++ pageRanges (r.pages ++ r.zeros) ++ match r.saved with
    | some v => v.slotRanges slot
    | none => []

/-- SEAM_APPLIED: every line of a committed record is made; its state is copied into the slot, APPLIED is written, and its
log space is freed (R243). While the core's work is stopped the entries come from the log (R250 step 1, R254). -/
def execSeamApplied (core slot : Nat) (s : State) : Res :=
  needUnit "logical core" core 1280 <|
  needSome s (s.block core slot) /- the slot holds no block -/ fun b =>
  match b.log with
  | [] => .next s -- no record of the block is committed and not applied
  | r :: rest =>
    need s (!r.final) /- a final commit completes by FINAL_COMMIT_COMPLETE (R248) -/ <|
    need s b.allMade /- a line of the record is not made -/ <|
    need s ((s.core core).applyTurn slot b) /- a record with an earlier stamp is applied first (R250) -/ <|
    if s.logLost core b then .next (s.seamLost core slot)
    else
      let s := (s.niApplied core b).regionWritten core (dirRange slot :: r.slotRanges slot)
      .next (s.updBlock core slot fun k => { k with log := rest, slot := r.saved, applied := true })

/-- ATOM_AFTER_SEAM: every acting thread has its old value, and the after-seam follows (R245). -/
def execAtomAfterSeam (core slot : Nat) (s : State) : Res :=
  needUnit "logical core" core 1280 <|
  needSome s (s.block core slot) /- the slot holds no block -/ fun b =>
  needSome s b.atom /- the block has no atom of device or system scope -/ fun a =>
  need s (a.started && !a.finished && a.threads.isEmpty) /- operations of the atom have not been sent -/ <|
  need s (!(s.core core).ni.any fun e => e.2.bslot == slot && !e.2.dead && match e.2.kind with
    | .atom _ _ _ _ _ => true
    | _ => false) /- a thread has not received its old value -/ <|
  .next (s.updBlock core slot fun b => { b with atom := some { a with finished := true } }.trigger .atomAfter)

/-! ### The final commit (R248) -/

/-- The final commit of one block: its lines are logged with no state, and the directory line is written with FINAL = 1 and
the flags into the grant's (R149, R192). The block gives the pricking table back (R176), and what is left of its descriptors
is dropped (notes/assumptions/54). -/
def State.commitFinal (s : State) (c slot : Nat) (stamp : DWord) : State :=
  match s.block c slot with
  | none => s
  | some b =>
    let o := (s.core c).logHead
    let n := recordLen (lineEntries b.wset b.mgmt)
    let r : SeamRec := ⟨stamp, b.wset, b.mgmt, none, true, o, n, [], [], []⟩
    let s := ((s.writeLog c n).updBlock c slot fun k => { k with
      st := .committing, final := true, log := [r], wset := [], mgmt := [], trig := none, stamp := stamp, pstamp := 0,
      cstamp := 0, pend := none, logOff := o, logLen := n, applied := false, wds := [] }).dirWritten c slot
    let s := s.updCore c fun k => { k.dropLines (b.wset.map (·.addr)) with
      dma := k.dma.filter fun (e : Nat × Dma) => e.2.bslot != slot
      ptHolder := k.ptHolder.filter (· != slot) }
    let s := s.updGrant b.part b.desc.uid fun g => { g with
      sat := g.sat || b.accSat, nf := g.nf || b.accNf || b.lnf }
    let s := s.count (.core c 8) 0x08 (if b.desc.crank = 0 then 1 else 0)
    s.mgmtStores b.desc.home b.mgmt

/-- The block has ended and is quiesced, and the log has room for its lines (R243, R248). -/
def State.mayEnd (s : State) (c slot : Nat) (b : Block) : Bool :=
  b.mayStop && s.blockEnded c b && s.quiet c slot b && !s.movesNow b && recordLen (lineEntries b.wset b.mgmt) ≤ (s.core c).logFree

/-- FINAL_COMMIT: the block has ended; it is quiesced, its lines are logged, and the commit point is written with
FINAL = 1. A cluster commits together, once every member has ended: the members' PSTAMP, which rank 0's STAMP then equals, is
written and moved within this row (R247, R248). -/
def execFinalCommit (core slot : Nat) (s : State) : Res :=
  needUnit "logical core" core 1280 <|
  needSome s (s.block core slot) /- the slot holds no block -/ fun b =>
  let ms := s.liveMates core slot
  need s (ms.head? == some (core, slot)) /- rank 0 writes the commit point of its cluster -/ <|
  need s (s.allBlocks ms s.mayEnd) /- the block, or a member of its cluster, has not ended and quiesced -/ <|
  let stamp := if 1 < b.desc.csize then s.clusterStamp ms else s.stampAfter b.stamp
  .next (ms.foldl (fun s m => s.commitFinal m.1 m.2 stamp) s)

/-- FINAL_COMMIT_COMPLETE: every line is made and acknowledged, and the block's resources are freed; a cluster's
together (R40, R248). -/
def execFinalCommitComplete (core slot : Nat) (s : State) : Res :=
  needUnit "logical core" core 1280 <|
  needSome s (s.block core slot) /- the slot holds no block -/ fun b =>
  need s b.final /- the block has made no final commit -/ <|
  let ms := s.mates core slot
  need s (s.allBlocks ms fun _ _ k => k.settled) /- a line is not made, or a member of the cluster is not done -/ <|
  let s := ms.foldl (fun s m => match s.block m.1 m.2 with
    | some k => if k.final then s.niApplied m.1 k else s
    | none => s) s
  .next (s.freeMates core slot)

end Sys2Proof.Machine
end

