-- ==== Sys2Proof/Machine/Replay.lean ====
section
/-! DEFINITION. Hardware faults of a core (R249, R412) and replay (R250 to R255): how a block stops, restarts from its
last committed seam or from its start, and moves to a host core. -/

namespace Sys2Proof.Machine

/-! ### How a block stops on a hardware fault (R249) -/

/-- The lines of a block's records that are not made are sent again (R250 step 1). -/
def Block.resend (b : Block) : Block := { b with
  log := b.log.map fun r => { r with lines := r.lines.map fun l => if l.made then l else { l with sent := false } } }

/-- The NI entries that carried a block's lines go with the core's NI (R249). -/
def State.dropWrites (s : State) (c b : Nat) : State :=
  s.updCore c fun k => { k with ni := k.ni.filter fun (e : Nat × NiEntry) => !(e.2.bslot == b && e.2.kind == .write) }

/-- A block stops and waits for its replay. One that has ended, or made its final commit, has only records to apply
(R255). -/
def State.haltBlock (s : State) (c b : Nat) : State :=
  match s.block c b with
  | none => s
  | some k =>
    if k.final || k.st == .stopping || k.stopped then s.updBlock c b fun q => { q with stopped := true }
    else (s.stopBlock c b false).updBlock c b fun q => { q with st := .running, stopped := true }

/-- A failure now would be the block's fifth (R251): it runs, or waits for the start of its cluster, with ATTEMPT at 4. -/
def Block.lastAttempt (b : Block) : Bool :=
  b.attempt == 4 && (b.st == .running || b.st == .admitted) && !b.stopped && !b.final

/-- A fault of the core stops its blocks and, with them, their clusters (R247, R249); a fifth failure of a block, or of a
member of its cluster, ends its grant (R251). -/
def State.haltCore (s : State) (c : Nat) : State :=
  let bs := (s.core c).blocks.map (·.1)
  let fifth := bs.filter fun b => (s.liveMates c b).any fun m => match s.block m.1 m.2 with
    | some k => k.lastAttempt
    | none => false
  let s := (bs.foldl (fun s b => (s.updBlock c b Block.resend).dropWrites c b) s).updCore c fun k => { k with rc := [] }
  let s := bs.foldl (fun s b => (s.liveMates c b).foldl (fun s m => s.haltBlock m.1 m.2) (s.haltBlock c b)) s
  fifth.foldl (fun s b => s.replayEnd c b 0x0B02) s

/-! ### CORE_HARDWARE_FAULT and FRONT_END_STALL (R249, R328, R412) -/

/-- The logical core that a physical core carries. -/
def State.logicalOf (s : State) (d phys : Nat) : Option Nat := (coresOfDie d).find? fun c => s.physOf c == some phys

/-- The REDUCE and RECV beats of the partition that are in progress: entry and offset. -/
def State.beatsRunning (s : State) (p : Nat) : List (Nat × Nat) :=
  let x := (s.part p).ex
  if x.spent then []
  else ((List.range x.entries.length).zip x.entries).filterMap fun (e : Nat × PlanEntry) =>
    if e.2.op == opReduce || e.2.op == opRecv then match s.entryBeat p e.2 0 with
      | some j => if x.beatsDone.contains (e.1, j, 0) then none else some (e.1, e.2.offset + j)
      | none => none
    else none

/-- A hardware fault of a reserved core, or the loss of its die, makes the beat in progress late (R328, R329). -/
def State.reservedFault (s : State) (c : Nat) : State :=
  match s.partOfCore c with
  | none => s
  | some p => if s.reservedCore c then (s.beatsRunning p).foldl (fun s e => s.lateBeat p e.1 e.2) s else s

/-- A hardware fault of a physical core: what it carries stops, and a decision is due at the next boundary. -/
def State.hardwareFault (s : State) (d phys cls : Nat) : State :=
  let s := s.updDie d fun u => { u with phys := u.phys.upd phys PhysSt.fresh fun q => { q with cls := cls } }
  let s := s.decisionDue (unitPhys d phys) (.core d phys cls)
  match s.logicalOf d phys with
  | none => s
  | some c => (s.haltCore c).reservedFault c

/-- A physical core that works: not in the bad set, not retired, on a die that works. -/
def State.physWorks (s : State) (d phys : Nat) : Bool :=
  let u := s.die d
  u.mapBuilt && !u.failed && !u.failedService && !(s.badSet d).contains phys && !(u.phys.get phys PhysSt.fresh).retired &&
    !s.mf.tripped

/-- CORE_HARDWARE_FAULT: a fault of class 1 to 5 is raised (R249, R412). -/
def execCoreHardwareFault (die phys cls : Nat) (s : State) : Res :=
  needUnit "die" die 8 <|
  needUnit "physical core" phys 168 <|
  need s (1 ≤ cls && cls ≤ 5) /- classes are 1 to 5 (R412) -/ <|
  need s (s.physWorks die phys) /- the physical core is not in service -/ <|
  .next (s.hardwareFault die phys cls)

/-- FRONT_END_STALL: a ready group and no instruction for 65,536 core cycles: a fault of class 4 (R412). -/
def execFrontEndStall (core : Nat) (s : State) : Res :=
  needUnit "logical core" core 1280 <|
  needSome s (s.physOf core) /- the core is vacant -/ fun p =>
  need s ((s.core core).groups.any fun (g : Nat × Group) => !g.2.eligible.isEmpty && g.2.hold == .none &&
    match s.block core g.2.bslot with
    | some b => b.st == .running && !b.stopped && b.trig.isNone
    | none => false) /- no group of the core is ready -/ <|
  need s (s.physWorks (dieOfCore core) p) /- the physical core is not in service -/ <|
  need s (!s.cinch.gated.contains core) /- core cycles of a gated core do not count (R435) -/ <|
  .next (s.hardwareFault (dieOfCore core) p 4)

/-! ### Restoring a block (R250) -/

/-- The saved state for another set of slots, group slots by position (R252). -/
def Saved.renumber (v : Saved) (slot : Nat) (f : Nat → Nat) : Saved := { v with
  groups := v.groups.map fun (e : Nat × Group) => (f e.1, { e.2 with bslot := slot })
  sets := v.sets.map fun (e : Nat × AccSet) => (e.1, { e.2 with holder := e.2.holder.map f })
  dma := v.dma.map fun (d : Nat × Dma) => (d.1, { d.2 with bslot := slot, grp := f d.2.grp })
  atom := v.atom.map fun (a : AtomPend) => { a with grp := f a.grp } }

/-- The accumulator sets, the pricking table and the descriptors that a saved block held are free on the core. -/
def Core.fits (k : Core) (slot : Nat) (v : Saved) : Bool :=
  (v.sets.all fun (e : Nat × AccSet) => (k.sets.get e.1 AccSet.fresh).holder.isNone) &&
    (v.pricking.isNone || k.ptHolder.isNone || k.ptHolder == some slot) && v.dma.length + k.dma.length ≤ 64

/-- Watchdogs of the waits of a block's groups, counting from zero (R58, R250 step 4). -/
def watchdogs (slot : Nat) (gs : List (Nat × Group)) : List Wd :=
  let all := gs.flatMap fun (e : Nat × Group) => e.2.threads.filterMap fun (t : Thread) =>
    if t.exited then none
    else match t.wait with
      | .none => none
      | .barG id => some (⟨.barG e.1 id, 0, e.1⟩ : Wd)
      | .barB id => some ⟨.barB slot id, 0, e.1⟩
      | .wbeat b => some ⟨.wbeat e.1 t.pc b, 0, e.1⟩
  all.foldl (fun (l : List Wd) w => if l.any fun x => x.key == w.key then l else l ++ [w]) []

/-- Descriptors of a saved block, accepted again in their order. -/
def Core.requeue (k : Core) (ds : List (Nat × Dma)) : Core :=
  ds.foldl (fun (k : Core) (d : Nat × Dma) => match k.dma.free 64 with
    | some n => { k with dma := k.dma.put n { d.2 with seq := k.nextSeq }, nextSeq := k.nextSeq + 1 }
    | none => k) k

/-- The block at (c, b) takes up the state that its slot holds, or the state of its start (R250 steps 3 and 4). -/
def State.restore (s : State) (c b : Nat) : State :=
  match s.block c b with
  | none => s
  | some k =>
    let st := if 1 < k.desc.csize then BState.admitted else .running
    let base := { k with
      st := st, stopped := false, attempt := k.attempt + 1, age := 0, acq := (s.core c).nextFill, wset := [], mgmt := [],
      phase := .run, trig := none, pstamp := 0, cstamp := 0, pend := none, dirtyP := [], wroteP := [] }
    let s := s.updCore c fun q => { q with ptHolder := if k.slot.isSome then q.ptHolder else q.ptHolder.filter (· != b) }
    match k.slot with
    | some v =>
      let s := v.groups.foldl (fun s (e : Nat × Group) => s.setGroup c e.1 e.2) s
      let s := s.updCore c fun q => { q.requeue v.dma with
        sets := v.sets.foldl (fun (t : Tab AccSet) e => t.put e.1 e.2) q.sets
        ptHolder := if v.pricking.isSome then some b else q.ptHolder.filter (· != b)
        ptKeys := v.pricking.getD q.ptKeys }
      let s := s.setBlock c b { base with
        spad := v.spad, wroteP := v.wroteP, accSat := v.accSat, accNf := v.accNf, lnf := v.lnf, atom := v.atom, full := false,
        wds := watchdogs b v.groups }
      (s.releaseHolds c b).startAtom c b
    | none =>
      (s.setBlock c b { base with
        spad := [], accSat := false, accNf := false, lnf := false, atom := none, full := true, wds := [] }).putGroups c b k.desc k.gslots

/-! ### BLOCK_REPLAY (R250, R254) -/

/-- Offset and length in the region of what a replay reads of a block: its directory line and, from a seam, its place in the
slot, and its journal where the seam is an atom's. -/
def Block.replayReads (b : Block) (slot : Nat) : List (Nat × Nat) :=
  dirRange slot :: match b.slot with
    | none => []
    | some v => v.slotRanges slot ++ pageRanges b.pageTab ++ granuleRanges b.granules ++
        if v.atom.isSome then [journalRange slot] else []

/-- Steps 1 and 2 of R250 are done for a block of the core: every committed record is applied, and every atomic of the
failed attempts has its answer. -/
def State.replayReady (s : State) (c : Nat) : Bool :=
  !s.faultPending c && (s.die (dieOfCore c)).atoms.get c 0 == 0 && !s.mf.tripped &&
    (s.core c).blocks.all fun (e : Nat × Block) => !e.2.stopped || e.2.allMade && (e.2.log.isEmpty || e.2.final)

/-- No block of the core in a lower slot waits for its replay. -/
def Core.firstDisplaced (k : Core) (slot : Nat) : Bool :=
  k.blocks.all fun (e : Nat × Block) => !(e.2.displaced && e.1 < slot)

/-- The record, the count and the new attempt of a replay that begins (R250, R258). -/
def State.replayBegins (s : State) (home c : Nat) (b : Block) : State :=
  (s.record home 0x0B01 1 b.part ({ b with attempt := b.attempt + 1 }.replayFields ((s.physOf c).getD 0))).count (.core c 8) 0x28 1

/-- BLOCK_REPLAY: a stopped block restarts on the physical core that the map names, from what its region holds; `v` are the
verdicts on the lines read there (R250, R254). Its directory line is written with the new ATTEMPT. -/
def execBlockReplay (core : Nat) : Reads → State → Res
  | ⟨slot, v⟩, s =>
    needUnit "logical core" core 1280 <|
    needSome s (s.block core slot) /- the slot holds no block -/ fun b =>
    need s b.displaced /- the block waits for no replay -/ <|
    need s (s.physOf core).isSome /- the core is vacant: the block waits for a host core (R252) -/ <|
    need s (s.replayReady core) /- a committed record is not applied, an atomic has no answer or the decision is not made -/ <|
    need s ((s.core core).firstDisplaced slot) /- a block in a lower slot is replayed first -/ <|
    need s (match b.slot with
      | some v => (s.core core).fits slot v
      | none => true) /- another block holds what the block held -/ <|
    need s (!s.regionHeld core) /- the region's stack is in a retrain (R270) -/ <|
    let s := s.regionRead core v (b.replayReads slot)
    if s.regionHeld core then .next s
    else if s.regionPoison core (b.replayReads slot) then .next (s.seamLost core slot)
    else .next (((s.replayBegins b.desc.home core b).restore core slot).dirWritten core slot)

/-! ### BLOCK_MOVED (R252) -/

/-- The block with the slots and places that a host core gives it, to take a full seam at once. -/
def Block.moved (b : Block) (r : Room) : Block :=
  let f (g : Nat) : Nat := match (b.gslots.zip r.gslots).find? fun (e : Nat × Nat) => e.1 == g with
    | some e => e.2
    | none => g
  { b with
    gslots := r.gslots, granules := r.granules, pageTab := r.pages
    slot := b.slot.map fun v => v.renumber r.slot f }

/-- Every block of the die that waits for a host core and comes before this one has no core that qualifies. -/
def State.firstMoved (s : State) (core slot : Nat) : Bool :=
  (s.displacedOn (dieOfCore core)).all fun (e : Nat × Nat × Block) => e.1 != core || slot ≤ e.2.1 ||
    !(coresOfDie (dieOfCore core)).any fun c => s.qualifies e.2.2.desc c

/-- BLOCK_MOVED: a displaced block is restored on a host core, the qualifying core of the lowest number, from the vacant
core's region, and takes a full seam at once into the host core's; the vacant core's directory entry is written with VALID = 0
(R252). The members of a cluster take the seam together when the last has been restored (R247). -/
def execBlockMoved (core : Nat) : Reads → Nat → State → Res
  | ⟨slot, v⟩, host, s =>
    needUnit "logical core" core 1280 <|
    needUnit "logical core" host 1280 <|
    needSome s (s.block core slot) /- the slot holds no block -/ fun b =>
    need s (b.displaced && (s.physOf core).isNone) /- the block waits for no host core -/ <|
    need s (s.replayReady core) /- a committed record is not applied, an atomic has no answer or the decision is not made -/ <|
    need s (s.firstMoved core slot) /- a block in a lower slot goes first -/ <|
    need s ((coresOfDie (dieOfCore core)).find? (s.qualifies b.desc) == some host) /- another core is the host core -/ <|
    needSome s ((s.core host).room b.desc) /- the core cannot admit the block -/ fun r =>
    need s (match b.slot with
      | some v => (s.core host).fits r.slot v
      | none => true) /- another block holds what the block held -/ <|
    need s (!s.regionHeld core) /- the region's stack is in a retrain (R270) -/ <|
    let s := s.regionRead core v (b.replayReads slot)
    if s.regionHeld core then .next s
    else if s.regionPoison core (b.replayReads slot) then .next (s.seamLost core slot)
    else
      let s := s.replayBegins b.desc.home host b
      let s := (s.updCore core fun k => { k with
        blocks := k.blocks.del slot, groups := k.groups.filter fun (e : Nat × Group) => !b.gslots.contains e.1
        ptHolder := k.ptHolder.filter (· != slot) }).dirWritten core slot
      let s := ((s.setBlock host r.slot (b.moved r)).restore host r.slot).dirWritten host r.slot
      let s := s.record b.desc.home 0x0B04 1 b.part ({ b with attempt := b.attempt + 1 }.replayFields (host % 160))
      .next ((s.updBlock host r.slot fun k => { k.trigger .age with full := true }).recheck host)

end Sys2Proof.Machine
end

