-- ==== Sys2Proof/Machine/Faults.lean ====
section
/-! DEFINITION. Retirement decisions (R268 to R270, R410 to R416), dies that wedge or fail in service (R413, R421), hubs
that are lost (R414), diverging copies (R417, R418), the thermal trip (R422) and the management round (R424). -/

namespace Sys2Proof.Machine

/-! ### Cores (R11, R412, R415) -/

/-- Changes the map entry of a logical core; what its old physical core held is gone, but for the atomics that its
replay waits for (R250, R282). -/
def State.repoint (s : State) (c : Nat) (dst : Option Nat) : State :=
  let keep (e : Nat × NiEntry) : Bool := match e.2.kind with
    | .atom _ _ _ _ _ => true
    | _ => false
  let s := { s with
    map := s.map.put c ⟨dst, dst.isSome⟩
    cores := s.cores.modify c fun (k : Core) => { k with ni := k.ni.filter keep } }
  ((s.resetCoreRegs c).updMf fun m => { m with moves := m.moves ++ [(c, dst)] }).mapChanged [dieOfCore c]

/-- A logical core becomes vacant: it is no longer gated, and its reservation is withdrawn (R252, R328, R436). -/
def State.vacate (s : State) (c : Nat) : State :=
  let reserved := s.reservedCore c
  let s := s.repoint c none
  let s := { s with cinch := { s.cinch with gated := s.cinch.gated.filter (· != c) } }
  match s.partOfCore c with
  | some p => if reserved then s.withdraw p (dieOfCore c) 3 else s
  | none => s

/-- A physical core is retired: its logical core takes the lowest spare, or becomes vacant (R11, R415, R416). -/
def State.retireCore (s : State) (d phys : Nat) (fail : Bool) : State :=
  let part := partField (s.partOfDie d)
  let s := s.updDie d fun u => { u with phys := u.phys.upd phys PhysSt.fresh fun q => { q with retired := true } }
  let s := (s.count .flt 0x18 1).fieldDue 1 (unitPhys d phys)
  match s.logicalOf d phys with
  | none =>
    (s.updDie d fun u => { u with spares := u.spares.filter (· != phys) }).record (unitPhys d phys) 0x1210 2 part
      [(0, phys), (8, d), (11, fail.toNat)]
  | some c => match (s.die d).spares with
    | [] => (s.vacate c).record (unitPhys d phys) 0x1203 2 part [(0, phys), (16, c)]
    | q :: rest =>
      ((s.updDie d fun u => { u with spares := rest }).repoint c (some q)).record (unitPhys d phys) 0x1202 2 part
        [(0, phys), (8, q), (16, c)]

/-- The decision on a hardware fault (R412): retry, or retire where the check failed or the budget is exceeded. -/
def State.decideCore (s : State) (d phys cls : Nat) (fail : Bool) : State :=
  let q := (s.die d).phys.get phys PhysSt.fresh
  if q.retired || (s.die d).failedService then s
  else
    let lvl := if fail then q.level else satAdd 16 q.level 1
    let s := if fail then s else (s.setLevel (.phys d phys) lvl).count .flt 0x10 1
    let s := s.record (unitPhys d phys) 0x1201 1 (partField (s.partOfDie d))
      [(0, cls), (4, fail.toNat), (5, phys), (13, d), (16, lvl)]
    if fail || chBudget (.phys d phys) < lvl then s.retireCore d phys fail else s

/-! ### Memories (R268 to R270, R277, R411) -/

/-- A remap page is retired: its copy to the lowest free spare page begins; with none left, a pseudo-channel is retired
instead (R268, R269). -/
def State.retirePage (s : State) (m page pc : Nat) : State :=
  let u := s.memUnit m
  if usablePages ≤ page || (u.remap.find page).isSome || u.copies.any fun (c : Nat × Nat) => c.1 == page then s
  else match lowestFree sparePages 1 (u.remap.map (·.2) ++ u.copies.map (·.2)) with
    | [] => s.retirePseudo m pc
    | sp :: _ =>
      let s := s.updMemUnit m fun u => { u with copies := u.copies ++ [(page, sp)] }
      let s := s.updMf fun f => { f with dueRemap := f.dueRemap ++ [(m, page, sp)] }
      (s.count .flt 0x18 1).record (unitStack m) 0x0C02 2 (s.memPart m) [(0, page * 0x1_0000), (64, sp)]

/-- An LPDDR channel is retired, and its module leaves at the next partition reset (R277, R416). -/
def State.retireLpx (s : State) (m ch : Nat) : State :=
  let s := s.updMemUnit (16 + m) fun u => { u with pcRet := setBit u.pcRet ch true }
  let s := s.updMf fun f => { f with dueLpx := f.dueLpx ++ [(s.memUnit (16 + m)).serial.setWidth 32] }
  (s.count .flt 0x18 1).setLeave (16 + m)

/-! ### RETIREMENT_DECISION (R415) -/

/-- One decision; `fail` is the verdict of R412's check. -/
def State.decideOne (s : State) (e : Due) (fail : Bool) : State :=
  match e.what with
  | .core d p cls => s.decideCore d p cls fail
  | .page m page => s.retirePage m page (e.src % 32)
  | .pseudo m pc =>
    if s.retiredCh (.pseudo m pc) then s
    else
      let s := s.retirePage m ((s.memUnit m).lastErr.get pc 0) pc
      if s.retiredCh (.pseudo m pc) then s else s.setLevel (.pseudo m pc) 0
  | .lpx m ch => if s.retiredCh (.lpx m ch) then s else s.retireLpx m ch
  | .lane l k => (s.retireLane l k).recomputeRoutes
  | .link l => (if (s.link l).st == .retired then s else s.retireLink l).recomputeRoutes

/-- Decisions in their order, each core's with the next verdict. -/
def State.decideAll (s : State) : List Due → List Bool → State
  | [], _ => s
  | e :: es, fs => match e.what with
    | .core _ _ _ => State.decideAll (s.decideOne e (fs.headD false)) es (fs.drop 1)
    | _ => State.decideAll (s.decideOne e false) es fs

/-- Decisions made at one boundary at most. -/
def decisionLimit : Nat := 64

/-- Decisions that wait whose triggers fell before the beat. -/
def State.decisionsDue (s : State) (beat : Nat) : List Due := s.mf.pending.filter fun e => e.tsc.toNat / 2048 < beat

/-- Decisions that are late are recorded and carried (R31, R426). -/
def State.decisionsLate (s : State) (n : Nat) : State :=
  if n = 0 then s
  else (s.updMf fun m => { m with late := true }).record s.cantle0 0x120E 1 0xF [(8, min 255 n)]

/-- RETIREMENT_DECISION: at a boundary the pending decisions are made in R36 order, at most 64 of them; the rest are
late, and so is every one while the core map is rebuilt (R415, R418). -/
def execRetirementDecision (checkFails : List Bool) (s : State) : Res :=
  need s (s.time.tsc.toNat % 2048 == 0) /- decisions are made at a beat boundary -/ <|
  need s (s.mf.decideBeat < s.beatNo) /- the decisions of this boundary have been made -/ <|
  let due := s.decisionsDue s.beatNo
  need s (!due.isEmpty) /- no decision is due -/ <|
  let s := s.updMf fun m => { m with decideBeat := s.beatNo }
  if s.mf.rebuild then .next (s.decisionsLate due.length)
  else
    let now := due.take decisionLimit
    let s := s.updMf fun m => { m with pending := m.pending.filter fun e => !now.contains e }
    .next ((s.decideAll now checkFails).decisionsLate (due.length - now.length))

/-! ### Dies in service (R413, R421, R454) -/

/-- A scrub that the compute dies can no longer run ends the erase without one (R374). -/
def State.abandonScrubs (s : State) : State :=
  (List.range 8).foldl (fun s p => if (s.part p).st == .erasing && !s.canScrub p then s.eraseDone p false else s) s

/-- Every grant with a block on a die ends with DIE_FAILED; a cluster with a member there stops (R413). -/
def State.endDieBlocks (s : State) (d : Nat) : State :=
  s.cores.foldl (fun s (e : Nat × Core) =>
    if dieOfCore e.1 = d then
      e.2.blocks.foldl (fun s (b : Nat × Block) =>
        ((e.1, b.1) :: s.liveMates e.1 b.1).foldl (fun s m => s.endBlock m.1 m.2 codeDieFailed) s) s
    else s) s

/-- A die fails in service: cause 0 bridge, 1 wedged, 2 check. Its cores become vacant at the next boundary (R413). -/
def State.dieFailsService (s : State) (d cause : Nat) : State :=
  if (s.die d).failedService || (s.die d).failed then s
  else
    let s := ((coresOfDie d).filter s.reservedCore).foldl (fun s c => s.reservedFault c) s
    let s := s.updDie d fun u => { u with failedService := true, pwrEn := u.pwrEn && !u.powerLost }
    let s := ((s.count .flt 0x20 1).fieldDue 4 d).record s.cantle0 0x1205 3 (partField (s.partOfDie d))
      [(0, d), (3, cause)]
    let s := [2 * d, 2 * d + 1, 16 + d].foldl (fun s m => s.updMemUnit m fun u => { u with insvc := false }) s
    let s := (List.range 64).foldl (fun s l =>
      if dieOfLink l = d && !freeLinks.contains l && (s.link l).st != .retired then s.retireLink l else s) s
    (s.endDieBlocks d).abandonScrubs

/-- Spare wires of a bridge in each direction (R413). -/
def spareWires : Nat := 2

/-- BRIDGE_RETRAIN: the retrain of a bridge steers around the failed wires of each direction with its 2 spares there, or the
bridge has failed and so have the dies at its ends (R413). -/
def execBridgeRetrain (bridge : Nat) : FailedWires → State → Res
  | ⟨fwd, back⟩, s =>
    needUnit "bridge" bridge 35 <|
    need s (s.mf.bridgeDue.any fun (b : Nat × Nat) => b.1 == bridge && b.2 ≤ s.beatNo) /- no retrain of the bridge is due -/ <|
    let s := s.updMf fun m => { m with bridgeDue := m.bridgeDue.filter fun (b : Nat × Nat) => b.1 != bridge }
    let was := s.mf.bridgeSpare.get bridge (0, 0)
    let now := (was.1 + fwd, was.2 + back)
    .next (if spareWires < now.1 ∨ spareWires < now.2 then (bridgeEnds bridge).foldl (fun s d => s.dieFailsService d 0) s
      else if fwd + back = 0 then s
      else
        (s.updMf fun m => { m with bridgeSpare := m.bridgeSpare.put bridge now }).record s.cantle0 0x1204 1 0xF
          [(0, bridge % 16), (4, fwd + back)])

/-- A die that works and could report. -/
def State.dieWorks (s : State) (d : Nat) : Bool :=
  let u := s.die d
  u.powered && !u.failed && !u.failedService

/-- Boundaries without a report after which a die is wedged, and those after which a wedged die fails (R421). -/
def wedgeLimit : Nat := 16
def wedgeFails : Nat := 1024

/-- DIE_REPORT: a die reports to its hub at a boundary, and the hubs' copies take its values (R22); one that was wedged no
longer is (R421). -/
def execDieReport (die : Nat) (s : State) : Res :=
  needUnit "die" die 8 <|
  need s (s.time.tsc.toNat % 2048 == 0) /- dies report at beat boundaries -/ <|
  need s (s.dieWorks die && !(s.die die).powerLost && !s.mf.tripped) /- the die does not report -/ <|
  .next (s.updDie die fun u => { u with silent := 0, wedged := false, wedgedFor := 0, seen := some (s.dieNow die) })

/-- DIE_WEDGED: a die has not reported at 16 consecutive boundaries (R421). -/
def execDieWedged (die : Nat) (s : State) : Res :=
  needUnit "die" die 8 <|
  need s (s.dieWorks die && !(s.die die).wedged) /- the die has failed, or is wedged already -/ <|
  need s (wedgeLimit ≤ (s.die die).silent) /- the die has reported within 16 boundaries -/ <|
  .next (s.updDie die fun u => { u with wedged := true, wedgedFor := 0 }).abandonScrubs

/-- DIE_FAILED: a die fails in service, still wedged at the 1,024th boundary (cause 1), or by a failed check (cause 2).
Cause 0 comes with its bridge's retrain (R413). -/
def execDieFailed (die cause : Nat) (s : State) : Res :=
  needUnit "die" die 8 <|
  need s (s.dieWorks die) /- the die has failed, or has not started -/ <|
  match cause with
  | 1 =>
    need s ((s.die die).wedged && wedgeFails ≤ (s.die die).wedgedFor) /- the die has not been wedged for 1,024 boundaries -/ <|
    .next (s.dieFailsService die 1)
  | 2 => .next (s.dieFailsService die 2)
  | _ => .next s -- a bridge fails at its retrain, or R426 has no such cause

/-- A die that its reset wire has reset reruns its tests (R419). -/
def State.retests (s : State) (d : Nat) : Bool :=
  s.boot.katDone && !(s.die d).testsDone && !(s.die d).failed && !(s.die d).failedService

/-- The unit of a known-answer run works so far, and its runs are in progress. -/
def State.katRuns (s : State) (u : KatUnit) : Bool :=
  let die (d : Nat) : Bool := (s.die d).fwOk && !(s.die d).failed && (!s.boot.katDone || s.retests d)
  match u with
  | .core d p => d < 8 && p < 168 && die d
  | .way d w => d < 8 && w < 16 && die d
  | .die d => d < 8 && die d
  | .hub h b => h < 2 && b < 8 && s.hubOk h && !s.boot.katDone
  | .done => ((List.range 8).all fun d => (s.die d).failed || (s.die d).fwOk) &&
      (!s.boot.katDone || (List.range 8).any s.retests)

/-- A die fails its runs: at the start, or in service where they are rerun (R399, R413, R419). -/
def State.katDie (s : State) (d : Nat) : State := if s.boot.katDone then s.dieFailsService d 2 else s.dieFails d

/-- KNOWN_ANSWER_RUNS: a unit's runs finish, or every run has (R398, R399, R419). -/
def execKnownAnswerRuns (u : KatUnit) (ok : Bool) (run : Nat) (s : State) : Res :=
  need s s.boot.firmware /- the firmware has not started -/ <|
  need s (s.katRuns u) /- the unit takes no part in the runs -/ <|
  match u with
  | .core d p => .next (if ok then s else s.testFails d p run)
  | .way d _ =>
    if ok then .next s
    else
      let s := (s.updDie d fun x => { x with ways := x.ways - 1 }).katFail (unitPool d) run
      .next (if (s.die d).ways = 0 then s.katDie d else s)
  | .die d => .next (if ok then s else (s.katDie d).katFail (unitRouter d) run)
  | .hub h b =>
    .next (if ok then s
      else ((s.updHub h fun x => { x with kat := setBit x.kat b true }).katFail (unitHub h 0) run).hubFails h)
  | .done => .next ((List.range 8).foldl (fun s d => s.updDie d fun x => { x with testsDone := true })
      (s.updBoot fun b => { b with katDone := true }))

/-! ### MAP_REBUILD (R418) -/

/-- A record that says where a logical core went. -/
def Rec.tells (r : Rec) (c : Nat) (dst : Option Nat) : Bool :=
  bits r.data 26 16 == c && match dst with
    | some q => r.code == 0x1202 && bits r.data 15 8 == q
    | none => r.code == 0x1203

/-- The records that the hubs hold or are about to tell of a move since the last numbering. -/
def Log.knows (l : Log) (c : Nat) (dst : Option Nat) : Bool :=
  (l.retained ++ l.ring ++ l.batch ++ l.flight).any fun r => r.tells c dst

/-- MAP_REBUILD: the rebuild of the core map ends after at most 64 beats: every later move is applied from its record,
and a core whose record is lost becomes vacant (R418). -/
def execMapRebuild (beats : Nat) (s : State) : Res :=
  need s s.mf.rebuild /- no rebuild runs -/ <|
  need s (beats ≤ 64) /- the rebuild takes at most 64 beats -/ <|
  let lost := s.mf.moves.filter fun (e : Nat × Option Nat) => !s.log.knows e.1 e.2
  let s := lost.foldl (fun s (e : Nat × Option Nat) => match e.2, s.physOf e.1 with
    | some q, some p => if p = q then
        (s.vacate e.1).updDie (dieOfCore e.1) fun u => { u with spares := lowestFree 168 168 ((List.range 168).filter fun i =>
          !(u.spares.contains i || i == q)) }
      else s
    | _, _ => s) s
  let s := s.mapChanged (List.range 8)
  let s := (s.orReg .map 8 (2 ^ 30)).updMf fun m => { m with rebuild := false, mapDiverged := false }
  .next (s.record s.cantle0 0x1209 1 0xF [(0, s.boot.gen), (16, beats)])

/-! ### Thermal trip (R261, R422) -/

/-- What a trip leaves of a partition: its grants are lost; a privileged one keeps its second answer for the end of the
partition (R368, R422). -/
def Part.tripped (q : Part) : Part :=
  let priv (g : Grant) : Bool := match g.src with
    | .priv _ => true
    | _ => false
  { q with
    grants := (q.grants.filter priv).map fun (g : Grant) => { g with live := 0, ready := false }
    owed := [] }

/-- The actions of a trip, by the unit as R426 codes it (R422). -/
def State.trip (s : State) (unit celsius : Nat) : State :=
  let s := { s with
    cores := []
    inbox := []
    parts := s.parts.mapAll Part.tripped
    pins := { s.pins with thermtrip := true } }.updMf fun m => { m with tripped := true, trips := [] }
  let s := (s.count .flt 0x20 1).record s.cantle0 0x120B 3 0xF [(0, unit), (8, celsius % 256)]
  (s.abandonScrubs).mfDone 3 0xF

/-- THERMAL_TRIP: a junction of die `unit`, or of hub `unit - 8`, reads 115 °C or above (R422). -/
def execThermalTrip (unit temp : Nat) (s : State) : Res :=
  needUnit "die or hub" unit 10 <|
  need s (115 ≤ temp) /- the comparators trip at 115 °C -/ <|
  need s (s.boot.rstN && !s.mf.tripped) /- a trip has occurred, or the reset is held -/ <|
  need s (8 ≤ unit || (s.die unit).powered) /- the die has no power -/ <|
  .next (s.trip unit temp)

/-- STACK_TRIP: a stack read 105 °C or above in the last round (R261). -/
def execStackTrip (stack : Nat) (s : State) : Res :=
  needUnit "stack" stack 16 <|
  needSome s (s.mf.trips.find? fun (e : Nat × Nat × Nat) => e.1 == stack && e.2.2 ≤ s.beatNo)
    /- no reading of the stack calls for a trip -/ fun e =>
  .next (s.trip (0x10 + stack) e.2.1)

/-! ### MANAGEMENT_ROUND (R424) -/

/-- A stack's temperature is read (R261). -/
def State.readStack (s : State) (e : Nat × Nat) : State :=
  let (m, t) := e
  let u := s.memUnit m
  if 16 ≤ m || !u.insvc then s
  else
    let s := s.updMemUnit m fun u => { u with temp := t, hot := 95 < t }
    let s := if 95 < t && !u.hot then s.record (unitStack m) 0x0C09 1 (s.memPart m) [(0, m), (8, t % 256)] else s
    if 105 ≤ t && !s.mf.tripped then s.updMf fun f => { f with trips := f.trips ++ [(m, t, s.beatNo + 1)] } else s

/-- A module's sensor is read (R275). -/
def State.readModule (s : State) (e : Nat × Nat × Bool) : State :=
  if e.1 < 8 && (s.memUnit (16 + e.1)).present then
    s.updMemUnit (16 + e.1) fun u => { u with temp := e.2.1, overTemp := e.2.2 }
  else s

/-- Hub and bus of a cage: the hub's 32 links in order, then its ports, then MP on H0, eight to a bus (R459). -/
def cageBus (cage : Nat) : Nat × Nat :=
  if cage < 64 then
    let h := hubOfDie (dieOfLink cage)
    (h, ((List.range cage).filter fun l => hubOfDie (dieOfLink l) == h).length / 8)
  else
    let p := cage - 64
    (hubOfPort p, (32 + if p = 4 then 2 else p % 2) / 8)

/-- A seated module of a port's cage is read and checked (R355). -/
def State.seatPort (s : State) (port : Nat) (m : ModuleIn) : State :=
  let b := s.cageBudget (64 + port)
  let was := s.portRejected port
  let s := s.setReg (.eth port) 0xA0 (modWord (some m) b (selectApp m (64 + port)))
  match moduleFault m (64 + port) b with
  | none => match m.apps.find? (appFor (64 + port)) with
    | some a => s.updHost fun h => { h with apps := h.apps.put port a }
    | none => s
  | some r =>
    let s := (s.setReg (.eth port) 0 0).updHost fun h => { h with apps := h.apps.del port }
    if was then s else s.record (unitPort port) 0x1008 0 0xF [(0, r)]

/-- A cage's module is read, unless its bus does not answer (R309, R459). -/
def State.readCage (s : State) (fail : List (Nat × Nat)) (e : Nat × ModuleIn) : State :=
  if 69 ≤ e.1 || fail.contains (cageBus e.1) then s
  else if e.1 < 64 then s.seatModule e.1 e.2
  else s.seatPort (e.1 - 64) e.2

/-- A cage bus does not acknowledge: recorded once, and its cages' modules count as absent (R459). -/
def State.readBuses (s : State) (fail : List (Nat × Nat)) : State :=
  let s := fail.foldl (fun s (b : Nat × Nat) => if s.mf.busFail.contains b then s
    else s.record (unitHub b.1 0) 0x1403 1 0xF [(0, b.1), (1, b.2)]) s
  let s := s.updMf fun m => { m with busFail := fail }
  (List.range 69).foldl (fun s c => if fail.contains (cageBus c) then s.cageEmpty c else s) s

/-- Entries of the field retirement area (R416). -/
def fieldSize : Nat := 0x800

/-- A retirement is written to the field area of both fuse copies, unless it is full (R416). -/
def State.burn (s : State) (e : BitVec 24) : State :=
  if s.fieldEntries.contains e then s
  else if fieldSize ≤ s.fieldEntries.length then
    (s.updMf fun m => { m with areaFull := true }).record s.cantle0 0x120A 2 0xF [(0, e.toNat)]
  else s.updFlash fun f => { f with field := f.field ++ [e] }

/-- The flash and fuse writes that are due (R269, R396, R416). -/
def State.flashWrites (s : State) : State :=
  let s := s.mf.dueField.foldl (fun s e => s.burn e) s
  let due := s.boot.due
  let s := s.updFlash fun f => { f with
    remap := f.remap ++ s.mf.dueRemap
    lpxRetired := f.lpxRetired ++ s.mf.dueLpx
    saved := (f.saved.filter fun r => !due.any fun q => q.kind == r.kind && q.unit == r.unit) ++ due }
  (s.updMf fun m => { m with dueField := [], dueRemap := [], dueLpx := [] }).updBoot fun b => { b with due := [] }

/-- `NRG_SCALE`: the measured over the estimated energy, in units of 1/4,096, from 0.875 to 1.125 (R433). -/
def scaleOf (est meas : Nat) : Nat := if est = 0 then 0x1000 else max 0xE00 (min 0x1200 (meas * 0x1000 / est))

/-- The regulator telemetry (R433, R455). -/
def State.readTelemetry (s : State) (r : RoundIn) : State :=
  let s := r.telFail.foldl (fun s t => if s.mf.telFail.contains t then s
    else s.record (unitHub s.primary 0) 0x1404 1 0xF [(0, t)]) s
  let s := s.updMf fun m => { m with telFail := r.telFail }
  let notel := !r.telFail.isEmpty
  let s := if notel && !s.cinch.notel then s.record s.cinchUnit 0x1306 1 0xF [] else s
  { s with cinch := { s.cinch with
      notel := notel, boardW := r.boardW, scale := if notel then 0x1000 else scaleOf r.estEnergy r.measEnergy } }

/-- A hub is lost: the other is primary, and its ports, module slots and links leave service (R414). -/
def State.hubLost (s : State) (h : Nat) : State :=
  if (s.hub h).lost || (s.hub h).failed then s
  else
    let s := ((s.updHub h fun u => { u with lost := true, cantle := 0 }).hubLeaves h).choosePrimary
    ((s.count .flt 0x20 1).fieldDue 5 h).record s.cantle0 0x1207 3 0xF [(0, h)]

/-- A cantle core's check fails: it is retired, and with the last one its hub is lost (R414). -/
def State.retireCantle (s : State) (e : Nat × Nat) : State :=
  let (h, c) := e
  if !(s.hub h).cantle.getLsbD c then s
  else
    let s := s.updHub h fun u => { u with cantle := setBit u.cantle c false }
    let s := ((s.count .flt 0x18 1).fieldDue 6 (unitHub h c)).record (unitHub h c) 0x1206 2 0xF [(0, h), (1, c)]
    if (s.hub h).cantle = 0 then s.hubLost h else s

/-- Two copies of a datum differ with equal generations: both are distrusted, and the datum comes from its source of truth
(R417): a board record is absent, the flash copy of the remap entries is written from the controllers'. -/
def State.diverge (s : State) (e : Nat × Nat) : State :=
  let s := (s.count .flt 0x28 1).record s.cantle0 0x1208 1 0xF [(0, e.1)]
  match e.1 with
  | 4 => s.dropBoard (e.2, 0)
  | 5 => s.updFlash fun f => { f with
      remap := (List.range 16).flatMap fun m => (s.memUnit m).remap.map fun r => (m, r.1, r.2) }
  | _ => s

/-- The numbers that a round's readings carry are those of units. -/
def roundOk (r : RoundIn) : Bool :=
  (r.cages.all fun (e : Nat × ModuleIn) => e.1 < 69) && (r.busFail.all fun (b : Nat × Nat) => b.1 < 2 && b.2 < 5) &&
    (r.cantleFail.all fun (e : Nat × Nat) => e.1 < 2 && e.2 < 4) && (r.hubFail.all fun h => h < 2) &&
    (r.diverged.all fun (d : Nat × Nat) => d.1 < 8) && (r.telFail.all fun t => t < 18)

/-- First beat of the round that runs or is due: the last multiple of 64. -/
def State.roundDue (s : State) : Nat := s.beatNo / 64 * 64

/-- MANAGEMENT_ROUND: the round of the last multiple of 64 completes (R424). -/
def execManagementRound (r : RoundIn) (s : State) : Res :=
  need s s.boot.firmware /- the firmware has not started -/ <|
  need s (s.mf.roundBeat < s.roundDue) /- the round of these 64 beats has run -/ <|
  need s (roundOk r) /- a reading names no unit of the package -/ <|
  let s := r.stackTemp.foldl (fun s e => s.readStack e) s
  let s := r.lpxTemp.foldl (fun s e => s.readModule e) s
  let s := (r.cages.foldl (fun s e => s.readCage r.busFail e) s).readBuses r.busFail
  let s := s.flashWrites.readTelemetry r
  let s := r.cantleFail.foldl (fun s e => s.retireCantle e) s
  let s := r.hubFail.foldl (fun s h => s.hubLost h) s
  let s := r.diverged.foldl (fun s d => s.diverge d) s
  .next (s.updMf fun m => { m with
    mapDiverged := m.mapDiverged || r.mapDiverged || r.diverged.any (fun d => d.1 == 0), hottest := r.hottest, roundBeat := s.roundDue })

/-! ### Late must-finish operations and the maker's test modes (R420, R430) -/

/-- Bound of a must-finish operation in microseconds, the shortest where it depends on the dies (R419). -/
def mfBound (op : Nat) : Nat := match op with
  | 3 => 10
  | 6 => 131
  | 7 => 50000
  | _ => 1000

/-- MF_LATE: an operation exceeds its bound; it still runs to completion (R420). -/
def execMfLate (op part us : Nat) (s : State) : Res :=
  need s (1 ≤ op && op ≤ 7) /- operations are 1 to 7 (R419) -/ <|
  need s (part < 8 || part == 0xF) /- no such partition -/ <|
  need s (mfBound op < us) /- the operation is within its bound -/ <|
  .next ((s.count .mf 0x18 1).record s.cantle0 0x120D 3 part [(0, op), (4, part), (32, us % 2 ^ 32)])

/-- TEST_MODE_UNLOCK: over MP, with a valid token of this part and the maker's signature over it, the test modes unlock; they
read the retained area and may clear it (R38, R430). -/
def execTestModeUnlock (sigOk clearRetained : Bool) (s : State) : Res :=
  need s (s.portUp 4) /- MP has no link -/ <|
  if !sigOk || s.host.token.isNone then .next s
  else
    let s := (s.updHost fun h => { h with testMode := true }).emit (.retained s.log.retained)
    .next (if clearRetained then
      { s with log := { s.log with retained := [], retFull := false } }.updFlash fun f => { f with
        retained := [], retFull := false }
    else s)

end Sys2Proof.Machine
end

