-- ==== Sys2Proof/Machine/Power.lean ====
section
/-! DEFINITION. The cinch controller (R432 to R442): limits, gating in its order, overdraw, the clock; the fast-limit
input, the synchronisation input (R457), and what a spent overdraw does (R439). -/

namespace Sys2Proof.Machine

def State.updCinch (s : State) (f : Cinch → Cinch) : State := { s with cinch := f s.cinch }

/-! ### Pins (R440, R457) -/

/-- The fast-limit input changes: recorded; the controller samples it at the next boundary (R440). -/
def State.fastLimit (s : State) (on : Bool) : State :=
  { s with pins := { s.pins with pwrLim := on } }.record s.cinchUnit 0x1304 0 0xF [(0, on.toNat)]

/-- FAST_LIMIT_ASSERT (R440). -/
def execFastLimitAssert (s : State) : Res :=
  need s (!s.pins.pwrLim) /- the input is asserted -/ <| .next (s.fastLimit true)

/-- FAST_LIMIT_DEASSERT (R440). -/
def execFastLimitDeassert (s : State) : Res :=
  need s s.pins.pwrLim /- the input is not asserted -/ <| .next (s.fastLimit false)

/-- SYNC_EDGE: a rising edge of SYNC_IN at a tick of the beat, recorded at most once per beat (R457). -/
def execSyncEdge (tick : Nat) (s : State) : Res :=
  let s := s.atTick tick
  .next (if s.pins.syncRec then s
    else { s with pins := { s.pins with syncRec := true } }.record unitPackage 0x1401 0 0xF [(0, s.time.tsc.toNat)])

/-! ### Overdraw (R437 to R439) -/

/-- OVERBEATS at which the exchange beats of the current step stop. -/
def overLimit : Nat := 64

/-- The partitions with a current step. -/
def State.steps (s : State) : List Nat := (List.range 8).filter fun p => (s.part p).ex.current

/-- CINCH_SPENT: 64 overdrawing beats in succession: every current step is late and runs no further SEND, REDUCE or
RECV beat (R439). -/
def execCinchSpent (s : State) : Res :=
  need s (overLimit ≤ s.cinch.overbeats && !s.cinch.spent) /- OVERBEATS has not reached 64, or SPENT is set -/ <|
  .next (s.steps.foldl (fun s p =>
    (((s.mark p hLate).updEx p fun x => { x with spent := true }).record s.cinchUnit 0x1302 1 p
      [(0, (s.part p).ex.step.toNat)])) (s.updCinch fun c => { c with spent := true }))

/-! ### Gating (R435, R436) -/

/-- A core that the controller may gate: neither vacant nor reserved (R436). -/
def State.gateable (s : State) (c : Nat) : Bool := (s.physOf c).isSome && !s.reservedCore c

/-- The clusters with a block on a core: partition, grant and cluster. -/
def State.clustersOn (s : State) (c : Nat) : List (Nat × Nat × Nat) :=
  (s.core c).blocks.filterMap fun (e : Nat × Block) =>
    if 1 < e.2.desc.csize then some (e.2.desc.part, e.2.desc.uid, e.2.desc.lin / e.2.desc.csize) else none

/-- The cores that hold a block of a cluster with a block on one of `cs`. -/
def State.clusterPeers (s : State) (cs : List Nat) : List Nat :=
  let ks := cs.flatMap s.clustersOn
  (s.cores.filter fun (e : Nat × Core) => (s.clustersOn e.1).any ks.contains).map (·.1)

/-- A core with every core that a chain of clusters ties to it: gated together, or not at all. -/
def State.tied (s : State) : Nat → List Nat → List Nat
  | 0, cs => cs
  | n + 1, cs =>
    let more := (s.clusterPeers cs).filter fun c => !cs.contains c
    if more.isEmpty then cs else State.tied s n (cs ++ more)

/-- Gates up to `n` more cores of a list in its order, each with those tied to it. -/
def State.gateN (s : State) (n : Nat) : List Nat → List Nat → List Nat
  | [], acc => acc
  | c :: l, acc =>
    if n ≤ acc.length then acc
    else if acc.contains c || s.cinch.gated.contains c then State.gateN s n l acc
    else
      let t := s.tied 160 [c]
      State.gateN s n l (if t.all s.gateable then acc ++ t.filter fun x => !acc.contains x else acc)

/-- Ungated cores that hold no block, ascending. -/
def State.idleCores (s : State) : List Nat :=
  (List.range 1280).filter fun c => s.gateable c && !s.cinch.gated.contains c && (s.core c).blocks.isEmpty

/-- Busy cores of a partition from its pointer on, wrapping at its end. -/
def State.busyFrom (s : State) (p : Nat) : List Nat :=
  let cs := (s.diesOf p).flatMap coresOfDie
  let k := s.cinch.ptr.get p 0
  (cs.drop k ++ cs.take k).filter fun c => s.gateable c && !s.cinch.gated.contains c && !(s.core c).blocks.isEmpty

/-- The shares of `n` busy cores among partitions, in proportion to their core estimates; the remainder goes to the
lowest partition number (R436). -/
def gateShares (n : Nat) (est : List (Nat × Nat)) : List (Nat × Nat) :=
  let total := (est.map (·.2)).sum
  if total = 0 then []
  else
    let base := est.map fun (e : Nat × Nat) => (e.1, n * e.2 / total)
    let rest := n - (base.map (·.2)).sum
    match base.map (·.1) |>.min? with
    | none => []
    | some low => base.map fun (e : Nat × Nat) => if e.1 = low then (e.1, e.2 + rest) else e

/-- Gates busy cores of a partition up to its share, and moves its pointer by the number gated. -/
def State.gatePart (s : State) (e : Nat × Nat) : State :=
  let got := s.gateN e.2 (s.busyFrom e.1) []
  let size := max 1 (160 * (s.diesOf e.1).length)
  s.updCinch fun c => { c with
    gated := c.gated ++ got, ptr := c.ptr.put e.1 ((c.ptr.get e.1 0 + got.length) % size) }

/-- Gates `n` more cores: those without blocks first, then busy ones (R436). -/
def State.gateMore (s : State) (n : Nat) (est : List (Nat × Nat)) : State :=
  let idle := s.gateN n s.idleCores []
  let s := s.updCinch fun c => { c with gated := c.gated ++ idle }
  let parts := est.filter fun (e : Nat × Nat) => !(s.busyFrom e.1).isEmpty
  (gateShares (n - idle.length) parts).foldl (fun s e => s.gatePart e) s

/-- Gates every core that R436 allows, in its order (R437). -/
def State.gateAll (s : State) : State :=
  let s := s.updCinch fun c => { c with gated := c.gated ++ s.idleCores }
  (List.range 8).foldl (fun s p => s.gatePart (p, 1280)) s

/-- Ungates up to `n` cores in the reverse order of gating, those of a cluster together (R436). -/
def State.ungate (s : State) : Nat → Nat → State
  | 0, _ => s
  | k + 1, n =>
    match s.cinch.gated.getLast? with
    | none => s
    | some c =>
      let t := (s.tied 160 [c]).filter s.cinch.gated.contains
      if n < t.length then s
      else State.ungate (s.updCinch fun x => { x with gated := x.gated.filter fun y => !t.contains y }) k (n - t.length)

/-! ### The decision at a boundary (R432, R434, R437, R441, R442) -/

/-- A power limit within the range of R432. -/
def wattsOf (w : Nat) : Nat := max 600 (min 2000 w)

/-- Values written take effect, and the fast-limit input is sampled (R432, R440, R441). -/
def State.cinchLoad (s : State) : State :=
  s.updCinch fun c => { c with
    cap := wattsOf c.capNext, fast := wattsOf c.fastNext, ctrl := c.ctrlNext, fastIn := s.pins.pwrLim }

/-- The limit of the beat that begins (R432). -/
def Cinch.limit (c : Cinch) : Nat := if c.fastIn then min c.cap c.fast else c.cap

/-- `CINCH_CTRL.MARGIN` and `CINCH_CTRL.BOOST`. -/
def Cinch.margin (c : Cinch) : Nat := bits c.ctrl 15 8
def Cinch.boost (c : Cinch) : Bool := c.ctrl.getLsbD 0

/-- Counts a beat's overdraw, sets OVER, and marks the steps that it falls in (R437, R438). -/
def State.cinchOver (s : State) (lim : Nat) (b : BoundaryIn) : State :=
  let over' := lim < b.est && lim < b.floor
  let was := s.cinch.overdraw
  let s := s.updCinch fun c => { c with
    overdraw := over', overbeats := if over' then min overLimit (c.overbeats + 1) else 0 }
  if !over' then s
  else
    let s := s.cinchCount 0x28 1
    let s := if was then s else s.record s.cinchUnit 0x1301 1 0xF [(0, lim), (16, min 0xFFFF b.floor)]
    s.steps.foldl (fun s p => s.updEx p fun x => { x with overStep := true }) s

/-- Steps of 50 MHz by which the clock falls before any core is gated (R441). -/
def clockSteps (c : Cinch) (b : BoundaryIn) : Nat :=
  let room := c.limit - c.margin
  if !c.boost || b.est ≤ room then 0
  else min ((c.mhz - 2000) / 50) (if b.downStep = 0 then (c.mhz - 2000) / 50 else ceilDiv (b.est - room) b.downStep)

/-- A decision in time: the clock, then gating or ungating (R434, R441). -/
def State.cinchDecide (s : State) (newFast : Bool) (b : BoundaryIn) : State :=
  let c := s.cinch
  let room := c.limit - c.margin
  let k := clockSteps c b
  let raise := c.boost && k == 0 && b.estUp < room && c.mhz < 2200 && !newFast
  let s := s.updCinch fun c => { c with mhz := if raise then c.mhz + 50 else c.mhz - 50 * k }
  let est := b.est - k * b.downStep
  let s :=
    if c.limit < b.est && c.limit < b.floor then s.gateAll
    else if room < est then s.gateMore (if b.saving = 0 then 1280 else ceilDiv ((est - room) * 1000) b.saving) b.coreEst
    else if est + 2 * c.margin < c.limit then
      s.ungate 128 (min 128 (if b.saving = 0 then 128 else (room - est) * 1000 / b.saving))
    else s
  s.cinchCount 0x20 1

/-- CINCH_DECISION within BEAT_BOUNDARY: one decision, or the previous gating for one more beat where it is late; after a
trip the controller is frozen (R31, R434, R442). -/
def State.cinchBeat (s : State) (b : BoundaryIn) : State :=
  if s.mf.tripped then s
  else
    let s := s.cinch.gated.foldl (fun s c => s.count (.core c 11) 0x10 1) s
    let was := s.cinch.fastIn
    let mhz := s.cinch.mhz
    let s := s.cinchLoad
    let s := s.updCinch fun c => { c with
      est := b.est, floor := b.floor, late := b.cinchLate, gated := c.gated.filter s.gateable }
    let lim := s.cinch.limit
    let s := if b.cinchLate then
        (s.cinchCount 0x30 1).record s.cinchUnit 0x1305 1 0xF [(0, s.cinch.gated.length)]
      else s.cinchDecide (s.cinch.fastIn && !was) b
    (s.clockMoved mhz).cinchOver lim b

end Sys2Proof.Machine
end

