-- ==== Sys2Proof/Machine/Beat.lean ====
section
/-! DEFINITION. The beat boundary (R30) and everything that happens at it: time (R28, R29, R303, R304), late work (R31),
the event log (R37, R38), dies and the core map (R413, R418, R421), watchdogs and ages (R57, R236, R435), the command
table (R376) and grants (R229), power (R434) and energy (R443); and the delivery of a record (R37). -/

namespace Sys2Proof.Machine

/-! ### The event log (R37, R38) -/

/-- Die of the unit of a source number, for units whose records cross a die's path to its hub (R12). -/
def dieOfUnit (u : Nat) : Option Nat :=
  if u < 0x500 then some (u / 160)
  else if 0x1060 ≤ u ∧ u < 0x1090 then some (u % 16 % 8)
  else if 0x1100 ≤ u ∧ u < 0x1140 then some (dieOfLink (u - 0x1100))
  else if 0x1300 ≤ u ∧ u < 0x1310 then some ((u - 0x1300) / 2)
  else if 0x1400 ≤ u ∧ u < 0x1408 then some (u - 0x1400)
  else if 0x2000 ≤ u ∧ u < 0x2200 then some ((u - 0x2000) / 64)
  else if 0x3000 ≤ u ∧ u < 0x3100 then some (dieOfLink ((u - 0x3000) / 4))
  else if 0x3800 ≤ u ∧ u < 0x3840 then some ((u - 0x3800) / 8)
  else if 0x1_0000 ≤ u ∧ u < 0x1_0800 then some ((u - 0x1_0000) / 0x100)
  else none

/-- A die's path to its hub is held: a bridge retrain, a core-map rebuild, or a wedged die (R37). -/
def State.pathHeld (s : State) (d : Nat) : Bool :=
  let u := s.die d
  !u.failedService && (u.wedged || u.powerLost || s.mf.rebuild ||
    s.mf.bridgeDue.any fun (b : Nat × Nat) => b.1 == 10 + d && b.2 ≤ s.beatNo)

/-- A record waits for its path to the hub, or for the firmware to start (R37, R407). -/
def State.recHeld (s : State) (r : Rec) : Bool :=
  !s.boot.firmware || match dieOfUnit (r.src % 2 ^ 18) with
  | some d => s.pathHeld d
  | none => false

/-- A record reaches the hub: it waits for its batch, or is appended at once, marked LATE, where the batch has gone. -/
def State.deliverRec (s : State) (r : Rec) : State :=
  if r.beat + 2 ≤ s.beatNo then
    { s with log := s.log.append { r with late := true } }.saveRetained
  else { s with log := { s.log with batch := s.log.batch ++ [r] } }

/-- EVENT_RECORD: the `i`-th record on its way is delivered to a hub (R37). -/
def execEventRecord (i : Nat) (s : State) : Res :=
  needSome s s.log.flight[i]? /- no such record is on its way -/ fun r =>
  need s (!s.recHeld r) /- the record's path to the hub is held -/ <|
  .next ({ s with log := { s.log with flight := s.log.flight.eraseIdx i } }.deliverRec r)

/-- At the boundary that starts beat b + 2 the records of beat b, each delivered within one beat, are sorted and
appended; older ones whose path has resumed follow, marked LATE (R37). -/
def State.appendBatch (s : State) : State :=
  let n := s.beatNo
  let here (r : Rec) : Bool := r.beat + 2 ≤ n && !s.recHeld r
  let now := s.log.flight.filter here
  let due := (s.log.batch.filter fun r => r.beat + 2 ≤ n) ++ now.filter fun r => r.beat + 2 == n
  let stale := now.filter fun r => r.beat + 2 < n
  let l := { s.log with
    flight := s.log.flight.filter fun r => !here r
    batch := s.log.batch.filter fun r => n < r.beat + 2 }
  let l := (sortRecs due).foldl Log.append l
  let l := stale.foldl (fun (l : Log) r => l.append { r with late := true }) l
  { s with log := l }.saveRetained

/-! ### Time (R26 to R29, R304) -/

/-- The part is the master. -/
def State.isMaster (s : State) : Bool := nbit (s.reg .time 8) 0
/-- `TIME_CTRL.SYNC_EN`. -/
def State.syncEn (s : State) : Bool := nbit (s.reg .time 8) 1

/-- The link that a follower takes its offset from: the UP link of lowest DIST below 255, then of lowest number, that
has brought a sync symbol in the beat (R304). -/
def State.syncLink (s : State) : Option (Nat × Int) :=
  (s.links.foldl (fun (best : Option (Nat × Nat × Int)) (e : Nat × Link) =>
    match e.2.sync with
    | none => best
    | some o =>
      if e.2.st != .up || 255 ≤ e.2.dist then best
      else match best with
        | none => some (e.2.dist, e.1, o)
        | some b => if e.2.dist < b.1 then some (e.2.dist, e.1, o) else best) none).map fun b => (b.2.1, b.2.2)

/-- An offset is measured: SYNC, the loss of it, and the tick that slewing adds or withholds in the beat, after ready and
until the part is held (R28, R29, R466). -/
def State.offsetIs (s : State) (link : Nat) (o : Int) : State :=
  let was := s.time.sync
  let s := { s with time := { s.time with link := link, offset := o } }
  if s.time.held then s
  else
    let far := 4 < o.natAbs
    let s := { s with time := { s.time with sync := !far } }
    let s := if far && was then s.record unitPackage 0x0201 1 0xF [(0, sat16 o), (16, link)] else s
    if s.boot.ready && 1024 < o.natAbs then
      { s with time := { s.time with held := true, sync := false } }.record unitPackage 0x0202 2 0xF [(0, sat16 o)]
    else { s with time := { s.time with slew := if s.boot.ready then o.sign else 0 } }

/-- Time at a boundary. -/
def State.timeBeat (s : State) : State :=
  let s := { s with time := { s.time with slew := 0 } }
  let s := if s.isMaster then
      (if s.boot.ready && !s.time.held then { s with time := { s.time with sync := true, offset := 0 } } else s)
    else if !s.syncEn then s
    else match s.syncLink with
      | some (l, o) => s.offsetIs l o
      | none => s
  { s with links := s.links.mapAll fun (k : Link) => { k with sync := none } }

/-! ### Late work (R31, R329, R415, R424) -/

/-- Entries of the plan whose work of the beat that ends is not done, with the beat's offset from the start beat. -/
def State.lateEntries (s : State) (p : Nat) : List (Nat × Nat) :=
  let x := (s.part p).ex
  ((List.range x.entries.length).zip x.entries).filterMap fun (ie : Nat × PlanEntry) =>
    let (i, e) := ie
    let open' (j what : Nat) : Bool := !x.beatsDone.contains (i, j, what)
    if e.op = opSend ∨ e.op = opReduce ∨ e.op = opRecv then
      match s.entryBeat p e 0 with
      | some j => if open' j 0 && !x.spent && !x.skipped.contains i then some (i, e.offset + j)
        else match s.entryBeat p e 1 with
          | some j => if s.reg (.digest p) 0 % 256 != 0 && open' j 1 && x.wrote.any (fun w => w.1 == i && w.2.1 == j) then
              some (i, e.offset + j + 1) else none
          | none => none
      | none => match s.entryBeat p e 1 with
        | some j => if s.reg (.digest p) 0 % 256 != 0 && open' j 1 && x.wrote.any (fun w => w.1 == i && w.2.1 == j) then
            some (i, e.offset + j + 1) else none
        | none => none
    else if e.op = opHup ∨ e.op = opHdown then
      if s.stepBeat p == some e.offset && open' 0 0 then some (i, e.offset) else none
    else none

/-- The entry of a partition's plan whose frame of this beat an exchange frame is, with the beat's offset. -/
def State.exchEntry (s : State) (f : OutFrame) (b : ExchBody) : Option (Nat × Nat) :=
  let x := (s.part f.srcPart).ex
  ((List.range x.entries.length).zip x.entries).findSome? fun (ie : Nat × PlanEntry) =>
    let e := ie.2
    if s.targetPkg e.target ≠ some f.dstPkg then none
    else if b.kind = 1 ∧ e.op = opSend ∧ e.link = b.entry then match s.entryBeat f.srcPart e 0 with
      | some j => if (e.framesOf j).contains b.frame then some (ie.1, e.offset + j) else none
      | none => none
    else if ((b.kind = 2 ∧ e.op = opHup) ∨ (b.kind = 3 ∧ e.op = opHdown)) ∧ s.stepBeat f.srcPart = some e.offset then
      some (ie.1, e.offset)
    else none

/-- Exchange frames that wait at the end of their beat are not sent: their beat is late (R31, R321, R329). -/
def State.dropLateFrames (s : State) : State :=
  s.links.foldl (fun s l =>
    let isExch (f : OutFrame) : Bool := match f.body with
      | .exch _ => true
      | _ => false
    let gone := l.2.queue.filter isExch
    if gone.isEmpty then s
    else
      let s := s.updLink l.1 fun k => { k with queue := k.queue.filter fun f => !isExch f }
      gone.foldl (fun s f => match f.body with
        | .exch b => match s.exchEntry f b with
          | some e => s.lateBeat f.srcPart e.1 e.2
          | none => s.mark f.srcPart hLate
        | _ => s) s) s

/-- Work of an entry that its beat did not finish; a SEND whose first beat found its gate shut sends nothing (R320). -/
def State.lateEntry (s : State) (p i off : Nat) : State :=
  let x := (s.part p).ex
  let s := match x.entries[i]? with
    | some e => if x.gateShut e (off - e.offset) then s.skipEntry p i else s
    | none => s
  s.lateBeat p i off

/-- Late exchange work of every partition. -/
def State.lateWork (s : State) : List (Nat × Nat × Nat) :=
  s.steps.flatMap fun p => (s.lateEntries p).map fun e => (p, e.1, e.2)

/-- Steps that wait for their decision are late at every boundary at which SYNC is 0 (R29, R329). -/
def State.unsynced (s : State) : State :=
  if s.inSync then s
  else (List.range 8).foldl (fun s p => if (s.part p).ex.active then s.mark p hLate else s) s

/-- Decisions and management rounds that the ended beat did not finish (R31, R426). -/
def State.lateManagement (s : State) (ended : Nat) : State :=
  let s := s.updMf fun m => { m with late := false }
  let s := if s.mf.decideBeat < ended then s.decisionsLate (s.decisionsDue ended).length else s
  if s.boot.firmware && 0 < ended && ended % 64 = 0 && s.mf.roundBeat < ended then
    (s.updMf fun m => { m with late := true }).record s.cantle0 0x120E 1 0xF [(0, 1)]
  else s

/-! ### Dies and the core map (R413, R418, R421, R454) -/

/-- A die's boundary without a report so far, and the record of a lost rail (R421, R454). -/
def State.dieBeat (s : State) (d : Nat) : State :=
  let s := if s.dieWorks d && !s.mf.tripped then s.updDie d fun u => { u with
      silent := u.silent + 1, wedgedFor := if u.wedged then u.wedgedFor + 1 else 0 } else s
  if (s.die d).powerLost && !(s.die d).lostRec then
    (s.updDie d fun u => { u with lostRec := true }).record s.cantle0 0x1402 3 0xF [(0, d)]
  else s

/-- The cores of a die that failed in service become vacant together (R24, R413). -/
def State.vacateDie (s : State) (d : Nat) : State :=
  if !(s.die d).failedService || !(coresOfDie d).any fun c => (s.physOf c).isSome then s
  else
    let s := match s.partOfDie d with
      | some p => s.withdraw p d 3
      | none => s
    let s := { s with
      map := (coresOfDie d).foldl (fun (m : Tab MapEnt) c => m.put c ⟨none, false⟩) s.map
      cinch := { s.cinch with gated := s.cinch.gated.filter fun c => dieOfCore c != d } }
    (s.updDie d fun u => { u with spares := [] }).mapChanged [d]

/-! ### Work in the cores (R57, R236, R435) -/

/-- Watchdogs and ages of the blocks of a core that is not gated count one boundary. -/
def Core.beat (k : Core) : Core := { k with
  blocks := k.blocks.mapAll fun (b : Block) =>
    if b.st == .running && !b.stopped && !b.final then
      { b with age := b.age + 1, wds := b.wds.map fun w => { w with count := w.count + 1 } }
    else if b.st == .admitted then { b with age := b.age + 1 }
    else b }

def State.coresBeat (s : State) : State :=
  { s with cores := s.cores.map fun (e : Nat × Core) => if s.cinch.gated.contains e.1 then e else (e.1, e.2.beat) }

/-! ### Links (R294, R301, R303) -/

/-- `TL_CTRL` acts, and the link's counts of the beat begin anew (R294, R303, R321). -/
def State.linkBeat (s : State) (l : Nat) : State :=
  let off := !s.linkEn l
  s.updLink l fun k => { (k.enter (if k.st == .retired then .retired else if off then .off
      else if k.retrainPend && k.st == .up then .retrain else k.st) s.time.tsc.toNat) with
    synced := false, exSent := 0, retrainPend := false, badRun := if k.retrainPend then 0 else k.badRun }

/-! ### Partitions (R229, R368, R376, R381) -/

/-- A grant's conditions of R229 hold, or its last block has ended after a fault (R59, R380). -/
def Grant.over (g : Grant) : Bool := if g.fault.isSome then g.live == 0 else g.done == g.launch.blocks

/-- A partition at a boundary: stepping was late where the stepper says so, or where launches of an update were not all taken
in their beat (R31, R348), which no event code of R386 records (notes/assumptions/138); the command table steps anew,
grants that have ended are to be recorded, and records that wait are written as far as the ring has room. -/
def State.partBeat (s : State) (late : List Nat) (p : Nat) : State :=
  let trip := s.mf.tripped
  let unTaken := s.updDue p && (s.part p).upd.launchBeat < s.beatNo
  let s := s.updPart p fun q => { q with
    stepping := if q.st == .running then 32 else 0
    stepLate := late.contains p || unTaken
    grants := q.grants.map fun (g : Grant) => { g with ready := !trip && (g.ready || g.over) } }
  let s := if (s.part p).cplHeld.isEmpty && !(s.cmdtOn p && (s.part p).st == .running) then s else s.drainCpl p
  let s := if trip then s else s.takePriv p
  if !s.updDue p && s.mayStep p && s.hubPoisoned p (s.headAt p + 64) 64 then s.headUnreadable p else s

/-! ### Energy (R443) -/

/-- Energy of a partition: its grants' and its own buckets. -/
def partEnergy (e : EnergyIn) (p : Nat) : Nat :=
  ((e.grants.filter fun g => g.part == p).map fun g => g.core + g.mem).sum +
    ((e.parts.filter fun x => x.part == p).map fun x => x.idle + x.exch + x.host).sum

/-- The energy of every bucket. -/
def packageEnergy (e : EnergyIn) : Nat :=
  (e.grants.map fun g => g.core + g.mem).sum + (e.parts.map fun x => x.idle + x.exch + x.host).sum + e.uncore

/-- A grant's energy grows. -/
def State.grantEnergy (s : State) (e : GrantEnergy) : State :=
  s.updPart e.part fun q => { q with
    grants := q.grants.map fun (g : Grant) =>
      if g.uid == e.uid then { g with eCore := min (2 ^ 64 - 1) (g.eCore + e.core), eMem := min (2 ^ 64 - 1) (g.eMem + e.mem) }
      else g }

/-- A partition's own buckets. -/
def State.bucketEnergy (s : State) (e : PartEnergy) : State :=
  let a := Blk.nrg.base + glogAt e.part
  ((s.addEnergy (a + 8) e.idle).addEnergy (a + 0x10) e.exch).addEnergy (a + 0x18) e.host

/-- The energy of the ended beat goes to its buckets, whose sum is `NRG_PKG`, and to the dies' and cores' counters. -/
def State.energyBeat (s : State) (e : EnergyIn) : State :=
  let s := (e.parts.foldl State.bucketEnergy (e.grants.foldl State.grantEnergy s))
  let s := (List.range 8).foldl (fun s p => s.addEnergy (Blk.nrg.base + glogAt p) (partEnergy e p)) s
  let s := (s.addEnergy Blk.nrg.base (packageEnergy e)).addEnergy (Blk.nrg.base + 8) e.uncore
  let s := e.dies.foldl (fun s (d : Nat × Nat × Nat) =>
    (s.addEnergy (Blk.dNrg d.1).base d.2.1).addEnergy ((Blk.dNrg d.1).base + 8) d.2.2) s
  e.cores.foldl (fun s (c : Nat × Nat) => s.addEnergy (Blk.core c.1 11).base c.2) s

/-! ### BEAT_BOUNDARY (R30) -/

/-- The frames that have left the ports since the last boundary are counted (R32; at the boundary by choice,
notes/assumptions/155). -/
def State.txBeat (s : State) : State :=
  let s' := s.host.txDue.foldl (fun s e => s.count (.eth e.1) 0xC8 e.2) s
  s'.updHost fun h => { h with txDue := [] }

/-- What a beat keeps to itself begins anew: events recorded once per beat, leaks, bridge failures, the sync edge. -/
def State.beatFlags (s : State) : State :=
  { s with
    noticed := []
    host := { s.host with dropRec := [] }
    mems := s.mems.mapAll fun (u : MemUnit) => { u with dropRec := false }
    pins := { s.pins with syncRec := false }
    mf := { s.mf with leaked := [], bridgeCrc := [], rebuild := s.mf.rebuild || s.mf.mapDiverged } }

/-- The TSC reaches the next tick whose low 11 bits are zero. -/
def State.nextBeat (s : State) : State :=
  { s with time := { s.time with tsc := BitVec.ofNat 64 ((s.beatNo + 1) * 2048) } }

/-- BEAT_BOUNDARY (R30). -/
def execBeatBoundary (b : BoundaryIn) (s : State) : Res :=
  need s s.boot.pll /- the TSC does not count before the PLL locks (R388) -/ <|
  let ended := s.beatNo
  let s := s.dropLateFrames
  let late := s.lateWork
  let s := (s.nextBeat.timeBeat.lateManagement ended).beatFlags
  let s := (late.foldl (fun s e => s.lateEntry e.1 e.2.1 e.2.2) s).unsynced
  let s := (List.range 8).foldl (fun s d => (s.dieBeat d).vacateDie d) s
  let s := ((List.range 64).foldl (fun s l => s.linkBeat l) s).recomputeRoutes
  let s := (s.energyBeat b.energy).coresBeat.txBeat
  let s := s.cinchBeat b
  let s := (List.range 8).foldl (fun s p => s.partBeat b.cmdtLate p) s
  .next s.appendBatch

end Sys2Proof.Machine
end

