-- ==== Sys2Proof/Machine/Bobbin.lean ====
section
/-! DEFINITION. The bobbin engine: bgather and bmerge (R84, R169 to R181), packed tiles (R166 to R168) and
the pricking table (R176, R177). -/

namespace Sys2Proof.Machine

/-- BOB_RANGE of an instruction's destination, which a bgather with MODE = 1 meets only when its reference header is
read (R180). -/
def Iss.bobRange (x : Iss) (merge : Bool) : Bool :=
  let row := x.rowLen * 16
  let n := if merge then (if x.bMode then min x.limit 4096 else x.limit) * row else 32 * (x.nreg + 1) * row
  (merge || !x.bMode) && x.blk.spadSize < x.doff * 64 + n

/-- Accepts a bobbin instruction (R169, R174, R176, R180). -/
def Iss.acceptBob (x : Iss) (s : State) (merge : Bool) : Res :=
  let k := s.core x.core
  let base := x.grp.sreg x.base
  if base.toNat % 16 ≠ 0 then .next (x.fault s 0x0801 [(101, base.toNat % 16), (105, merge.toNat)])
  else if x.bobRange merge then .next (x.fault s 0x0802 [(101, x.doff), (115, merge.toNat)])
  else
    let pt := merge && x.bMode
    let other := match k.ptHolder with
      | some b => b != x.bslot
      | none => false
    if 4 ≤ k.bob.length || x.drainHeld s || k.tileReads x.gslot || (pt && other) then
      .next s
    else
      let job : BobJob := ⟨x.gslot, merge, x.bMode, s.normal base, x.data, x.nreg, x.doff, x.rowLen, x.limit,
        BitVec.ofNat 32 (listMask x.acting), [], false⟩
      let claim := pt && k.ptHolder.isNone
      let k := { k with
        bob := k.bob ++ [job]
        ptHolder := if claim then some x.bslot else k.ptHolder
        ptKeys := if claim then [] else k.ptKeys }
      .next (x.commit (s.setCore x.core k) x.grp)

/-- bgather (R84, R171, R172). -/
def execBgather (i : Issue) (s : State) : Res := issueRow (shBob 8) i s fun x s => x.acceptBob s false
/-- bmerge (R84, R175). -/
def execBmerge (i : Issue) (s : State) : Res := issueRow (shBob 9) i s fun x s => x.acceptBob s true

/-! ### Entries (R169, R170) -/

/-- An entry: its number, its thread, its register, its index, and its standing. -/
inductive Standing where
  | empty | out | live
  deriving DecidableEq, Repr

structure Ent where
  i : Nat
  thread : Nat
  n : Nat
  v : Nat
  st : Standing
  deriving DecidableEq, Repr

/-- Source row of an entry. -/
def BobJob.row (j : BobJob) (i v : Nat) : DWord :=
  j.base + BitVec.ofNat 64 ((if j.merge then i else v) * (j.rowLen * 16))

/-- A row of `n` bytes of which some access would fault (R231). -/
def State.rowFaults (s : State) (b : Block) (a : DWord) (n : Nat) : Bool :=
  (List.range (n / 16)).any fun q => (s.checkAccess b .other 16 (a + BitVec.ofNat 64 (16 * q))).isSome

/-- The entries of a job, in order. -/
def State.entries (s : State) (b : Block) (g : Group) (j : BobJob) : List Ent :=
  (List.range (32 * (j.nreg + 1))).map fun i =>
    let t := i % 32
    let v := (g.reg t (j.data + i / 32)).toNat
    let st : Standing :=
      if v = 0xFFFF_FFFF || !j.mask.getLsbD t then .empty
      else if !(j.merge && j.mode) && j.limit ≤ v then .out
      else if s.rowFaults b (j.row i v) (j.rowLen * 16) then .out
      else .live
    ⟨i, t, i / 32, v, st⟩

/-! ### Packed tiles (R166 to R168, R172, R173) -/

/-- A packed tile's header. -/
structure TileHdr where
  w0 : Nat
  npos : Nat
  psize : Nat
  deriving DecidableEq, Repr

def TileHdr.of (bs : List Byte) : TileHdr :=
  ⟨leNat (bs.take 4), leNat ((bs.drop 4).take 4), leNat ((bs.drop 8).take 4)⟩

def TileHdr.fmt (h : TileHdr) : Nat := h.w0 % 16
def TileHdr.b16 (h : TileHdr) : Bool := nbit h.w0 4
def TileHdr.raw (h : TileHdr) : Bool := nbit h.w0 5

/-- The 2:4 step length, 2K (R167). -/
def stepLen (fmt : Nat) : Nat := if fmt = 9 then 128 else if fmt = 1 ∨ fmt = 2 then 32 else 64

/-- Scale bytes of a row. -/
def TileHdr.scaleBytes (h : TileHdr) : Nat := if isMx h.fmt then h.npos / (if h.b16 then 16 else 32) else 0

/-- PSIZE under R167. -/
def TileHdr.sizeOf (h : TileHdr) : Nat :=
  let b := elemBits h.fmt
  if h.raw then 16 + h.npos * b / 8 + h.scaleBytes
  else 16 + h.npos / 8 + h.npos * b / 16 + h.scaleBytes

/-- What R173 asks of the header alone, beside agreement with the reference header. -/
def TileHdr.ok (h : TileHdr) (rowLen : Nat) : Bool :=
  h.w0 / 2 ^ 8 % 2 ^ 8 == 0x24 && 1 ≤ h.fmt && h.fmt ≤ 0xB && (!h.b16 || isMx h.fmt) && !nbit h.w0 7 &&
  h.w0 / 2 ^ 16 == 0 && h.psize == h.sizeOf && h.psize ≤ rowLen * 16

/-- The reference header can fix a step count: a listed format, and NPOS as R166 has it. -/
def TileHdr.usable (h : TileHdr) : Bool :=
  1 ≤ h.fmt && h.fmt ≤ 0xB && h.npos != 0 && h.npos % stepLen h.fmt == 0

/-- Bytes of the element image and of the sidecar image of a pair (R172). -/
def pairBytes (fmt : Nat) (b16 : Bool) : Nat × Nat :=
  (if fmt = 7 ∨ fmt = 8 then 768 else 1024,
   if fmt = 9 then (if b16 then 768 else 640) else if isMx fmt then 384 else if fmt ≤ 2 then 128 else 256)

/-- The kept positions of a row, two to a group, ascending; none where a group of a packed bitmap has not two. -/
def keptOf (h : TileHdr) (body : List Byte) : Option (List Nat) :=
  let w := elemBits h.fmt
  let groups := (List.range (h.npos / 4)).map fun g =>
    if h.raw then
      let k := keepTwo ((List.range 4).map fun i => match elemOf h.fmt with
        | some e => e.decode (leNat body / 2 ^ (w * (4 * g + i)) % 2 ^ w)
        | none => .nan)
      [4 * g + k.1, 4 * g + k.2]
    else (List.range 4).filterMap fun i => if nbit (leNat body) (4 * g + i) then some (4 * g + i) else none
  if groups.all fun l => l.length == 2 then some groups.flatten else none

/-- The element record and the sidecar record of a row for one step (R130, R173). -/
def stepRecord (h : TileHdr) (body : List Byte) (kept : List Nat) (st : Nat) : List Byte × List Byte :=
  let w := elemBits h.fmt
  let len := stepLen h.fmt
  let k := len / 2
  let valAt (m : Nat) : Nat :=
    if h.raw then leNat body / 2 ^ (w * kept.getD m 0) % 2 ^ w
    else leNat (body.drop (h.npos / 8)) / 2 ^ (w * m) % 2 ^ w
  let mine := (List.range k).map (· + st * k)
  let elems := mine.foldr (fun m a => valAt m + 2 ^ w * a) 0
  let idx := mine.foldr (fun m a => kept.getD m 0 % 4 + 4 * a) 0
  let per := len / (if h.b16 then 16 else 32)
  let scales := (body.drop (h.sizeOf - 16 - h.scaleBytes)).drop (st * per)
  let pb := pairBytes h.fmt h.b16
  let ib := if h.fmt = 9 then 16 else if h.fmt ≤ 2 then 4 else 8
  let sc := if isMx h.fmt then scales.take per else []
  let side := natLe ib idx ++ sc
  (natLe (pb.1 / 32) elems, side ++ List.replicate (pb.2 / 32 - side.length) 0)

/-! ### Execution -/

/-- Reports of a job's entries by thread, with their flag bits. -/
def reports (l : List (Nat × Nat)) : List (Nat × TEff) := l.map fun r => (r.1, { TEff.none with report := r.2 })

/-- The job is done: its reports land and its counters rise; LANE_LNF counts each entry that met R191. -/
def State.bobDone (s : State) (c b g : Nat) (es : List (Nat × TEff)) (flags : Nat) (counts : List (Nat × Nat)) : State :=
  let s := s.updGroup c g fun k => k.apply es
  let s := s.landReports c b es
  let met := (es.filter fun e => e.2.lnf).length
  let s := if 1 < met then s.count (.core c 5) 0x20 (met - 1) else s
  let s := if flags = 0 then s else s.orReg (.core c 4) 4 flags
  let s := counts.foldl (fun s n => s.count (.core c 4) n.1 n.2) s
  s.updCore c fun k => match k.bob with
    | j :: l => { k with bob := { j with executed := true } :: l }
    | [] => k

/-- Writes bytes to the block's scratchpad by the engine. -/
def State.bobWrite (s : State) (c b o : Nat) (v : List Byte) : State :=
  s.updBlock c b fun k => k.write 0 (.spad o v)

/-- Entries out of range: their flags and their count. -/
def outOf (es : List Ent) : List (Nat × Nat) := (es.filter fun e => e.st == .out).map fun e => (e.thread, fIRANGE)

/-- bgather with MODE = 0 (R171). -/
def State.gatherRows (s : State) (c b : Nat) (blk : Block) (j : BobJob) (es : List Ent) : State :=
  let n := j.rowLen * 16
  let s := es.foldl (fun s e => s.bobWrite c b (j.doff * 64 + e.i * n)
    (if e.st = .live then s.viewBytes blk j.far (j.row e.i e.v) n else List.replicate n 0)) s
  let outs := outOf es
  let live := (es.filter fun e => e.st == .live).length
  s.bobDone c b j.grp (reports outs) (if outs.isEmpty then 0 else 2)
    [(0x18, es.length), (0x20, live * n), (0x28, outs.length)]

/-- Bytes that the engine reads of a row whose header it has read: PSIZE, rounded up to 64, and no more than the row
(R173). -/
def tileRead (h : TileHdr) (rowLen : Nat) : Nat := max 16 (min (ceilDiv h.psize 64 * 64) (rowLen * 16))

/-- bgather with MODE = 1 (R172, R173). -/
def State.gatherTiles (s : State) (c b : Nat) (blk : Block) (j : BobJob) (es : List Ent) (ref : TileHdr) : State :=
  let pb := pairBytes ref.fmt ref.b16
  let steps := ref.npos / stepLen ref.fmt
  let hdr (e : Ent) : TileHdr := TileHdr.of (s.viewBytes blk j.far (j.row e.i e.v) 16)
  let same (h : TileHdr) : Bool := h.fmt == ref.fmt && h.b16 == ref.b16 && h.npos == ref.npos
  let body (e : Ent) : List Byte := (s.viewBytes blk j.far (j.row e.i e.v) (hdr e).psize).drop 16
  let good (e : Ent) : Option (List Nat) :=
    if e.st = .live && (hdr e).ok j.rowLen && same (hdr e) then keptOf (hdr e) (body e) else none
  let bad := (es.filter fun e => e.st == .live && (good e).isNone).map fun e => (e.thread, fBTILE)
  let bytes := ((es.filter fun e => e.st == .live).map fun e => tileRead (hdr e) j.rowLen).sum
  let t := es.foldl (fun t e =>
    (List.range steps).foldl (fun t st =>
      let at_ := j.doff * 64 + (e.n * steps + st) * (pb.1 + pb.2)
      let r := match good e with
        | some kept => stepRecord (hdr e) (body e) kept st
        | none => (List.replicate (pb.1 / 32) 0, List.replicate (pb.2 / 32) 0)
      (t.bobWrite c b (at_ + e.thread * (pb.1 / 32)) r.1).bobWrite c b (at_ + pb.1 + e.thread * (pb.2 / 32)) r.2) t) s
  let outs := outOf es
  t.bobDone c b j.grp (reports (outs ++ bad)) ((if outs.isEmpty then 0 else 2) + (if bad.isEmpty then 0 else 8))
    [(0x18, es.length), (0x20, bytes), (0x28, outs.length)]

/-- Where a bmerge has got to: the block's scratchpad, the keys, the index registers to write back, reports. -/
structure Merge where
  spad : List Host.Cell
  keys : List Word
  back : List (Nat × Nat × Word)
  rep : List (Nat × TEff)
  full : Bool
  rows : Nat
  /-- Scratchpad offsets of the slots written. -/
  slots : List Nat
  deriving DecidableEq, Repr

/-- Adds or copies one row into a slot (R175): FP32 by FP32; overflow and invalid results are reported. -/
def mergeRow (m : List Host.Cell) (o : Nat) (copy : Bool) (row : List Byte) : List Host.Cell × Nat × Bool :=
  (List.range (row.length / 4)).foldl (fun a q =>
    let v := fp32.decode (leNat ((row.drop (4 * q)).take 4))
    let old := leNat (spadRead m (o + 4 * q) 4)
    let sum := (fp32.decode old).add v
    let r := fp32.result sum.1
    let code := if copy then (if v.isNan then 0x7FC0_0000 else leNat ((row.drop (4 * q)).take 4)) else r.1
    let rep := if copy then 0 else Nat.land (Nat.lor r.2 sum.2) (fOF + fNV)
    (spadWrite a.1 (o + 4 * q) (natLe 4 code), Nat.lor a.2.1 rep, a.2.2 || lnfOf (.float fp32) code rep)) (m, 0, false)

/-- One entry of a bmerge. -/
def Merge.entry (m : Merge) (j : BobJob) (e : Ent) (row : List Byte) : Merge :=
  let n := j.rowLen * 16
  let back (m : Merge) (v : Word) : Merge :=
    if j.mode then { m with back := m.back ++ [(e.thread, j.data + e.n, v)] } else m
  let into (m : Merge) (slot : Nat) (copy : Bool) : Merge :=
    let r := mergeRow m.spad (j.doff * 64 + slot * n) copy row
    { m with
      spad := r.1, rows := m.rows + 1, slots := m.slots ++ [j.doff * 64 + slot * n]
      rep := m.rep ++ [(e.thread, { TEff.none with report := r.2.1, lnf := r.2.2 })] }
  if e.st ≠ .live then back m 0xFFFF_FFFF
  else if !j.mode then into m e.v false
  else
    let key := BitVec.ofNat 32 e.v
    match m.keys.findIdx? (· == key) with
    | some slot => back (into m slot false) (BitVec.ofNat 32 slot)
    | none =>
      let slot := m.keys.length
      if slot < j.limit ∧ slot < 4096 then
        back (into { m with keys := m.keys ++ [key] } slot true) (BitVec.ofNat 32 slot)
      else
        back { m with full := true, rep := m.rep ++ [(e.thread, { TEff.none with report := fTFULL })] } 0xFFFF_FFFF

/-- bmerge (R175, R177). -/
def State.mergeRows (s : State) (c b : Nat) (blk : Block) (j : BobJob) (es : List Ent) : State :=
  let n := j.rowLen * 16
  let m : Merge := es.foldl (fun (m : Merge) e => m.entry j e (if e.st = .live then s.viewBytes blk j.far (j.row e.i e.v) n else []))
    ⟨blk.spad, (s.core c).ptKeys, [], [], false, 0, []⟩
  let s := s.updBlock c b fun k => m.slots.foldl (fun k o => k.touch o n) { k with spad := m.spad }
  let s := s.updCore c fun k => { k with ptKeys := if j.mode then m.keys else k.ptKeys }
  let s := s.updGroup c j.grp fun g => m.back.foldl (fun g r => g.setReg r.1 r.2.1 r.2.2) g
  let outs := outOf es
  s.bobDone c b j.grp (reports outs ++ m.rep) ((if outs.isEmpty then 0 else 2) + (if m.full then 16 else 0))
    [(0x20, (es.filter fun e => e.st == .live).length * n), (0x28, outs.length), (0x38, m.rows)]

/-- BOBBIN_EXECUTE: the engine takes the first instruction of its queue (R169). Rows of other packages and of
the host are asked for first, and a row that a home holds waits (R268, R270); a poisoned line ends the grant (R266). -/
def execBobbinExecute : Reads → State → Res
  | ⟨core, v⟩, s =>
    needUnit "logical core" core 1280 <|
    match (s.core core).bob with
    | [] => .next s -- the engine's queue is empty
    | j :: _ =>
      need s (s.engineOn core j.grp) /- the core is gated (R435) -/ <|
      need s (!j.executed) /- the first instruction has been executed -/ <|
      needSome s (s.group core j.grp) /- the group has ended -/ fun g =>
      needSome s (s.block core g.bslot) /- the group has no block -/ fun blk =>
      let b := g.bslot
      let es := s.entries blk g j
      let live := es.filter fun e => e.st == .live
      let tiles := !j.merge && j.mode
      let span (e : Ent) : Nat :=
        if tiles then
          let h := TileHdr.of (s.viewBytes blk j.far (j.row e.i e.v) 16)
          if (s.viewAbsent blk j.far (j.row e.i e.v) 16).isEmpty then tileRead h j.rowLen else 16
        else j.rowLen * 16
      let held (s : State) : Option Ent := live.find? fun e => !(s.viewAbsent blk j.far (j.row e.i e.v) (span e)).isEmpty
      let fetch (s : State) : State := live.foldl (fun s e =>
        s.fetchFar core b j.grp e.thread .bob (if j.merge then 9 else 8) (s.viewAbsent blk j.far (j.row e.i e.v) (span e))) s
      if (held s).isSome then .next (fetch s)
      else
      let s := s.viewCheck blk v (live.flatMap fun e => linesAt (j.row e.i e.v) (span e))
      match live.find? fun e => s.viewPoison blk (j.row e.i e.v) (span e) with
      | some e => .next (s.memPoison core b g.gidx e.thread (j.row e.i e.v) false)
      | none =>
        if (held s).isSome then .next s
        else if j.merge then .next (s.mergeRows core b blk j es)
        else if !tiles then .next (s.gatherRows core b blk j es)
        else match live with
          | [] => .next (s.bobDone core b j.grp (reports (outOf es)) (if (outOf es).isEmpty then 0 else 2)
              [(0x28, (outOf es).length)])
          | e :: _ =>
            let ref := TileHdr.of (s.viewBytes blk j.far (j.row e.i e.v) 16)
            let pb := pairBytes ref.fmt ref.b16
            if !ref.usable then
              let bad := live.map fun e => (e.thread, fBTILE)
              .next (s.bobDone core b j.grp (reports (outOf es ++ bad)) ((if (outOf es).isEmpty then 0 else 2) + 8)
                [(0x20, (live.map fun e => tileRead (TileHdr.of (s.viewBytes blk j.far (j.row e.i e.v) 16)) j.rowLen).sum), (0x28, (outOf es).length)])
            else if blk.spadSize < j.doff * 64 + (j.nreg + 1) * (ref.npos / stepLen ref.fmt) * (pb.1 + pb.2) then
              .next (s.progFault core b g.gidx 0x0802 [(101, j.doff)])
            else .next (s.gatherTiles core b blk j es ref)

/-- BOBBIN_COMPLETE: every write of the instruction has been made; its index registers are free (R174). -/
def execBobbinComplete (core : Nat) (s : State) : Res :=
  needUnit "logical core" core 1280 <|
  match (s.core core).bob with
  | [] => .next s -- the engine's queue is empty
  | j :: rest =>
    need s (s.engineOn core j.grp) /- the core is gated (R435) -/ <|
    need s j.executed /- the first instruction has not been executed -/ <|
    let s := s.updCore core fun k => { k with bob := rest }
    .next (match s.group core j.grp with
      | some g => s.retryBarB core g.bslot
      | none => s)

end Sys2Proof.Machine
end

