-- ==== Sys2Proof/Machine/Matrix.lean ====
section
/-! DEFINITION. The matrix engine (chapter 06) and its accumulators (chapter 07): staging, the array's steps,
the tile sequencer and drains. -/

namespace Sys2Proof.Machine

/-! ### Fragments (R117 to R119, R130) -/

/-- Bytes of `n` registers of a thread. -/
def Group.regBytes (g : Group) (t r n : Nat) : List Byte :=
  (List.range n).flatMap fun i => natLe 4 (g.reg t (r + i)).toNat

/-- The fragment that a group's registers hold from a base on. -/
def Group.frag (g : Group) (l : FragLayout) (base : Nat) : Frag :=
  let each (o n : Nat) : List (List Byte) := (List.range 32).map fun t => g.regBytes t (base + o) n
  ⟨each 0 l.el, each l.idxAt l.idx, each l.scAt l.sc⟩

/-- Bytes of an element image and of a sidecar image (R130). -/
def FragLayout.image (l : FragLayout) : Nat := 32 * 4 * l.el
def FragLayout.sidecar (l : FragLayout) : Nat := 32 * 4 * (l.idx + l.sc)

/-- The fragment that the images at two scratchpad offsets hold. -/
def Block.frag (b : Block) (l : FragLayout) (at_ side : Nat) : Frag :=
  let rec_ (t : Nat) : List Byte := spadRead b.spad (side + t * 4 * (l.idx + l.sc)) (4 * (l.idx + l.sc))
  ⟨(List.range 32).map fun t => spadRead b.spad (at_ + t * 4 * l.el) (4 * l.el),
   (List.range 32).map fun t => (rec_ t).take (4 * l.idx),
   (List.range 32).map fun t => (rec_ t).drop (4 * l.idx)⟩

/-- Element `n` of a packed byte string (R96). -/
def packedAt (bs : List Byte) (w n : Nat) : Nat := leNat bs / 2 ^ (w * n) % 2 ^ w

/-- The value of an E8M0 scale (R98). -/
def scaleVal (e : Nat) : FVal := if e = 0xFF then .nan else .fin false 1 ((e : Int) - 127)

/-- The value times a power of two; NaN scales make NaN (R98). -/
def FVal.scaled (v s : FVal) : FVal :=
  match v, s with
  | .fin n m e, .fin _ _ k => .fin n m (e + k)
  | .inf n, .fin _ _ _ => .inf n
  | _, _ => .nan

/-- Element `n` of a thread's operand, which stands at dense position `pos` (R119). -/
def Frag.val (f : Frag) (fmt : Nat) (b16 : Bool) (t n pos : Nat) : FVal :=
  let code := packedAt (f.elems.getD t []) (elemBits fmt) n
  let v := match elemOf fmt with
    | some k => k.decode code
    | none => .nan
  if isMx fmt then v.scaled (scaleVal ((f.scales.getD t []).getD (pos / (if b16 then 16 else 32)) 0).toNat) else v

/-- Index of a kept value in its group (R119, R157). -/
def Frag.index (f : Frag) (t m : Nat) : Nat := packedAt (f.idx.getD t []) 2 m

/-! ### Steps (R115, R144 to R147, R163 to R165) -/

/-- Dense positions per row slice (R116). -/
def slice (fmt : Nat) : Nat :=
  match fmt with
  | 0x9 => 8
  | 0x1 | 0x2 => 2
  | 0x0 => 1
  | _ => 4

/-- The exact product of two operands; none where one is NaN or infinite (R146). -/
def prod (a b : FVal) : Option FVal :=
  match a, b with
  | .fin n m e, .fin k l d => some (.fin (n != k) (m * l) (e + d))
  | _, _ => none

/-- The products of a cell in one step: A of thread `ta`, B of thread `tb`, step `st` of the operand. The
second kept value of a group with equal indices contributes +0 (R164). -/
def stepProducts (x : Staged) (a b : Frag) (ta tb st : Nat) : List (Option FVal) :=
  let p := slice x.fmta
  (List.range p).map fun k =>
    let m := st * p + k
    if x.s24 then
      if m % 2 = 1 ∧ b.index tb m = b.index tb (m - 1) then some (.fin false 0 0)
      else
        let pos := 4 * (m / 2) + b.index tb m
        prod (a.val x.fmta x.b16 ta pos pos) (b.val x.fmtb x.b16 tb m pos)
    else prod (a.val x.fmta x.b16 ta m m) (b.val x.fmtb x.b16 tb m m)

/-- What a cell holds and the conditions that it has met. -/
structure Cell where
  acc : Word
  sat : Bool
  nf : Bool
  deriving DecidableEq, Repr

/-- The exact sum of products (R144); −0 is the sum of nothing. -/
def exactSum (ps : List FVal) : FVal := ps.foldl (fun a p => (a.add p).1) (.fin true 0 0)

/-- One step of an FP32 accumulator (R144 to R146). -/
def Cell.stepF (c : Cell) (zero : Bool) (ps : List (Option FVal)) : Cell :=
  if ps.any Option.isNone then ⟨0x7FC0_0000, c.sat, true⟩
  else
    let sum := exactSum (ps.filterMap id)
    let r := convert (.float fp32) .even false true (if zero then sum else ((fp32.decode c.acc.toNat).add sum).1)
    ⟨BitVec.ofNat 32 r.1, c.sat || nbit r.2 2, c.nf⟩

/-- The integer that an exact value of integer operands is. -/
def FVal.toInt : FVal → Int
  | .fin n m e => let v : Int := (m * 2 ^ e.toNat : Nat)
    if n then -v else v
  | _ => 0

/-- One step of an integer accumulator (R143, R145). -/
def Cell.stepI (c : Cell) (zero : Bool) (ps : List (Option FVal)) : Cell :=
  let sum := (ps.filterMap id).foldl (fun a p => a + p.toInt) 0
  let v := if zero then sum else toSigned 32 c.acc.toNat + sum
  if v < -(2 ^ 31) then ⟨0x8000_0000, true, c.nf⟩
  else if (2 ^ 31 : Int) ≤ v then ⟨0x7FFF_FFFF, true, c.nf⟩
  else ⟨BitVec.ofInt 32 v, c.sat, c.nf⟩

/-- The steps of a cell: (A thread, B thread, step of the operand) in order. -/
def Cell.run (x : Staged) (int zero : Bool) (a b : Frag) (c : Cell) : List (Nat × Nat × Nat) → Cell
  | [] => c
  | (ta, tb, st) :: l =>
    let ps := stepProducts x a b ta tb st
    Cell.run x int false a b (if int then c.stepI zero ps else c.stepF zero ps) l

/-- Quadrant of a cell (R134). -/
def quadOf (i j : Nat) : Nat := 2 * (i / 16) + j / 16

/-- Steps of cell (i, j) for an instruction of the whole array: 8 of them. -/
def fullSteps (i j : Nat) : List (Nat × Nat × Nat) := (List.range 8).map fun st => (i, j, st)

/-- Steps of cell (i, j) for an mma.q: the 8 of each half (R134). -/
def quadSteps (i j : Nat) : List (Nat × Nat × Nat) :=
  (List.range 16).map fun n => (i % 16 + 16 * (n / 8), j % 16 + 16 * (n / 8), n % 8)

/-- Runs one instruction, or one step of mma.s or smma, on a set. `quad` limits it to a quadrant; the cells of the others
keep their bits, also where the kind of the set changes (R134, R143, notes/assumptions/15). -/
def AccSet.run (k : AccSet) (x : Staged) (quad : Option Nat) (a b : Frag) : AccSet :=
  let int := x.fmta == 0xB
  let other := k.int != int && !k.acc.isEmpty
  let zero := x.zero || other
  let inQ (i j : Nat) : Bool := match quad with
    | none => true
    | some q => quadOf i j == q
  let cells := (List.range 1024).map fun n =>
    let i := n / 32
    let j := n % 32
    let old := k.acc.get n 0
    if inQ i j then
      Cell.run x int zero a b ⟨old, false, false⟩ (if quad.isSome then quadSteps i j else fullSteps i j)
    else ⟨old, false, false⟩
  let clear (f : BitVec 4) : BitVec 4 := if !zero then f else match quad with
    | none => 0
    | some q => f &&& ~~~(BitVec.ofNat 4 (2 ^ q))
  let set (f : BitVec 4) (c : Cell → Bool) : BitVec 4 :=
    f ||| BitVec.ofNat 4 (listMask ((List.range 1024).filterMap fun n =>
      if (cells[n]?.map c).getD false then some (quadOf (n / 32) (n % 32)) else none))
  { k with int := int, acc := (List.range 1024).zip (cells.map (·.acc)), sat := set (clear k.sat) (·.sat), nf := set (clear k.nf) (·.nf) }

/-- Kept values that R164 replaces in an instruction's B operand: those of the threads and steps it reads. -/
def dupCount (x : Staged) (b : Frag) : Nat :=
  if !x.s24 then 0
  else ((List.range 32).map fun t =>
    ((List.range (4 * slice x.fmta)).filter fun g => b.index t (2 * g) == b.index t (2 * g + 1)).length).sum

/-! ### Acceptance (R81, R82, R120 to R124, R140) -/

namespace Iss

/-- The staged form of a matrix instruction. -/
def staged (x : Iss) (k : MxKind) (a b : Option Frag) : Staged :=
  ⟨k, x.gslot, x.mSet, x.fmtA, x.fmtB, x.mZero, x.mB16, x.mS24, a, b, .regs 0⟩

end Iss

/-- What R121 and R122 say of a set that a group names. -/
inductive SetUse where
  | held | claim | wait
  /-- MATRIX_SET, with the holder's group slot. -/
  | bad (holder : Nat)
  deriving DecidableEq, Repr

def Core.accSet (k : Core) (n : Nat) : AccSet := k.sets.get n AccSet.fresh

def Core.setUse (k : Core) (g n : Nat) : SetUse :=
  let a := k.accSet n
  let o := k.accSet (1 - n)
  match a.holder with
  | none => .claim
  | some h =>
    if h = g then (if a.releasing then .wait else .held)
    else if o.holder = some g ∧ !o.releasing then .bad h
    else .wait

/-- The set as its holder finds it on acceptance: a claim clears it (R121, R147). -/
def Core.claimSet (k : Core) (g n : Nat) : Core :=
  match (k.accSet n).holder with
  | some _ => k
  | none => { k with sets := k.sets.put n { AccSet.fresh with holder := some g } }

/-- MATRIX_DIVERGED and MATRIX_SET records (R141). -/
def Iss.diverged (x : Iss) (s : State) : State :=
  x.fault s 0x0601 [(101, x.path.length), (107, x.opc % 8)]
def Iss.setFault (x : Iss) (s : State) (h : Nat) : State := x.fault s 0x0602 [(101, x.mSet), (102, h)]

/-- Accepts a matrix instruction that names a set: the checks of R140 up to `more`, the waits of R121 and
R124, whose core cycles `MMX_WAIT` counts, then the staging. -/
def Iss.acceptMx (x : Iss) (s : State) (whole : Bool) (more : Option State) (st : Staged) : Res :=
  let k := s.core x.core
  if whole && x.path.length < 32 then .next (x.diverged s)
  else match k.setUse x.gslot x.mSet with
    | .bad h => .next (x.setFault s h)
    | u => match more with
      | some t => .next t
      | none =>
        if u == .wait || k.staged.isSome then .next (s.countSome (.core x.core 2) 0x28)
        else
          let s := s.updCore x.core fun k => { k.claimSet x.gslot x.mSet with staged := some st }
          .next (x.commit s x.grp)

/-- mma.t (R116, R117, R124). -/
def execMmaT (i : Issue) (s : State) : Res :=
  issueRow (shMma 0 false) i s fun x s =>
    x.acceptMx s true none (x.staged .t (some (x.grp.frag x.layA x.mA)) (some (x.grp.frag x.layB x.mB)))

/-- mma.q (R134). -/
def execMmaQ (i : Issue) (s : State) : Res :=
  issueRow (shMma 2 true) i s fun x s =>
    x.acceptMx s true none (x.staged (.q x.quad) (some (x.grp.frag x.layA x.mA)) (some (x.grp.frag x.layB x.mB)))

/-- Bobbin work of the group holds its scratchpad-fed matrix instructions (R174). -/
def Iss.bobHeld (x : Iss) (s : State) : Bool := (s.core x.core).bob.any fun j => j.grp == x.gslot

/-- mma.s (R129, R140): its step table must lie in the scratchpad. -/
def execMmaS (i : Issue) (s : State) : Res :=
  issueRow shMmaS i s fun x s =>
    let tbl := x.ext 11 0 * 256
    let n := x.ext 19 12 + 1
    let more := if x.blk.spadSize < tbl + 8 * n then some (x.fault s 0x0604 []) else none
    if x.bobHeld s then .next s
    else x.acceptMx s false more (x.staged (.s tbl n 0) none none)

/-- An smma's image of an operand lies in the scratchpad: elements, and the sidecar 1,024 bytes on (R137). -/
def Block.smmaOk (b : Block) (l : FragLayout) (o : Nat) : Bool :=
  o + l.image ≤ b.spadSize && (l.sidecar == 0 || o + 1024 + l.sidecar ≤ b.spadSize)

/-- smma (R137, R138): one request for each acting thread; with none it does nothing and claims nothing. -/
def execSmma (i : Issue) (s : State) : Res :=
  issueRow shSmma i s fun x s =>
    let reqs := x.acting.map fun t => (t, (x.grp.reg t x.mA).toNat, (x.grp.reg t x.mB).toNat)
    if x.bobHeld s then .next s
    else if reqs.isEmpty then .next (x.commit s x.grp)
    else
      let align := reqs.findSome? fun r =>
        if r.2.1 % 64 ≠ 0 then some (r.1, r.2.1) else if r.2.2 % 64 ≠ 0 then some (r.1, r.2.2) else none
      let range := reqs.find? fun r => !(x.blk.smmaOk x.layA r.2.1 && x.blk.smmaOk x.layB r.2.2)
      let more := match align, range with
        | some a, _ => some (x.fault s 0x0603 [(101, a.2 % 64), (107, a.1)])
        | none, some r => some (x.fault s 0x0604 [(110, r.1)])
        | none, none => none
      x.acceptMx s false more (x.staged (.sm reqs) none none)

/-! ### The array and the tile sequencer -/

/-- ARRAY_TAKE: the array takes what is staged, once its operands are there, and runs its steps (R125, R131,
R136). -/
def execArrayTake (core : Nat) (s : State) : Res :=
  needUnit "logical core" core 1280 <|
  needSome s (s.core core).staged /- the staging buffer is empty -/ fun x =>
  need s (s.engineOn core x.grp) /- the core is gated (R435) -/ <|
  needSome s x.a /- the operands are not there (R131) -/ fun a =>
  needSome s x.b /- the operands are not there (R131) -/ fun b =>
  let quad := match x.kind with
    | .q n => some n
    | _ => none
  let k := s.core core
  let set := (k.accSet x.set).run x quad a b
  let rest : Option Staged := match x.kind with
    | .s tbl m next => if next + 1 < m then
        some { x with kind := .s tbl m (next + 1), zero := false, a := none, b := none } else none
    | .sm (_ :: r) => if r.isEmpty then none else some { x with kind := .sm r, zero := false, a := none, b := none }
    | _ => none
  let s := s.setCore core { k with sets := k.sets.put x.set set, staged := rest }
  let s := if quad.isSome then s.count (.core core 2) 0x18 16 else s.count (.core core 2) 0x10 8
  let dups := dupCount x b
  .next (if dups = 0 then s else (s.orReg (.core core 4) 4 4).count (.core core 4) 0x30 dups)

/-- The images of the next step of an mma.s, or its fault: STEP_TABLE or MATRIX_RANGE (R129, R140). -/
def stepImages (b : Block) (x : Staged) (tbl next : Nat) : Sum Nat (Frag × Frag) :=
  let e := leNat (spadRead b.spad (tbl + 8 * next) 8)
  let la := fragLayout false x.fmta x.s24 x.b16
  let lb := fragLayout true x.fmtb x.s24 x.b16
  let at_ (i : Nat) : Nat := e / 2 ^ (14 * i) % 2 ^ 14 * 64
  if e / 2 ^ 56 ≠ 0 ∨ (la.sidecar = 0 ∧ at_ 2 ≠ 0) ∨ (lb.sidecar = 0 ∧ at_ 3 ≠ 0) then .inl 0x0605
  else if b.spadSize < at_ 0 + la.image ∨ b.spadSize < at_ 1 + lb.image ∨
      (la.sidecar ≠ 0 ∧ b.spadSize < at_ 2 + la.sidecar) ∨ (lb.sidecar ≠ 0 ∧ b.spadSize < at_ 3 + lb.sidecar) then
    .inl 0x0604
  else .inr (b.frag la (at_ 0) (at_ 2), b.frag lb (at_ 1) (at_ 3))

/-- TILE_SEQUENCER_READ: the images of the next step are read from the scratchpad (R131, R137). -/
def execTileSequencerRead (core : Nat) (s : State) : Res :=
  needUnit "logical core" core 1280 <|
  needSome s (s.core core).staged /- the staging buffer is empty -/ fun x =>
  need s (s.engineOn core x.grp) /- the core is gated (R435) -/ <|
  need s x.a.isNone /- the next step's images have been read -/ <|
  needSome s (s.blockOfGroup core x.grp) /- the group has no block -/ fun e =>
  let load (f : Frag × Frag) : State :=
    (s.updCore core fun k => { k with staged := some { x with a := some f.1, b := some f.2 } }).retryBarB core e.1
  match x.kind with
  | .s tbl _ next => match stepImages e.2 x tbl next with
    | .inl code =>
      let gidx := match s.group core x.grp with
        | some g => g.gidx
        | none => 0
      .next (s.progFault core e.1 gidx code [(101, next)])
    | .inr f => .next (load f)
  | .sm ((_, oa, ob) :: _) =>
    let la := fragLayout false x.fmta false false
    let lb := fragLayout true x.fmtb false false
    .next (load (e.2.frag la oa (oa + 1024), e.2.frag lb ob (ob + 1024)))
  | _ => .next s -- no scratchpad-fed instruction is staged

/-! ### Drains (R122, R126 to R128, R147, R148) -/

/-- Bytes of a drain's region. -/
def drainBytes (fmt : Nat) : Nat := if fmt = 0 then 4096 else 2048

/-- Address or offset of an ext-form drain: s[base] + offset, or the offset alone. -/
def Iss.drainAddr (x : Iss) : DWord :=
  (if x.ext 32 32 = 1 then 0 else x.grp.sreg (x.f 45 40)) + sext64 32 (x.ext 31 0)

/-- The first line of a drain's region that a check of R231 refuses. -/
def Iss.drainCheck (x : Iss) (s : State) : Option (Nat × Nat × Nat) :=
  firstFault ((List.range (drainBytes x.fmtA / 64)).map fun i =>
    (i, s.checkAccess x.blk .other 64 (x.drainAddr + BitVec.ofNat 64 (64 * i))))


/-- Where a drain goes. -/
def Iss.drainDest (x : Iss) (s : State) : DrainDest :=
  if x.form = 0 then .regs x.mD
  else if x.ext 32 32 = 1 then .spad x.drainAddr.toNat
  else .mem (s.normal x.drainAddr)

/-- Tag of what a drain to registers owes. -/
def drainTag (set : Nat) : Nat := 200 + set

/-- The registers of every thread wait for a drain (R49). -/
def Group.awaitDrain (g : Group) (set base n : Nat) : Group := g.await (drainTag set) (BitVec.allOnes 32) base n

/-- mma.drain: accepted by the drain path while its output buffer is empty; the set is releasing from then on
(R124, R126, R140). -/
def execMmaDrain (i : Issue) (s : State) : Res :=
  issueRow shDrain i s fun x s =>
    let k := s.core x.core
    let a := k.accSet x.mSet
    let spad := x.form == 2 && x.ext 32 32 == 1
    if x.path.length < 32 then .next (x.diverged s)
    else if a.holder ≠ some x.gslot ∨ a.releasing then .next (x.setFault s (a.holder.getD 0))
    else if x.form = 2 ∧ x.drainAddr.toNat % 64 ≠ 0 then .next (x.fault s 0x0603 [(101, x.drainAddr.toNat % 64)])
    else if spad ∧ x.blk.spadSize < x.drainAddr.toNat + drainBytes x.fmtA then .next (x.fault s 0x0604 [])
    else match (if x.form = 2 && !spad then x.drainCheck s else none) with
      | some f =>
        .next (s.memFault x.core x.bslot x.grp.gidx 0 f.2.1 f.2.2 x.opc 2 (x.drainAddr + BitVec.ofNat 64 (64 * f.1)))
      | none =>
        if k.staged.isSome || (k.drains.any fun d => d.vals.isSome) || (spad && x.spadHeld s true) then .next s
        else
          let g := if x.form = 0 then x.grp.awaitDrain x.mSet x.mD (if x.fmtA = 0 then 32 else 16) else x.grp
          let k := { k with
            sets := k.sets.put x.mSet { a with releasing := true }
            drains := k.drains ++ [⟨x.gslot, x.mSet, x.fmtA, x.drainDest s, none, false, false, false⟩] }
          .next (x.commit (s.setCore x.core k) g)

/-- DRAIN_READ: the drain path reads the set of its oldest drain and releases it (R122, R126). -/
def execDrainRead (core : Nat) (s : State) : Res :=
  needUnit "logical core" core 1280 <|
  let k := s.core core
  needSome s k.drains.head? /- the drain path holds no drain -/ fun d =>
  need s (s.engineOn core d.grp) /- the core is gated (R435) -/ <|
  need s d.vals.isNone /- the set has been read -/ <|
  let a := k.accSet d.set
  let vals := (List.range 1024).map fun n => a.acc.get n 0
  .next ((s.setCore core { k with
    sets := k.sets.put d.set AccSet.fresh
    drains := { d with vals := some vals, int := a.int, sat := a.sat != 0, nf := a.nf != 0 } :: k.drains.drop 1 }).count
      (.core core 2) 0x20 1)

/-- A value of the result format and whether its conversion turned a finite value into an infinity (R127). -/
def drainValue (fmt : Nat) (int : Bool) (w : Word) : Nat × Bool :=
  let f := if fmt = 0 then fp32 else if fmt = 1 then bf16 else fp16
  let v := if int then FVal.ofInt (toSigned 32 w.toNat) 0 else fp32.decode w.toNat
  let r := convert (.float f) .even false false v
  (r.1, v.isFin && nbit r.2 2)

/-- The image of a drain, row-major (R127). -/
def Drain.image (d : Drain) (vals : List Word) : List Byte :=
  vals.flatMap fun w => natLe (if d.fmt = 0 then 4 else 2) (drainValue d.fmt d.int w).1

/-- A drain's flags reach the block, the group's threads that have not exited and the core (R148, R188). -/
def State.drainFlags (s : State) (core b : Nat) (d : Drain) (dovf : Bool) : State :=
  let sat := d.sat || dovf
  let rep := (if sat then fASAT else 0) + (if d.nf then fANF else 0)
  let live := match s.group core d.grp with
    | some g => g.alive
    | none => []
  let es := live.map fun t => (t, ({ TEff.none with report := rep } : TEff))
  let s := s.updGroup core d.grp fun g => g.apply es
  let s := s.landReports core b es
  let s := s.updBlock core b fun k => { k with accSat := k.accSat || sat, accNf := k.accNf || d.nf }
  let bits := sat.toNat + 2 * d.nf.toNat + 4 * dovf.toNat
  let s := if bits = 0 then s else s.orReg (.core core 3) 0 bits
  let s := if sat then s.count (.core core 3) 0x18 1 else s
  if d.nf then s.count (.core core 3) 0x20 1 else s

/-- DRAIN_OUTPUT: the converted values reach registers, the scratchpad or the store path, with the flags
(R127, R128, R148). -/
def execDrainOutput (core : Nat) (s : State) : Res :=
  needUnit "logical core" core 1280 <|
  needSome s (s.core core).drains.head? /- the drain path holds no drain -/ fun d =>
  need s (s.engineOn core d.grp) /- the core is gated (R435) -/ <|
  needSome s d.vals /- the set has not been read -/ fun vals =>
  needSome s (s.blockOfGroup core d.grp) /- the group has no block -/ fun e =>
  let dovf := vals.any fun w => (drainValue d.fmt d.int w).2
  let img := d.image vals
  let done (s : State) : State :=
    ((s.updCore core fun k => { k with drains := k.drains.drop 1 }).drainFlags core e.1 d dovf).retryBarB core e.1
  match d.dest with
  | .regs base =>
    let n := if d.fmt = 0 then 32 else 16
    let row (t j : Nat) : Word := BitVec.ofNat 32 (leNat ((img.drop (4 * (n * t + j))).take 4))
    let put (g : Group) : Group :=
      ((List.range 32).foldl (fun g t => (List.range n).foldl (fun g j => g.pay (drainTag d.set) t (base + j) (row t j)) g) g).paid
        (drainTag d.set)
    .next (done (s.updGroup core d.grp put))
  | .spad o => .next (done ((s.stage core e.1 0 [.spad o img]).getD s))
  | .mem a => match s.stage core e.1 0 [.glob a img] with
    | some t => .next (done t)
    | none => .next s

end Sys2Proof.Machine
end

