-- ==== Sys2Proof/Machine/Dispatch.lean ====
section
/-! DEFINITION. One arm per command, in the order of spec/opcode_table.json. -/

namespace Sys2Proof.Machine

def exec (i : Instr) (s : State) : Host.Outcome State Fault Refusal :=
  match i with
  | .beatBoundary b => Sys2Proof.Machine.execBeatBoundary b s
  | .ovfClear path addr => Sys2Proof.Machine.execOvfClear path addr s
  | .eventRecord x => Sys2Proof.Machine.execEventRecord x s
  | .evlogSel path hub val => Sys2Proof.Machine.execEvlogSel path hub val s
  | .lowWordRead path addr => Sys2Proof.Machine.execLowWordRead path addr s
  | .registerWrite path addr val => Sys2Proof.Machine.execRegisterWrite path addr val s
  | .pkgId path val => Sys2Proof.Machine.execPkgId path val s
  | .blockAdmission part core => Sys2Proof.Machine.execBlockAdmission part core s
  | .clusterStart core slot => Sys2Proof.Machine.execClusterStart core slot s
  | .starvationGuard core grp => Sys2Proof.Machine.execStarvationGuard core grp s
  | .barrierTimeout core wd => Sys2Proof.Machine.execBarrierTimeout core wd s
  | .blockStopRelease core slot => Sys2Proof.Machine.execBlockStopRelease core slot s
  | .laneMov x => Sys2Proof.Machine.execLaneMov x s
  | .laneAdd x => Sys2Proof.Machine.execLaneAdd x s
  | .laneSub x => Sys2Proof.Machine.execLaneSub x s
  | .laneMul x => Sys2Proof.Machine.execLaneMul x s
  | .laneFma x => Sys2Proof.Machine.execLaneFma x s
  | .laneFms x => Sys2Proof.Machine.execLaneFms x s
  | .laneMin x => Sys2Proof.Machine.execLaneMin x s
  | .laneMax x => Sys2Proof.Machine.execLaneMax x s
  | .laneAbs x => Sys2Proof.Machine.execLaneAbs x s
  | .laneNeg x => Sys2Proof.Machine.execLaneNeg x s
  | .laneCmp x => Sys2Proof.Machine.execLaneCmp x s
  | .laneSel x => Sys2Proof.Machine.execLaneSel x s
  | .laneCvt x => Sys2Proof.Machine.execLaneCvt x s
  | .laneCvtMx x => Sys2Proof.Machine.execLaneCvtMx x s
  | .lanePack x => Sys2Proof.Machine.execLanePack x s
  | .laneUnpack x => Sys2Proof.Machine.execLaneUnpack x s
  | .laneIadd x => Sys2Proof.Machine.execLaneIadd x s
  | .laneIsub x => Sys2Proof.Machine.execLaneIsub x s
  | .laneImul x => Sys2Proof.Machine.execLaneImul x s
  | .laneImin x => Sys2Proof.Machine.execLaneImin x s
  | .laneImax x => Sys2Proof.Machine.execLaneImax x s
  | .laneIcmp x => Sys2Proof.Machine.execLaneIcmp x s
  | .laneAnd x => Sys2Proof.Machine.execLaneAnd x s
  | .laneOr x => Sys2Proof.Machine.execLaneOr x s
  | .laneXor x => Sys2Proof.Machine.execLaneXor x s
  | .laneNot x => Sys2Proof.Machine.execLaneNot x s
  | .laneShl x => Sys2Proof.Machine.execLaneShl x s
  | .laneShr x => Sys2Proof.Machine.execLaneShr x s
  | .laneSar x => Sys2Proof.Machine.execLaneSar x s
  | .lanePopc x => Sys2Proof.Machine.execLanePopc x s
  | .laneClz x => Sys2Proof.Machine.execLaneClz x s
  | .laneRcp x => Sys2Proof.Machine.execLaneRcp x s
  | .laneRsqrt x => Sys2Proof.Machine.execLaneRsqrt x s
  | .laneSqrt x => Sys2Proof.Machine.execLaneSqrt x s
  | .laneExp2 x => Sys2Proof.Machine.execLaneExp2 x s
  | .laneLog2 x => Sys2Proof.Machine.execLaneLog2 x s
  | .laneDiv x => Sys2Proof.Machine.execLaneDiv x s
  | .laneShfl x => Sys2Proof.Machine.execLaneShfl x s
  | .laneVote x => Sys2Proof.Machine.execLaneVote x s
  | .laneRed x => Sys2Proof.Machine.execLaneRed x s
  | .laneFlag x => Sys2Proof.Machine.execLaneFlag x s
  | .laneRng x => Sys2Proof.Machine.execLaneRng x s
  | .laneCmp24 x => Sys2Proof.Machine.execLaneCmp24 x s
  | .lanePick x => Sys2Proof.Machine.execLanePick x s
  | .scalarMov x => Sys2Proof.Machine.execScalarMov x s
  | .scalarAdd x => Sys2Proof.Machine.execScalarAdd x s
  | .scalarSub x => Sys2Proof.Machine.execScalarSub x s
  | .scalarMul x => Sys2Proof.Machine.execScalarMul x s
  | .scalarAnd x => Sys2Proof.Machine.execScalarAnd x s
  | .scalarOr x => Sys2Proof.Machine.execScalarOr x s
  | .scalarXor x => Sys2Proof.Machine.execScalarXor x s
  | .scalarShl x => Sys2Proof.Machine.execScalarShl x s
  | .scalarShr x => Sys2Proof.Machine.execScalarShr x s
  | .scalarSar x => Sys2Proof.Machine.execScalarSar x s
  | .scalarMin x => Sys2Proof.Machine.execScalarMin x s
  | .scalarMax x => Sys2Proof.Machine.execScalarMax x s
  | .scalarUmin x => Sys2Proof.Machine.execScalarUmin x s
  | .scalarUmax x => Sys2Proof.Machine.execScalarUmax x s
  | .scalarCmp x => Sys2Proof.Machine.execScalarCmp x s
  | .scalarFma x => Sys2Proof.Machine.execScalarFma x s
  | .scalarCvt x => Sys2Proof.Machine.execScalarCvt x s
  | .rdlane x => Sys2Proof.Machine.execRdlane x s
  | .wrlane x => Sys2Proof.Machine.execWrlane x s
  | .mmaT x => Sys2Proof.Machine.execMmaT x s
  | .mmaS x => Sys2Proof.Machine.execMmaS x s
  | .mmaQ x => Sys2Proof.Machine.execMmaQ x s
  | .smma x => Sys2Proof.Machine.execSmma x s
  | .mmaDrain x => Sys2Proof.Machine.execMmaDrain x s
  | .arrayTake core => Sys2Proof.Machine.execArrayTake core s
  | .tileSequencerRead core => Sys2Proof.Machine.execTileSequencerRead core s
  | .drainRead core => Sys2Proof.Machine.execDrainRead core s
  | .drainOutput core => Sys2Proof.Machine.execDrainOutput core s
  | .ld x => Sys2Proof.Machine.execLd x s
  | .st x => Sys2Proof.Machine.execSt x s
  | .ldAcq x => Sys2Proof.Machine.execLdAcq x s
  | .stRel x => Sys2Proof.Machine.execStRel x s
  | .atom x => Sys2Proof.Machine.execAtom x s
  | .ldS x => Sys2Proof.Machine.execLdS x s
  | .prefetch x => Sys2Proof.Machine.execPrefetch x s
  | .bgather x => Sys2Proof.Machine.execBgather x s
  | .bmerge x => Sys2Proof.Machine.execBmerge x s
  | .dmaCp x => Sys2Proof.Machine.execDmaCp x s
  | .dmaFill x => Sys2Proof.Machine.execDmaFill x s
  | .dmaWait x => Sys2Proof.Machine.execDmaWait x s
  | .dmaPoll x => Sys2Proof.Machine.execDmaPoll x s
  | .nop x => Sys2Proof.Machine.execNop x s
  | .bra x => Sys2Proof.Machine.execBra x s
  | .jmp x => Sys2Proof.Machine.execJmp x s
  | .call x => Sys2Proof.Machine.execCall x s
  | .exit x => Sys2Proof.Machine.execExit x s
  | .barG x => Sys2Proof.Machine.execBarG x s
  | .barB x => Sys2Proof.Machine.execBarB x s
  | .fence x => Sys2Proof.Machine.execFence x s
  | .tsc x tick => Sys2Proof.Machine.execTsc x tick s
  | .beat x => Sys2Proof.Machine.execBeat x s
  | .wbeat x => Sys2Proof.Machine.execWbeat x s
  | .wbeatRelease core grp pc => Sys2Proof.Machine.execWbeatRelease core grp pc s
  | .trap x => Sys2Proof.Machine.execTrap x s
  | .rdpc x => Sys2Proof.Machine.execRdpc x s
  | .bobbinExecute x => Sys2Proof.Machine.execBobbinExecute x s
  | .bobbinComplete core => Sys2Proof.Machine.execBobbinComplete core s
  | .readRequest src ecc => Sys2Proof.Machine.execReadRequest src ecc s
  | .lineWrite src ecc => Sys2Proof.Machine.execLineWrite src ecc s
  | .atomic src ecc => Sys2Proof.Machine.execAtomic src ecc s
  | .readResponse core entry parityOk => Sys2Proof.Machine.execReadResponse core entry parityOk s
  | .writeAcknowledgement x => Sys2Proof.Machine.execWriteAcknowledgement x s
  | .atomicResponse core x => Sys2Proof.Machine.execAtomicResponse core x s
  | .refusal core x => Sys2Proof.Machine.execRefusal core x s
  | .memRetrainDone stack ok => Sys2Proof.Machine.execMemRetrainDone stack ok s
  | .dmaTransfer core x => Sys2Proof.Machine.execDmaTransfer core x s
  | .dmaComplete core d => Sys2Proof.Machine.execDmaComplete core d s
  | .amapRcInval path core val => Sys2Proof.Machine.execAmapRcInval path core val s
  | .amapFaultClear path core val => Sys2Proof.Machine.execAmapFaultClear path core val s
  | .ageSeam core slot => Sys2Proof.Machine.execAgeSeam core slot s
  | .seamBegin core slot => Sys2Proof.Machine.execSeamBegin core slot s
  | .seamQuiesced core slot => Sys2Proof.Machine.execSeamQuiesced core slot s
  | .seamLogged core slot => Sys2Proof.Machine.execSeamLogged core slot s
  | .seamCommitted core slot => Sys2Proof.Machine.execSeamCommitted core slot s
  | .seamApplied core slot => Sys2Proof.Machine.execSeamApplied core slot s
  | .clusterCommit core slot => Sys2Proof.Machine.execClusterCommit core slot s
  | .atomAfterSeam core slot => Sys2Proof.Machine.execAtomAfterSeam core slot s
  | .finalCommit core slot => Sys2Proof.Machine.execFinalCommit core slot s
  | .finalCommitComplete core slot => Sys2Proof.Machine.execFinalCommitComplete core slot s
  | .coreHardwareFault die phys cls => Sys2Proof.Machine.execCoreHardwareFault die phys cls s
  | .frontEndStall core => Sys2Proof.Machine.execFrontEndStall core s
  | .retirementDecision checkFails => Sys2Proof.Machine.execRetirementDecision checkFails s
  | .blockReplay core x => Sys2Proof.Machine.execBlockReplay core x s
  | .blockMoved core x host => Sys2Proof.Machine.execBlockMoved core x host s
  | .completionRecord part => Sys2Proof.Machine.execCompletionRecord part s
  | .patrolScrub mem ecc => Sys2Proof.Machine.execPatrolScrub mem ecc s
  | .remapCopyDone x => Sys2Proof.Machine.execRemapCopyDone x s
  | .stackTrip stack => Sys2Proof.Machine.execStackTrip stack s
  | .leakyBucketLeak ch => Sys2Proof.Machine.execLeakyBucketLeak ch s
  | .bridgeTransfer src dst x => Sys2Proof.Machine.execBridgeTransfer src dst x s
  | .bridgeRetrain bridge x => Sys2Proof.Machine.execBridgeRetrain bridge x s
  | .fabShadowReload die => Sys2Proof.Machine.execFabShadowReload die s
  | .remoteRequestTimeout core entry => Sys2Proof.Machine.execRemoteRequestTimeout core entry s
  | .frameFlushTimer die x => Sys2Proof.Machine.execFrameFlushTimer die x s
  | .tlFrame link f => Sys2Proof.Machine.execTlFrame link f s
  | .notice link part dstPkg dstPart reason => Sys2Proof.Machine.execNotice link part dstPkg dstPart reason s
  | .tlDetect link m x => Sys2Proof.Machine.execTlDetect link m x s
  | .tlEqualiseDone link settings => Sys2Proof.Machine.execTlEqualiseDone link settings s
  | .tlAlignDone link errs => Sys2Proof.Machine.execTlAlignDone link errs s
  | .tlIdentify link peerPkg peerLink peerLanes peerDist => Sys2Proof.Machine.execTlIdentify link peerPkg peerLink peerLanes peerDist s
  | .tlDelayDone link trips => Sys2Proof.Machine.execTlDelayDone link trips s
  | .tlStateTimeout link => Sys2Proof.Machine.execTlStateTimeout link s
  | .tlRetrainDone link ok errs trips => Sys2Proof.Machine.execTlRetrainDone link ok errs trips s
  | .tlCtrlEn path link val => Sys2Proof.Machine.execTlCtrlEn path link val s
  | .tlCtrlRetrain path link val => Sys2Proof.Machine.execTlCtrlRetrain path link val s
  | .fabTopo path die val => Sys2Proof.Machine.execFabTopo path die val s
  | .cageModuleRemoved cage => Sys2Proof.Machine.execCageModuleRemoved cage s
  | .xplanStart path part val => Sys2Proof.Machine.execXplanStart path part val s
  | .stepBoundary part => Sys2Proof.Machine.execStepBoundary part s
  | .xplanArm path part val => Sys2Proof.Machine.execXplanArm path part val s
  | .xplanArmed part => Sys2Proof.Machine.execXplanArmed part s
  | .xplanDisarm path part val => Sys2Proof.Machine.execXplanDisarm path part val s
  | .exchangeSendBeat part x => Sys2Proof.Machine.execExchangeSendBeat part x s
  | .exchangeDataFrame part srcPkg b => Sys2Proof.Machine.execExchangeDataFrame part srcPkg b s
  | .exchangeReduceBeat part x late => Sys2Proof.Machine.execExchangeReduceBeat part x late s
  | .exchangeRecvBeat part x late => Sys2Proof.Machine.execExchangeRecvBeat part x late s
  | .checkBeat part x => Sys2Proof.Machine.execCheckBeat part x s
  | .healthFreeze part => Sys2Proof.Machine.execHealthFreeze part s
  | .healthUpFrame part srcPkg b => Sys2Proof.Machine.execHealthUpFrame part srcPkg b s
  | .healthDownSend part entry => Sys2Proof.Machine.execHealthDownSend part entry s
  | .healthDownFrame part srcPkg b => Sys2Proof.Machine.execHealthDownFrame part srcPkg b s
  | .healthDecision part => Sys2Proof.Machine.execHealthDecision part s
  | .updArm path part val => Sys2Proof.Machine.execUpdArm path part val s
  | .updDisarm path part val => Sys2Proof.Machine.execUpdDisarm path part val s
  | .updRevert path part val => Sys2Proof.Machine.execUpdRevert path part val s
  | .revert part => Sys2Proof.Machine.execRevert part s
  | .updateLaunch part => Sys2Proof.Machine.execUpdateLaunch part s
  | .updateCommit part => Sys2Proof.Machine.execUpdateCommit part s
  | .ethLinkChange port up phy fec => Sys2Proof.Machine.execEthLinkChange port up phy fec s
  | .ethFrame port f kind => Sys2Proof.Machine.execEthFrame port f kind s
  | .rdmaWrite qpn rkey addr x => Sys2Proof.Machine.execRdmaWrite qpn rkey addr x s
  | .rdmaRead qpn rkey addr x => Sys2Proof.Machine.execRdmaRead qpn rkey addr x s
  | .rdmaReadResponse core entry ok data => Sys2Proof.Machine.execRdmaReadResponse core entry ok data s
  | .rdmaAcknowledge l ok => Sys2Proof.Machine.execRdmaAcknowledge l ok s
  | .rdmaRetryTimeout l => Sys2Proof.Machine.execRdmaRetryTimeout l s
  | .hello port h => Sys2Proof.Machine.execHello port h s
  | .proof hs ok => Sys2Proof.Machine.execProof hs ok s
  | .handshakeTimeout hs => Sys2Proof.Machine.execHandshakeTimeout hs s
  | .lockExpiry sc => Sys2Proof.Machine.execLockExpiry sc s
  | .sessionIdleTimeout sess => Sys2Proof.Machine.execSessionIdleTimeout sess s
  | .regread sess addr width => Sys2Proof.Machine.execRegread sess addr width s
  | .regwrite sess addr width val => Sys2Proof.Machine.execRegwrite sess addr width val s
  | .qpCreate sess x => Sys2Proof.Machine.execQpCreate sess x s
  | .qpDestroy sess qpn => Sys2Proof.Machine.execQpDestroy sess qpn s
  | .keys sess linkKey => Sys2Proof.Machine.execKeys sess linkKey s
  | .peers sess es => Sys2Proof.Machine.execPeers sess es s
  | .start sess => Sys2Proof.Machine.execStart sess s
  | .zeroise sess part => Sys2Proof.Machine.execZeroise sess part s
  | .memoryScrubDone part => Sys2Proof.Machine.execMemoryScrubDone part s
  | .attest sess kind part nonce => Sys2Proof.Machine.execAttest sess kind part nonce s
  | .assign sess part c => Sys2Proof.Machine.execAssign sess part c s
  | .owner sess pub => Sys2Proof.Machine.execOwner sess pub s
  | .close sess => Sys2Proof.Machine.execClose sess s
  | .evread sess index count => Sys2Proof.Machine.execEvread sess index count s
  | .release sess => Sys2Proof.Machine.execRelease sess s
  | .privlaunch sess part bytes => Sys2Proof.Machine.execPrivlaunch sess part bytes s
  | .partitionStart part => Sys2Proof.Machine.execPartitionStart part s
  | .partDefine path part val => Sys2Proof.Machine.execPartDefine path part val s
  | .partReset path part val => Sys2Proof.Machine.execPartReset path part val s
  | .partitionReset part => Sys2Proof.Machine.execPartitionReset part s
  | .partRelease path part val => Sys2Proof.Machine.execPartRelease path part val s
  | .cmdtEn path part val => Sys2Proof.Machine.execCmdtEn path part val s
  | .cmdtLaunch x => Sys2Proof.Machine.execCmdtLaunch x s
  | .cmdtWindow x => Sys2Proof.Machine.execCmdtWindow x s
  | .cmdtMark x => Sys2Proof.Machine.execCmdtMark x s
  | .cmdtNop x => Sys2Proof.Machine.execCmdtNop x s
  | .markComplete part => Sys2Proof.Machine.execMarkComplete part s
  | .packageColdReset => Sys2Proof.Machine.execPackageColdReset s
  | .resetRelease straps => Sys2Proof.Machine.execResetRelease straps s
  | .cantlePllLock => Sys2Proof.Machine.execCantlePllLock s
  | .hubSelfTest hub ok => Sys2Proof.Machine.execHubSelfTest hub ok s
  | .fuseRead h0 h1 => Sys2Proof.Machine.execFuseRead h0 h1 s
  | .imageVerify img => Sys2Proof.Machine.execImageVerify img s
  | .recover img ownerSigOk => Sys2Proof.Machine.execRecover img ownerSigOk s
  | .firmwareStart rejected boardDesc descVersion => Sys2Proof.Machine.execFirmwareStart rejected boardDesc descVersion s
  | .pgCAssert die => Sys2Proof.Machine.execPgCAssert die s
  | .pgCTimeout die => Sys2Proof.Machine.execPgCTimeout die s
  | .coreFirmwareCheck die ok => Sys2Proof.Machine.execCoreFirmwareCheck die ok s
  | .knownAnswerRuns u ok run => Sys2Proof.Machine.execKnownAnswerRuns u ok run s
  | .hbmTrained stack identityOk serial saved checkOk trainOk hppr pages => Sys2Proof.Machine.execHbmTrained stack identityOk serial saved checkOk trainOk hppr pages s
  | .lpddrTrained module spd saved checkOk trainOk => Sys2Proof.Machine.execLpddrTrained module spd saved checkOk trainOk s
  | .coreMapBuild die => Sys2Proof.Machine.execCoreMapBuild die s
  | .startPhaseTimeout phase unit => Sys2Proof.Machine.execStartPhaseTimeout phase unit s
  | .ready ms => Sys2Proof.Machine.execReady ms s
  | .bootDiscard path val => Sys2Proof.Machine.execBootDiscard path val s
  | .bootNofast path val => Sys2Proof.Machine.execBootNofast path val s
  | .hourTick => Sys2Proof.Machine.execHourTick s
  | .pgBoardFall => Sys2Proof.Machine.execPgBoardFall s
  | .pgCFall die => Sys2Proof.Machine.execPgCFall die s
  | .dieReport die => Sys2Proof.Machine.execDieReport die s
  | .dieWedged die => Sys2Proof.Machine.execDieWedged die s
  | .dieFailed die cause => Sys2Proof.Machine.execDieFailed die cause s
  | .mapRebuild beats => Sys2Proof.Machine.execMapRebuild beats s
  | .thermalTrip unit temp => Sys2Proof.Machine.execThermalTrip unit temp s
  | .managementRound r => Sys2Proof.Machine.execManagementRound r s
  | .mfLate op part us => Sys2Proof.Machine.execMfLate op part us s
  | .cinchSpent => Sys2Proof.Machine.execCinchSpent s
  | .cinchCap path hub val => Sys2Proof.Machine.execCinchCap path hub val s
  | .cinchFast path hub val => Sys2Proof.Machine.execCinchFast path hub val s
  | .cinchCtrl path hub val => Sys2Proof.Machine.execCinchCtrl path hub val s
  | .fastLimitAssert => Sys2Proof.Machine.execFastLimitAssert s
  | .fastLimitDeassert => Sys2Proof.Machine.execFastLimitDeassert s
  | .syncEdge tick => Sys2Proof.Machine.execSyncEdge tick s
  | .testModeUnlock sigOk clearRetained => Sys2Proof.Machine.execTestModeUnlock sigOk clearRetained s

end Sys2Proof.Machine
end

