-- ==== Sys2Proof/WellFormed.lean ====
section
/-! DEFINITION. When a command is well formed: every core, die, link, memory, port, partition or slot that it names is
one that the package has (R8, R10, R42, R44, R355, R370). A value that the hardware itself checks (a register address, a
message's partition, an instruction's fields) is no part of this. -/

namespace Sys2Proof

def coreOk (n : Nat) : Bool := n < 1280
def groupOk (n : Nat) : Bool := n < 32
def slotOk (n : Nat) : Bool := n < 16
def partOk (n : Nat) : Bool := n < 8
def dieOk (n : Nat) : Bool := n < 8
def physOk (n : Nat) : Bool := n < 168
def linkOk (n : Nat) : Bool := n < 64
def stackOk (n : Nat) : Bool := n < 16
/-- Sixteen stacks, then eight modules. -/
def memOk (n : Nat) : Bool := n < 24
def moduleOk (n : Nat) : Bool := n < 8
def hubOk (n : Nat) : Bool := n < 2
def bridgeOk (n : Nat) : Bool := n < 35
/-- Eight dies, two hubs, sixteen stacks. -/
def nodeOk (n : Nat) : Bool := n < 26
def portOk (n : Nat) : Bool := n < 5
def cageOk (n : Nat) : Bool := n < 69
/-- Eight dies, then two hubs (R422). -/
def junctionOk (n : Nat) : Bool := n < 10
/-- A four-bit partition field of a message. -/
def nibbleOk (n : Nat) : Bool := n < 16

def Issue.wf (i : Issue) : Bool := coreOk i.core && groupOk i.grp

def Path.wf : Path → Bool
  | .session _ => true
  | .priv c => coreOk c

def ReqSrc.wf : ReqSrc → Bool
  | .ni c _ => coreOk c
  | .inbox _ => true

def ApplyLine.wf (l : ApplyLine) : Bool := coreOk l.core && slotOk l.slot

def WriteSrc.wf : WriteSrc → Bool
  | .apply l => l.wf
  | .inbox _ => true

def WdKey.wf : WdKey → Bool
  | .barG g id => groupOk g && slotOk id
  | .barB b id => slotOk b && slotOk id
  | .wbeat g _ _ => groupOk g

def Channel.wf : Channel → Bool
  | .lane l k => linkOk l && k < 4
  | .pseudo m p => stackOk m && p < 32
  | .lpx m c => moduleOk m && c < 8
  | .phys d i => dieOk d && physOk i
  | .reservation p d => partOk p && dieOk d

def Scope.wf : Scope → Bool
  | .package => true
  | .partition p => partOk p

def KatUnit.wf : KatUnit → Bool
  | .core d p => dieOk d && physOk p
  | .way d w => dieOk d && w < 32
  | .die d => dieOk d
  | .hub h b => hubOk h && b < 32
  | .done => true

def EnergyIn.wf (e : EnergyIn) : Bool :=
  (e.grants.all fun g => partOk g.part) && (e.parts.all fun p => partOk p.part) &&
    (e.dies.all fun d => decide (d.1 < 8)) && e.cores.all fun c => decide (c.1 < 1280)

def BoundaryIn.wf (b : BoundaryIn) : Bool :=
  (b.coreEst.all fun e => partOk e.1) && b.cmdtLate.all partOk && b.energy.wf

def RoundIn.wf (r : RoundIn) : Bool :=
  (r.stackTemp.all fun e => stackOk e.1) && (r.lpxTemp.all fun e => moduleOk e.1) && (r.cages.all fun e => cageOk e.1) &&
    (r.busFail.all fun e => hubOk e.1) && (r.cantleFail.all fun e => hubOk e.1 && e.2 < 4) && r.hubFail.all hubOk

/-- The unit that a phase's time-out names (R388). -/
def phaseUnitOk (phase unit : Nat) : Bool :=
  match phase with
  | 0 | 1 | 2 => hubOk unit
  | 5 => dieOk unit
  | 6 => dieOk (unit / 256) && physOk (unit % 256)
  | 7 => stackOk unit
  | 8 => moduleOk unit
  | 9 => linkOk unit
  | _ => true

/-- A command names only units of the package. -/
def Instr.wf : Instr → Bool
  | .laneMov i | .laneAdd i | .laneSub i | .laneMul i | .laneFma i | .laneFms i | .laneMin i
    | .laneMax i | .laneAbs i | .laneNeg i | .laneCmp i | .laneSel i | .laneCvt i | .laneCvtMx i
    | .lanePack i | .laneUnpack i | .laneIadd i | .laneIsub i | .laneImul i | .laneImin i | .laneImax i
    | .laneIcmp i | .laneAnd i | .laneOr i | .laneXor i | .laneNot i | .laneShl i | .laneShr i
    | .laneSar i | .lanePopc i | .laneClz i | .laneRcp i | .laneRsqrt i | .laneSqrt i | .laneExp2 i
    | .laneLog2 i | .laneDiv i | .laneShfl i | .laneVote i | .laneRed i | .laneFlag i | .laneRng i
    | .laneCmp24 i | .lanePick i | .scalarMov i | .scalarAdd i | .scalarSub i | .scalarMul i
    | .scalarAnd i | .scalarOr i | .scalarXor i | .scalarShl i | .scalarShr i | .scalarSar i
    | .scalarMin i | .scalarMax i | .scalarUmin i | .scalarUmax i | .scalarCmp i | .scalarFma i
    | .scalarCvt i | .rdlane i | .wrlane i | .mmaT i | .mmaS i | .mmaQ i | .smma i | .mmaDrain i
    | .ld i | .st i | .ldAcq i | .stRel i | .atom i | .ldS i | .prefetch i | .bgather i | .bmerge i
    | .dmaCp i | .dmaFill i | .dmaWait i | .dmaPoll i | .nop i | .bra i | .jmp i | .call i | .exit i
    | .barG i | .barB i | .fence i | .beat i | .wbeat i | .trap i | .rdpc i => i.wf
  | .beatBoundary b => b.wf
  | .ovfClear path _ | .lowWordRead path _ | .registerWrite path _ _ | .pkgId path _
    | .bootDiscard path _ | .bootNofast path _ => path.wf
  | .eventRecord _ | .retirementDecision _ | .rdmaWrite _ _ _ _ | .rdmaRead _ _ _ _ | .proof _ _
    | .handshakeTimeout _ | .sessionIdleTimeout _ | .regread _ _ _ | .regwrite _ _ _ _ | .qpDestroy _ _
    | .keys _ _ | .peers _ _ | .start _ | .owner _ _ | .close _ | .evread _ _ _ | .release _
    | .packageColdReset | .resetRelease _ | .cantlePllLock | .fuseRead _ _ | .imageVerify _
    | .recover _ _ | .firmwareStart _ _ _ | .ready _ | .hourTick | .pgBoardFall | .mapRebuild _
    | .cinchSpent | .fastLimitAssert | .fastLimitDeassert | .syncEdge _ | .testModeUnlock _ _ => true
  | .evlogSel path hub _ | .cinchCap path hub _ | .cinchFast path hub _ | .cinchCtrl path hub _ =>
    path.wf && hubOk hub
  | .blockAdmission part core => partOk part && coreOk core
  | .clusterStart core slot | .blockStopRelease core slot | .ageSeam core slot | .seamBegin core slot
    | .seamQuiesced core slot | .seamLogged core slot | .seamCommitted core slot
    | .seamApplied core slot | .clusterCommit core slot | .atomAfterSeam core slot
    | .finalCommit core slot | .finalCommitComplete core slot | .blockReplay core ⟨slot, _⟩ =>
    coreOk core && slotOk slot
  | .starvationGuard core grp | .wbeatRelease core grp _ => coreOk core && groupOk grp
  | .barrierTimeout core wd => coreOk core && wd.wf
  | .arrayTake core | .tileSequencerRead core | .drainRead core | .drainOutput core
    | .bobbinExecute ⟨core, _⟩ | .bobbinComplete core | .readResponse core _ _ | .atomicResponse core _
    | .refusal core _ | .dmaTransfer core _ | .dmaComplete core _ | .frontEndStall core
    | .remoteRequestTimeout core _ | .rdmaReadResponse core _ _ _ => coreOk core
  | .tsc i _ => i.wf
  | .readRequest src _ | .lineWrite src _ | .atomic src _ => src.wf
  | .writeAcknowledgement ⟨l, _⟩ | .rdmaAcknowledge l _ | .rdmaRetryTimeout l => l.wf
  | .memRetrainDone stack _ | .remapCopyDone ⟨stack, _⟩ | .stackTrip stack | .hbmTrained stack _ _ _ _ _ _ _ =>
    stackOk stack
  | .amapRcInval path core _ | .amapFaultClear path core _ => path.wf && coreOk core
  | .coreHardwareFault die phys _ => dieOk die && physOk phys
  | .blockMoved core ⟨slot, _⟩ host => coreOk core && slotOk slot && coreOk host
  | .completionRecord part | .stepBoundary part | .xplanArmed part | .exchangeSendBeat part _
    | .exchangeDataFrame part _ _ | .checkBeat part _ | .healthFreeze part | .healthUpFrame part _ _
    | .healthDownSend part _ | .healthDownFrame part _ _ | .healthDecision part | .revert part
    | .updateLaunch part | .updateCommit part | .memoryScrubDone part | .partitionStart part
    | .partitionReset part | .cmdtLaunch ⟨part, _⟩ | .cmdtWindow ⟨part, _⟩ | .cmdtMark ⟨part, _⟩ | .cmdtNop ⟨part, _⟩
    | .markComplete part => partOk part
  | .patrolScrub mem _ => memOk mem
  | .leakyBucketLeak ch => ch.wf
  | .bridgeTransfer src dst _ => nodeOk src && nodeOk dst
  | .bridgeRetrain bridge _ => bridgeOk bridge
  | .fabShadowReload die | .frameFlushTimer die _ | .qpCreate _ ⟨die, _, _⟩ | .pgCAssert die | .pgCTimeout die
    | .coreFirmwareCheck die _ | .coreMapBuild die | .pgCFall die | .dieReport die | .dieWedged die
    | .dieFailed die _ => dieOk die
  | .tlFrame link _ | .tlDetect link _ _ | .tlEqualiseDone link _ | .tlAlignDone link _
    | .tlIdentify link _ _ _ _ | .tlDelayDone link _ | .tlStateTimeout link | .tlRetrainDone link _ _ _ =>
    linkOk link
  | .notice link part _ dstPart _ => linkOk link && nibbleOk part && nibbleOk dstPart
  | .tlCtrlEn path link _ | .tlCtrlRetrain path link _ => path.wf && linkOk link
  | .fabTopo path die _ => path.wf && dieOk die
  | .cageModuleRemoved cage => cageOk cage
  | .xplanStart path part _ | .xplanArm path part _ | .xplanDisarm path part _ | .updArm path part _
    | .updDisarm path part _ | .updRevert path part _ | .partDefine path part _
    | .partReset path part _ | .partRelease path part _ | .cmdtEn path part _ => path.wf && partOk part
  | .exchangeReduceBeat part _ late | .exchangeRecvBeat part _ late => partOk part && late.all dieOk
  | .ethLinkChange port _ _ _ | .ethFrame port _ _ | .hello port _ => portOk port
  | .lockExpiry sc => sc.wf
  | .zeroise _ part | .attest _ _ part _ | .assign _ part _ | .privlaunch _ part _ | .mfLate _ part _ =>
    nibbleOk part
  | .hubSelfTest hub _ => hubOk hub
  | .knownAnswerRuns u _ _ => u.wf
  | .lpddrTrained module _ _ _ _ => moduleOk module
  | .startPhaseTimeout phase unit => phaseUnitOk phase unit
  | .thermalTrip unit _ => junctionOk unit
  | .managementRound r => r.wf

end Sys2Proof
end

