-- ==== Sys2Proof/Safety.lean ====
section
/-! DEFINITION. The terms that statements use: when a command can issue, what a frame leaves unchanged, what one
instruction's effect on its group is, and the invariant of the machine. -/

namespace Sys2Proof.Machine

/-! ### The invariant -/

/-- The tables of bytes and of register words keep their canonical form: keys rise strictly (notes/assumptions/5). -/
def State.Inv (s : State) : Prop := Memory.wf s.mem = true ∧ Tab.sorted s.regs = true

/-! ### The issue of an instruction -/

/-- The instruction that an issue command finds: the group runs, nothing holds it, and one of its paths does not wait
(R49, R51, R52, R237, R435). -/
def State.issuing (s : State) (i : Issue) : Option Iss :=
  match s.group i.core i.grp with
  | none => none
  | some g => match s.block i.core g.bslot, g.issuePc with
    | some b, some pc =>
      if i.core < 1280 ∧ i.grp < 32 ∧ (s.physOf i.core).isSome ∧ b.st = .running ∧ b.stopped = false ∧ b.phase = .run ∧
          b.trig = none ∧ g.hold = .none ∧ i.core ∉ s.cinch.gated ∧ g.guardDue = false then
        some { core := i.core, gslot := i.grp, bslot := g.bslot, blk := b, grp := g, pc := pc, path := g.pathAt pc,
               w0 := i.w0, w1 := i.w1, smmaEn := s.reg (.core i.core 2) 4 % 2 == 1, ecc := i.ecc }
      else none
    | _, _ => none

/-- The instruction's address is in range and its lines are fetched (R93, R212, R266). -/
def Iss.fetched (x : Iss) (s : State) : Bool :=
  (s.fetchReason x.blk.part x.pc).isNone && (x.fetch s).2 == .done

/-- The state with the instruction fetched: its lines may have entered the read cache (R212). -/
def Iss.after (x : Iss) (s : State) : State := (x.fetch s).1

/-- An issue command finds an instruction in state `o` and fetches it, which leaves state `s`. -/
def State.fetches (o : State) (i : Issue) (x : Iss) (s : State) : Prop :=
  o.issuing i = some x ∧ x.fetched o = true ∧ s = x.after o

/-- What a fetch may change: the core's read cache and its count of fills, counters, records, and what protection and the pool
cache keep of the lines read. Memory, every group and every block are as before. -/
structure Fetched (x : Iss) (s t : State) : Prop where
  rest : t = { s with cores := t.cores, regs := t.regs, log := t.log, mems := t.mems, flash := t.flash, mf := t.mf,
                      freeCtr := t.freeCtr }
  cores : ∀ k, k ≠ x.core → t.core k = s.core k
  core : t.core x.core =
    { s.core x.core with rc := (t.core x.core).rc, nextFill := (t.core x.core).nextFill }

/-- The words are a legal instruction of a row (R91) whose registers exist (R46) and none of which it has to wait for (R49,
R174). -/
def Iss.runs (x : Iss) (sh : Shape) (s : State) : Bool :=
  x.cls == sh.cls && x.opc == sh.opc && x.headerOk && sh.legal x && (sh.gs x).all spanOk &&
  (rangeReg x.blk.desc.rpt (sh.gs x)).isNone && !x.waits sh s

/-- An issue command of a row finds, fetches and runs an instruction: `s` is the state after the fetch. -/
def State.issues (o : State) (i : Issue) (sh : Shape) (x : Iss) (s : State) : Prop :=
  o.fetches i x s ∧ x.runs sh s = true

/-! ### Frames -/

/-- An address of one of some sub-blocks of a core's management registers (R17). -/
def inSubs (c : Nat) (subs : List Nat) (a : Nat) : Bool :=
  subs.any fun b => (Blk.core c b).base ≤ a && a < (Blk.core c b).base + 0x100

/-- Records that have been added to those on their way, and nothing else in the log. -/
def State.recordsAdded (s t : State) : Prop :=
  s.log.flight <+: t.log.flight ∧ t.log = { s.log with flight := t.log.flight }

/-- Outside core `c`, nothing changed but words of its own register sub-blocks and records of saturated counters. All of
memory is among what did not change. -/
structure OnlyCore (c : Nat) (subs : List Nat) (s t : State) : Prop where
  rest : t = { s with cores := t.cores, regs := t.regs, log := t.log }
  cores : ∀ k, k ≠ c → t.core k = s.core k
  regs : ∀ a, inSubs c subs a = false → t.regWord a = s.regWord a
  log : s.recordsAdded t

/-- As `OnlyCore`, but that the homes of lines that an engine read have counted its accesses (R215): a pool cache's hit, miss
or write-back is a free value (notes/assumptions/17). -/
structure CoreAndHomes (c : Nat) (subs : List Nat) (s t : State) : Prop where
  rest : t = { s with cores := t.cores, regs := t.regs, log := t.log, freeCtr := t.freeCtr }
  cores : ∀ k, k ≠ c → t.core k = s.core k
  regs : ∀ a, inSubs c subs a = false → (∀ d, a < (Blk.dAmap d).base ∨ (Blk.dAmap d).base + 0x100 ≤ a) →
    t.regWord a = s.regWord a
  log : s.recordsAdded t

/-- In the core of an issue only the issuing group and its block can have changed. -/
structure OnlyGroup (x : Iss) (subs : List Nat) (s t : State) : Prop where
  core : OnlyCore x.core subs s t
  groups : ∀ g, g ≠ x.gslot → t.group x.core g = s.group x.core g
  blocks : ∀ b, b ≠ x.bslot → t.block x.core b = s.block x.core b
  rest : t.core x.core =
    { s.core x.core with groups := (t.core x.core).groups, blocks := (t.core x.core).blocks }

/-! ### What an instruction does to its group -/

/-- A thread is as before, but for its program address. -/
def Thread.same (a b : Thread) : Prop :=
  (∀ r, a.reg r = b.reg r) ∧ a.preds = b.preds ∧ a.flags = b.flags ∧ a.exited = b.exited ∧ a.wait = b.wait

/-- The issuing path goes on at the next instruction; every other thread stays where it is. -/
def Iss.wentOn (x : Iss) (g : Group) : Prop :=
  ∀ th, (g.thread th).pc = if th ∈ x.path then x.next else (x.grp.thread th).pc

/-- A thread is as before, but for its program address and its wait. -/
def Thread.kept (a b : Thread) : Prop :=
  (∀ r, a.reg r = b.reg r) ∧ a.preds = b.preds ∧ a.flags = b.flags ∧ a.exited = b.exited

/-- The groups of a core are as before, but that barriers at which threads waited may have completed (R54). -/
def BarsOnly (c : Nat) (who : Nat → Prop) (s t : State) : Prop :=
  ∀ n, who n → (s.group c n = none → t.group c n = none) ∧
    ∀ k, s.group c n = some k → ∃ k', t.group c n = some k' ∧ k' = { k with threads := k'.threads } ∧
      ∀ th, (k'.thread th).kept (k.thread th) ∧
        ((k'.thread th).wait = (k.thread th).wait ∧ (k'.thread th).pc = (k.thread th).pc ∨
          (k'.thread th).wait = .none ∧ (k'.thread th).pc = (k.thread th).pc + 8 ∧ ∃ id, (k.thread th).wait = .barB id)

/-- The blocks of a core are as before, but that watchdogs of completed barriers may be gone (R57). -/
def BlocksKept (c : Nat) (s t : State) : Prop :=
  ∀ n, (s.block c n = none → t.block c n = none) ∧
    ∀ b, s.block c n = some b → ∃ b', t.block c n = some b' ∧ b' = { b with wds := b'.wds }

/-- A thread with the registers, the predicate and the reports of an effect, and otherwise as before. -/
def Thread.took (a b : Thread) (e : TEff) : Prop :=
  (∀ r, a.reg r = (e.regs.reverse.lookup r).getD (b.reg r)) ∧
  a.preds = (match e.pred with | some (n, v) => if n = 0 then b.preds else setBit b.preds n v | none => b.preds) ∧
  a.flags = flagAfter b.flags e.report e.lnf ∧ a.exited = b.exited ∧ a.wait = b.wait

/-- A lane instruction has completed with effects in the threads `who`: each has taken its effect, the others and the s
registers are as before, the path has gone on, LANE_FLAGS has the reports (R200), the block lane flag is set where a report
meets R191, and nothing else changed but counters. -/
structure LaneDoneBy (x : Iss) (subs who : List Nat) (eff : Nat → TEff) (s t : State) : Prop where
  group : ∃ g, t.group x.core x.gslot = some g ∧ x.wentOn g ∧ (∀ r, g.sreg r = x.grp.sreg r) ∧ g.hold = x.grp.hold ∧
    (∀ th, th ∈ who → (g.thread th).took (x.grp.thread th) (eff th)) ∧
    (∀ th, th ∉ who → (g.thread th).same (x.grp.thread th))
  block : t.block x.core x.bslot =
    some { x.blk with lnf := x.blk.lnf || who.any fun th => (eff th).lnf }
  flags : t.reg (.core x.core 5) 0 = s.reg (.core x.core 5) 0 ||| reportBits (who.map fun th => (th, eff th))
  frame : OnlyGroup x subs s t

/-- A lane instruction has completed with effects in the acting threads (R72). -/
def LaneDone (x : Iss) (subs : List Nat) (eff : Nat → TEff) (s t : State) : Prop :=
  LaneDoneBy x subs x.acting eff s t

/-- An instruction of one core has completed with a change of s registers only (R72, R198): `sreg` gives them, every thread is
as before, and the path has gone on. -/
structure ScalarDone (x : Iss) (subs : List Nat) (sreg : Nat → DWord) (s t : State) : Prop where
  group : ∃ g, t.group x.core x.gslot = some g ∧ x.wentOn g ∧ (∀ r, g.sreg r = sreg r) ∧ g.hold = x.grp.hold ∧
    (∀ th, (g.thread th).same (x.grp.thread th))
  block : t.block x.core x.bslot = some x.blk
  frame : OnlyGroup x subs s t

/-- The s registers with DST written where the instruction acts. -/
def Iss.wroteS (x : Iss) (v : DWord) (r : Nat) : DWord := if x.acts = true ∧ r = x.sDst then v else x.grp.sreg r

/-- An integer result by TYPE: 64 bits for TYPE 0, 32 bits zero-extended for TYPE 1 (R198). -/
def Iss.byType (x : Iss) (f64 : DWord → DWord → DWord) (f32 : Word → Word → Word) : DWord :=
  if x.sType = 0 then f64 x.valA x.valB else (f32 (x.valA.setWidth 32) (x.valB.setWidth 32)).setWidth 64

/-- A TYPE 2 result: the exact result of FP32 operands rounded once (R198). -/
def Iss.byFloat (x : Iss) (f : FVal → FVal → FVal × Nat) : DWord :=
  BitVec.ofNat 64 (fp32.result
    (f (fp32.decode (x.valA.setWidth 32).toNat) (fp32.decode (x.valB.setWidth 32).toNat)).1).1

/-- A branch has been taken by the acting threads: they are at `goal`, the rest of the path is at the next instruction (R72,
R88), and no register of a thread has changed. -/
structure BranchDone (x : Iss) (goal : DWord) (sreg : Nat → DWord) (s t : State) : Prop where
  group : ∃ g, t.group x.core x.gslot = some g ∧ (∀ r, g.sreg r = sreg r) ∧
    (∀ th, (g.thread th).pc = if th ∈ x.acting then goal else if th ∈ x.path then x.next else (x.grp.thread th).pc) ∧
    (∀ th, (g.thread th).same (x.grp.thread th))
  block : t.block x.core x.bslot = some x.blk
  frame : OnlyGroup x [] s t

/-- A program fault of the issuing block has been raised (R59, R60): its record is on its way, the block stops with the writes
staged since its last seam discarded, its grant carries the code unless it carried one before, and no memory, memory unit or
other core has changed. -/
structure Faulted (x : Iss) (code : Nat) (extra : List (Nat × Nat)) (s t : State) : Prop where
  block : ∃ b, t.block x.core x.bslot = some b ∧ b.st = .stopping ∧ b.wset = [] ∧ b.mgmt = [] ∧ b.log = x.blk.log
  record : t.log.flight = s.log.flight ++ [⟨s.time.tsc, s.source x.blk.desc.home, code, 0, x.blk.desc.part, false, false,
    payload (x.blk.faultFields x.grp.gidx ++ extra)⟩]
  grant : (t.part x.blk.desc.part).grants = (s.part x.blk.desc.part).grants.map fun g =>
    if g.uid = x.blk.desc.uid ∧ g.fault = none then { g with fault := some code } else g
  cores : ∀ k, k ≠ x.core → t.core k = s.core k
  rest : t = { s with cores := t.cores, parts := t.parts, log := t.log, regs := t.regs }

/-- An instruction has gone on without changing a register: its group's path is at the next instruction and waits for
nothing new. -/
def Iss.passed (x : Iss) (t : State) : Prop :=
  ∃ g, t.group x.core x.gslot = some g ∧ x.wentOn g ∧ (∀ r, g.sreg r = x.grp.sreg r) ∧
    (∀ th, (g.thread th).same (x.grp.thread th))

/-- A matrix instruction has been staged (R121, R124): the set is its group's, cleared where it was free; the other set, the
drain path, every block, every other group, every other core and memory are as before. -/
structure MatrixStaged (x : Iss) (st : Staged) (s t : State) : Prop where
  passed : x.passed t
  staged : (t.core x.core).staged = some st
  set : (t.core x.core).accSet x.mSet =
    if ((s.core x.core).accSet x.mSet).holder = none then { AccSet.fresh with holder := some x.gslot }
    else (s.core x.core).accSet x.mSet
  other : ∀ n, n ≠ x.mSet → (t.core x.core).accSet n = (s.core x.core).accSet n
  frame : OnlyCore x.core [] s t
  groups : ∀ g, g ≠ x.gslot → t.group x.core g = s.group x.core g
  rest : t.core x.core = { s.core x.core with
    groups := (t.core x.core).groups, sets := (t.core x.core).sets, staged := (t.core x.core).staged }

/-- A matrix instruction may be staged: its set is free or its group's and not releasing, and the staging buffer is empty. -/
def Iss.canStage (x : Iss) (s : State) : Bool :=
  (((s.core x.core).accSet x.mSet).holder == none ||
    (((s.core x.core).accSet x.mSet).holder == some x.gslot && !((s.core x.core).accSet x.mSet).releasing)) &&
  (s.core x.core).staged.isNone

/-- Nothing of the group's drains, bobbin work or matrix reads holds a memory instruction (R132, R174, R220). -/
def Iss.memFree (x : Iss) (s : State) (write : Bool) : Bool :=
  !x.drainHeld s && !(x.isSpad && x.spadHeld s write)

/-- The address that a thread's global store goes to; none for a scratchpad or management store. -/
def Iss.storeTo (x : Iss) (s : State) (th : Nat) : Option DWord :=
  if x.isSpad then none else match s.classify (x.addr th) with
    | .mgmt _ => none
    | _ => some (s.normal (x.addr th))

/-- The staged byte of a block at an address (R214): none where no staged line covers it. -/
def Block.stagedByte (b : Block) (a : DWord) : Option Byte :=
  if (b.stagedLine (lineOf a)).1.getLsbD (lineOff a) then some (lineByte (b.stagedLine (lineOf a)).2 (lineOff a)) else none

/-- The last of some threads whose store covers an address. -/
def Iss.lastStore (x : Iss) (s : State) (ts : List Nat) (a : DWord) : Option (Nat × Nat) :=
  ts.reverse.findSome? fun th => match x.storeTo s th with
    | some b => if (a - b).toNat < x.bytes then some (th, (a - b).toNat) else none
    | none => none

/-- The last of some threads whose scratchpad store covers an offset. -/
def Iss.lastSpadStore (x : Iss) (ts : List Nat) (o : Nat) : Option (Nat × Nat) :=
  if x.isSpad then ts.reverse.findSome? fun th =>
    if x.spadOff th ≤ o ∧ o < x.spadOff th + x.bytes then some (th, o - x.spadOff th) else none
  else none

/-- The acting threads' stores have been staged in the block and made in its scratchpad, in ascending order of threads, the
stores of the management window wait for the commit, and nothing else of the block has changed but its trigger of a seam; memory
has not changed (R209, R217, R219, R234). -/
structure Stored (x : Iss) (s t : State) : Prop where
  block : ∃ b, t.block x.core x.bslot = some b ∧
    b = { x.blk with spad := b.spad, wset := b.wset, mgmt := b.mgmt, dirtyP := b.dirtyP, wroteP := b.wroteP, trig := b.trig } ∧
    b.mgmt = x.blk.mgmt ++ x.acting.filterMap (fun th => if x.isSpad then none else match s.classify (x.addr th) with
      | .mgmt m => some (m, x.grp.reg th x.data)
      | _ => none) ∧
    (∀ o, spadByte b.spad o = match x.lastSpadStore x.acting o with
      | some (th, k) => (x.storeBytes th).getD k 0
      | none => spadByte x.blk.spad o) ∧
    (∀ a, b.stagedByte a = match x.lastStore s x.acting a with
      | some (th, k) => some ((x.storeBytes th).getD k 0)
      | none => x.blk.stagedByte a)
  frame : OnlyGroup x [] s t

/-- Every line that a load's threads need and the core cannot give at once has an outstanding request, in an entry that was
free (R214, R283). -/
def LinesAsked (x : Iss) (kind : NiKind) (cached : Bool) (reqs : List LineReq) (s t : State) : Prop :=
  ∀ r, r ∈ reqs → s.lineNow x.core x.bslot cached r = none →
    ∃ n e, (s.core x.core).ni.find n = none ∧ (t.core x.core).ni.find n = some e ∧ e.addr = r.line ∧ e.kind = kind ∧
      e.dests = r.dests ∧ e.bslot = x.bslot ∧ e.grp = x.gslot ∧ e.dead = false ∧ e.answer = none

/-- A load of global memory has issued (R49, R83, R214, R219): of a line that the core can give, every destination has landed,
bytes and halves zero-extended; every other line has been asked for, and its destinations wait for it; every other register,
predicate and report is as before. -/
structure Loaded (x : Iss) (cached : Bool) (reqs : List LineReq) (s t : State) (g : Group) : Prop where
  went : x.wentOn g
  landed : ∀ r, r ∈ reqs → ∀ d, s.lineNow x.core x.bslot cached r = some d → ∀ e, e ∈ r.dests → ∀ k, k < e.span →
    (g.thread e.thread).reg (e.reg + k) = regOf (e.value d) k
  asked : LinesAsked x .load cached reqs s t
  waits : ∀ r, r ∈ reqs → s.lineNow x.core x.bslot cached r = none → ∃ n e, (t.core x.core).ni.find n = some e ∧
    e.addr = r.line ∧ ∀ d, d ∈ r.dests → (⟨n, BitVec.ofNat 32 (2 ^ d.thread), d.reg, d.span⟩ : Owe) ∈ g.gWait
  others : ∀ th k, (∀ r, r ∈ reqs → ∀ e, e ∈ r.dests → e.thread = th → k < e.reg ∨ e.reg + e.span ≤ k) →
    (g.thread th).reg k = (x.grp.thread th).reg k
  threads : ∀ th, (g.thread th).preds = (x.grp.thread th).preds ∧ (g.thread th).flags = (x.grp.thread th).flags ∧
    (g.thread th).exited = (x.grp.thread th).exited ∧ (g.thread th).wait = (x.grp.thread th).wait
  sregs : ∀ r, g.sreg r = x.grp.sreg r

/-- What a ld.acq leaves (R213, R222): its group waits while loads of it are outstanding; else the acquire mark of device and
system scope is set. -/
def AcquireMade (x : Iss) (t : State) (g : Group) : Prop :=
  if x.acting = [] then g.hold = x.grp.hold ∧ t.block x.core x.bslot = some x.blk
  else if (t.core x.core).ni.any (fun e => e.2.grp == x.gslot && !e.2.dead && e.2.kind == .load) = true then
    g.hold = .acq x.scope ∧ t.block x.core x.bslot = some x.blk
  else g.hold = x.grp.hold ∧ t.block x.core x.bslot =
    some (if 2 ≤ x.scope then { x.blk with acq := (t.core x.core).nextFill } else x.blk)

/-- The word that a path's read of an aligned address gets (R19, R21): 0 out of its reach and at a reserved address, the latched
high word where the low word was read last, else the register's word. -/
def State.seenAt (s : State) (path : Path) (a : Nat) : Word :=
  if s.outOfReach path a then 0 else match regAt a with
    | none => 0
    | some r => match (s.latch path).rd with
      | some (h, w) => if r.half ≠ 1 ∧ h = a then w else s.readWord a
      | none => s.readWord a

/-- The bytes of a descriptor's next part: the pattern of a fill, else the source's bytes as the block sees them (R85, R214). -/
def State.dmaBytes (s : State) (b : Block) (e : Dma) : List Byte :=
  let n := e.nextPart.2.2
  if e.fill then (List.range n).map fun k => (natLe 8 e.pattern.toNat).getD ((e.col + k) % 8) 0
  else match s.classify e.nextPart.1 with
    | .perCore _ o => spadRead b.spad o n
    | _ => s.viewBytes b e.far e.nextPart.1 n

/-- A descriptor of a running block can move its next part (R220, R224, R237): nothing before it goes to its peer, its shadow
entries are sound, and every line of its source is there. -/
def State.dmaReady (s : State) (core : Nat) (b : Block) (e : Dma) (parityOk : Bool) : Prop :=
  s.block core e.bslot = some b ∧ e.moved = false ∧ b.phase = .run ∧ b.st = .running ∧ b.stopped = false ∧
  (s.core core).dmaBehind e = false ∧
  (e.remote = true → parityOk = true ∧ (s.die (dieOfCore core)).reloading = false) ∧
  (e.fill = false → (∀ c o, s.classify e.nextPart.1 ≠ .perCore c o) →
    s.viewAbsent b e.far e.nextPart.1 e.nextPart.2.2 = [] ∧ s.viewPoison b e.nextPart.1 e.nextPart.2.2 = false)

/-- Every issue of an instruction of a row that is found, is fetched and runs completes: exec answers a next state, of which
`post` holds beside the state after the fetch. -/
def Completes (c : Issue → Instr) (sh : Shape) (post : Iss → State → State → Prop) : Prop :=
  ∀ (i : Issue) (o s : State) (x : Iss), o.issues i sh x s → ∃ t, exec (c i) o = .next t ∧ post x s t

/-! ### Commands -/

/-- A command answers a next state of which `post` holds. -/
def Does (c : Instr) (s : State) (post : State → Prop) : Prop := ∃ t, exec c s = .next t ∧ post t

/-! ### Management accesses (R19 to R21, R365, R367) -/

/-- An access of a path is taken up: its core exists, or its session is open, has its owner (R369) and is bound to no ERASED
partition (R371; a read is taken up there too). -/
def State.opens (s : State) (path : Path) (read : Bool) : Bool :=
  match path with
  | .priv c => c < 1280
  | .session n => match s.host.sessions.find n with
    | none => false
    | some x => !x.claim && (read || match x.scope with
      | .partition p => (s.part p).st != .erased
      | .package => true)

/-- The state when an access of a path has arrived: a session's idle time starts again (R365). -/
def State.arrived (s : State) (path : Path) : State :=
  match path with
  | .priv _ => s
  | .session n => s.updHost fun h => { h with sessions := h.sessions.modify n fun q => { q with lastPkt := s.time.tsc } }

/-- What a path is told of a write: a session gets an answer, privileged software none. -/
def okTo (path : Path) (o : List Out) : List Out :=
  match path with
  | .priv _ => o
  | .session n => .ok n :: o

/-- A register whose write does nothing but set the bits that its map lets a write set or clear. -/
def State.plainAt (s : State) (b : Blk) (o : Nat) : Bool :=
  match b with
  | .time | .fuse | .map | .eth _ | .sess | .digest _ | .health _ | .dHbm _ => true
  | .core _ sub => sub == 0 || sub == 2 || sub == 3 || sub == 4 || sub == 5 || sub == 8
  | .cmdt p => o == 0x30 || (!s.cmdtOn p && o != 0 && o != 0x10 && o != 0x20)
  | .xplan _ => o != 0 && o != 0x2C
  | .upd p => o != 0 && s.updIdle p
  | .pgrp p => o % 0x40 != 0x18 || s.updIdle p
  | _ => false

/-- The path may write the register at an address: it is in its reach, no vacant core's, and the path has write access. -/
def State.writable (s : State) (path : Path) (a : Nat) (b : Blk) (o : Nat) (r : Reg) : Prop :=
  s.opens path false = true ∧ s.moveDue a = false ∧ a % 4 = 0 ∧ locate a = some (b, o) ∧ regAt a = some r ∧ r.perf = false ∧
  s.outOfReach path a = false ∧ s.mayWrite path b = true ∧ ∀ c sub, b = .core c sub → (s.physOf c).isSome = true

/-- A management access changed nothing but register words, the path's latches, its session's idle time, the answers with
the frames that carry them, and the records. -/
def MgmtOnly (s t : State) : Prop :=
  t = { s with regs := t.regs, latches := t.latches, host := t.host, out := t.out, log := t.log } ∧
  t.host = { s.host with sessions := t.host.sessions, txDue := t.host.txDue } ∧ s.recordsAdded t
/-! ### Session messages (R367) and the command table (R376) -/

/-- An open tenant session of a partition. -/
def State.tenantOf (s : State) (n p : Nat) : Prop :=
  ∃ x, s.host.sessions.find n = some x ∧ x.claim = false ∧ x.scope = .partition p

/-- An open package session whose owner is known. -/
def State.packageOf (s : State) (n : Nat) : Prop :=
  ∃ x, s.host.sessions.find n = some x ∧ x.claim = false ∧ x.scope = .package

/-- The entry at HEAD that the sequencer of a partition takes now, in the state after the privileged grants that go first
(R368, R376). -/
def State.entryNow (u : State) (p : Nat) : Option Nat :=
  let v := u.hubNat p (u.headAt p + 64) 64 * 2 ^ 512 + u.hubNat p (u.headAt p) 64
  if u.updDue p = false ∧ u.mayStep p = true ∧ 0 < (u.part p).stepping ∧ u.hubPoisoned p (u.headAt p + 64) 64 = false ∧
      u.hubPoisoned p (u.headAt p) 64 = false ∧ entryPhase v = (u.part p).phase ∧ entryValid v = true then some v
  else none

end Sys2Proof.Machine
end

