-- ==== Sys2Proof/Certificates/Slice0/Obligations.lean ====
section
/-! DEFINITION. The statements for the provers. Each docstring says which rules of the spec it formalises, and what in it
is the model's own choice. -/

open Sys2Proof Sys2Proof.Machine

/-! ### The machine as a whole -/

/-- The form of a block's step. -/
def Obligations.StepRunsFront : Prop :=
  ∀ (c : Instr) (rest : List Instr) (s : State), s.pending = c :: rest → step s = exec c { s with pending := rest }

/-- R27, R456 and the reset columns of the register maps.
Where it says more than these rules it is the model's reading: notes/assumptions/10. -/
def Obligations.ResetState : Prop :=
  State.reset.time.tsc = 0 ∧ State.reset.readWord 0x1008 = 2 ∧ State.reset.boot.phase = .selfTest ∧
  State.reset.boot.ready = false ∧ State.reset.readWord 0xB000 = 2000 ∧ State.reset.readWord 0xB004 = 600 ∧
  State.reset.readWord 0xB008 = 0x1400 ∧ State.reset.reg (.core 0 2) 4 = 1 ∧ State.reset.readWord 0x4_8000 = 0x10C ∧
  State.reset.readWord 0x2_0010 = 4 ∧ (∀ p, (State.reset.part p).st = .free) ∧
  (∀ c, State.reset.physOf c = none ∧ State.reset.core c = Core.fresh) ∧ (∀ l, (State.reset.link l).st = .off) ∧
  State.reset.host.sessions = [] ∧ State.reset.log.total = 0 ∧ State.reset.log.flight = [] ∧
  State.reset.pins = ⟨false, false, false, false⟩

/-- The model's canonical form: notes/assumptions/5. -/
def Obligations.ResetSatisfiesInv : Prop := State.reset.Inv

/-- The model's canonical form: notes/assumptions/5. -/
def Obligations.StepKeepsInv : Prop :=
  ∀ s t : State, s.Inv → step s = .next t → t.Inv

/-- The form of a block's exec. -/
def Obligations.ExecKeepsQueue : Prop :=
  ∀ (c : Instr) (s t : State), exec c s = .next t → t.pending = s.pending

/-- R8, R10: the only machine stop is a unit that does not exist; and the only refusal is of words that are another
instruction's.
Where it says more than these rules it is the model's reading: notes/assumptions/12. -/
def Obligations.WellFormedNeverFaults : Prop :=
  (∀ (c : Instr) (s : State) (f : Fault), c.wf = true → exec c s ≠ .fault f) ∧
  ∀ (c : Instr) (s : State) (r : Refusal), exec c s = .refused r → r = .otherInstruction


/-! ### Management registers, records and the beat -/

/-- R5, R6, R19, R21.
Where it says more than these rules it is the model's reading: notes/assumptions/19. -/
def Obligations.RegisterWritesComplete : Prop :=
  (∀ (path : Path) (a : Nat) (v : Word) (b : Blk) (o : Nat) (r : Reg) (s : State), s.writable path a b o r →
    s.plainAt b o = true → r.half = 0 → (s.latch path).wr = none →
    Does (.registerWrite path a v) s fun t =>
      t.regWord a = ((s.regWord a &&& ~~~BitVec.ofNat 32 r.rw) ||| (v &&& BitVec.ofNat 32 r.rw)) &&&
        ~~~(v &&& BitVec.ofNat 32 r.w1c) ∧
      (∀ k, k ≠ a → t.regWord k = s.regWord k) ∧ t.out = okTo path s.out ∧ t.log = s.log ∧ MgmtOnly s t) ∧
  (∀ (n a : Nat) (v : Word) (s : State), a % 4 = 0 →
    exec (.regwrite n a 4 v) s = exec (.registerWrite (.session n) a v) s) ∧
  (∀ (n a width : Nat) (v : Word) (s : State), s.opens (.session n) false = true → width ≠ 4 ∨ a % 4 ≠ 0 →
    Does (.regwrite n a width v) s fun t =>
      t.out = .refused n :: s.out ∧ t.regs = s.regs ∧ (t.latch (.session n)).wr = none ∧
      t.log.flight = s.log.flight ++ [⟨s.time.tsc, s.source (unitSeq (s.servingHub a)), 0x0101, 0, 0xF, false, false,
        payload [(0, a), (32, v.toNat), (64, 1), (65, 0), (66, n), (98, 0)]⟩] ∧ MgmtOnly s t)

/-- R20. -/
def Obligations.SixtyFourBitWritesAreOneUpdate : Prop :=
  (∀ (path : Path) (a : Nat) (v : Word) (b : Blk) (o : Nat) (r : Reg) (s : State), s.writable path a b o r → r.half = 1 →
    Does (.registerWrite path a v) s fun t =>
      t.regs = s.regs ∧ t.parts = s.parts ∧ (t.latch path).wr = some (a + 4, v) ∧
      (∀ q, pathKey q ≠ pathKey path → t.latch q = s.latch q) ∧ MgmtOnly s t) ∧
  (∀ (path : Path) (a : Nat) (v w : Word) (b : Blk) (o : Nat) (r q : Reg) (s : State), s.writable path a b o r →
    s.plainAt b o = true ∨ (∃ p, b = .xplan p ∧ o = 0x2C) → r.half = 2 → r.rw = 0xFFFF_FFFF → 4 ≤ a →
    regAt (a - 4) = some q → q.rw = 0xFFFF_FFFF → r.w1c = 0 → q.w1c = 0 → (s.latch path).wr = some (a, w) →
    Does (.registerWrite path a v) s fun t =>
      t.regWord (a - 4) = w ∧ t.regWord a = v ∧ (∀ k, k ≠ a → k ≠ a - 4 → t.regWord k = s.regWord k) ∧
      (t.latch path).wr = none ∧
      ∀ p, b = .xplan p → o = 0x2C → (t.part p).ex.stepPend = some (s.time.tsc.toNat / 2048 + 1) ∧
        t.reg64 (.xplan p) 0x28 = w.toNat + 2 ^ 32 * v.toNat) ∧
  (∀ (path : Path) (a h : Nat) (v w : Word) (s t : State), (s.latch path).wr = some (h, w) → a ≠ h →
    exec (.registerWrite path a v) s = .next t → s.opens path false = true → s.moveDue a = false →
    (t.latch path).wr = none ∨ (t.latch path).wr = some (a + 4, v)) ∧
  (∀ (n a width : Nat) (s t : State), s.opens (.session n) true = true → s.moveDue a = false →
    exec (.regread n a width) s = .next t →
    (t.latch (.session n)).wr = none) ∧
  (∀ (path : Path) (a : Nat) (r : Reg) (s t : State), s.opens path true = true → regAt a = some r → r.half = 1 →
    s.moveDue a = false → exec (.lowWordRead path a) s = .next t → (t.latch path).wr = none) ∧
  (∀ (path : Path) (a : Nat) (v : Word) (b : Blk) (o : Nat) (r : Reg) (s : State), s.writable path a b o r →
    s.plainAt b o = true ∨ (∃ p, b = .xplan p ∧ o = 0x2C) → r.half = 2 → 4 ≤ a → (∀ w, (s.latch path).wr ≠ some (a, w)) →
    Does (.registerWrite path a v) s fun t => t.regWord (a - 4) = s.regWord (a - 4))

/-- R19, R21. A session's idle time starts again before the read (`arrived`).
Where it says more than these rules it is the model's reading: notes/assumptions/8, 17, 19. -/
def Obligations.RegisterReadsComplete : Prop :=
  (∀ (path : Path) (a : Nat) (r : Reg) (s : State), s.opens path true = true → regAt a = some r → r.half = 1 →
    s.moveDue a = false → s.outOfReach path a = false →
    Does (.lowWordRead path a) s fun t =>
      t.out = .value path a ((s.arrived path).readWord a) :: s.out ∧
      (t.latch path).rd = some (a + 4, (s.arrived path).readWord (a + 4)) ∧
      (∀ k, k ≠ 0xA010 → k ≠ 0xA014 → t.regWord k = s.regWord k) ∧ MgmtOnly s t) ∧
  (∀ (n a : Nat) (r : Reg) (s : State), a % 4 = 0 → regAt a = some r → r.half = 1 →
    exec (.regread n a 4) s = exec (.lowWordRead (.session n) a) s) ∧
  (∀ (path : Path) (a : Nat) (r : Reg) (s : State), s.opens path true = true → regAt a = some r → r.half = 1 →
    s.moveDue a = false → s.outOfReach path a = true →
    Does (.lowWordRead path a) s fun t => t.out = .value path a 0 :: s.out ∧ t.regs = s.regs ∧ MgmtOnly s t) ∧
  (∀ (n a : Nat) (s : State), s.opens (.session n) true = true → s.moveDue a = false → a % 4 = 0 →
    s.outOfReach (.session n) a = false →
    (∀ r, regAt a = some r → r.half ≠ 1) →
    Does (.regread n a 4) s fun t =>
      t.out = .value (.session n) a (match regAt a, (s.latch (.session n)).rd with
        | none, _ => 0
        | some _, some (h, w) => if h = a then w else (s.arrived (.session n)).readWord a
        | some _, none => (s.arrived (.session n)).readWord a) :: s.out ∧
      (t.latch (.session n)).rd = none ∧ (∀ k, k ≠ 0xA010 → k ≠ 0xA014 → t.regWord k = s.regWord k) ∧ MgmtOnly s t) ∧
  (∀ (n a : Nat) (s : State), s.opens (.session n) true = true → s.moveDue a = false → a % 4 = 0 →
    s.outOfReach (.session n) a = true →
    Does (.regread n a 4) s fun t =>
      t.out = .value (.session n) a 0 :: s.out ∧ t.regs = s.regs ∧
      t.log.flight = s.log.flight ++ [⟨s.time.tsc, s.source (unitSeq (s.servingHub a)), 0x0103, 0, 0xF, false, false,
        payload [(0, a), (32, 0), (64, 0), (65, 0), (66, n), (98, 0)]⟩] ∧ MgmtOnly s t) ∧
  (∀ (n a width : Nat) (s : State), s.opens (.session n) true = true → s.moveDue a = false → width ≠ 4 ∨ a % 4 ≠ 0 →
    Does (.regread n a width) s fun t =>
      t.out = .refused n :: s.out ∧ t.regs = s.regs ∧
      t.log.flight = s.log.flight ++ [⟨s.time.tsc, s.source (unitSeq (s.servingHub a)), 0x0101, 0, 0xF, false, false,
        payload [(0, a), (32, 0), (64, 0), (65, 0), (66, n), (98, 0)]⟩] ∧ MgmtOnly s t)

/-- R23. -/
def Obligations.PackageIdLocks : Prop :=
  (∀ (path : Path) (v : Word) (s : State), s.opens path false = true → s.mayWrite path .pkg = true →
    (s.regWord 0x10).getLsbD 31 = false →
    Does (.pkgId path v) s fun t =>
      bits (t.regWord 0x10) 13 0 = bits v 13 0 ∧ (t.regWord 0x10).getLsbD 30 = true ∧
      (t.regWord 0x10).getLsbD 31 = v.getLsbD 31 ∧ (∀ k, k ≠ 0x10 → t.regWord k = s.regWord k) ∧ t.mem = s.mem) ∧
  (∀ (path : Path) (v : Word) (s : State), s.opens path false = true → (s.regWord 0x10).getLsbD 31 = true →
    Does (.pkgId path v) s fun t =>
      t.regs = s.regs ∧ ∃ r, t.log.flight = s.log.flight ++ [r] ∧ r.code = 0x0104 ∧ r.sev = 0 ∧ r.part = 0xF ∧
        r.src = s.source (unitSeq (s.servingHub 0x10))) ∧
  (∀ (p : Nat) (s t : State), exec (.partitionReset p) s = .next t → t.regWord 0x10 = s.regWord 0x10)

/-- R34, R39, R233. -/
def Obligations.SpecialRegisterWritesComplete : Prop :=
  (∀ (path : Path) (a : Nat) (b : Blk) (o : Nat) (r : Reg) (s : State), s.opens path false = true → a % 4 = 0 → 4 ≤ a →
    locate a = some (b, o) → 4 ≤ o → regAt a = some r → r.perf = true → r.half = 2 → b.base + o = a →
    s.outOfReach path a = false → s.moveDue a = false → s.mayWrite path b = true →
    (∀ c sub, b = .core c sub → (s.physOf c).isSome = true) →
    Does (.ovfClear path a) s fun t =>
      t.reg64 b (o - 4) = 0 ∧ (∀ n, n < perfMax → (t.count b (o - 4) n).reg64 b (o - 4) = n) ∧
      (∀ k, k ≠ a → k ≠ a - 4 → t.regWord k = s.regWord k) ∧ MgmtOnly s t) ∧
  (∀ (path : Path) (hub : Nat) (v : Word) (s : State), hub < 2 → s.opens path false = true →
    s.outOfReach path (0x300C + 0x1000 * hub) = false →
    Does (.evlogSel path hub v) s fun t =>
      (∀ i, i < 8 → (t.regWord (0x3010 + 0x1000 * hub + 4 * i)).toNat =
        (match s.log.pick v with | some r => r.image | none => 0) / 2 ^ (32 * i) % 2 ^ 32) ∧
      (∀ k, k < 0x300C + 0x1000 * hub ∨ 0x3030 + 0x1000 * hub ≤ k → t.regWord k = s.regWord k) ∧ MgmtOnly s t) ∧
  (∀ (path : Path) (c : Nat) (v : Word) (s : State), c < 1280 → v.getLsbD 1 = true → s.opens path false = true →
    s.outOfReach path ((Blk.core c 7).base) = false → s.moveDue ((Blk.core c 7).base) = false → (s.physOf c).isSome = true →
    Does (.amapRcInval path c v) s fun t =>
      (t.core c).rc = [] ∧ t.core c = { s.core c with rc := [] } ∧ (∀ k, k ≠ c → t.core k = s.core k) ∧
      (∀ k, k ≠ (Blk.core c 7).base → t.regWord k = s.regWord k) ∧ t.mem = s.mem) ∧
  (∀ (path : Path) (c : Nat) (v : Word) (s : State), c < 1280 → v.getLsbD 31 = true → s.opens path false = true →
    s.outOfReach path ((Blk.core c 7).base + 4) = false → s.moveDue ((Blk.core c 7).base + 4) = false →
    (s.physOf c).isSome = true →
    Does (.amapFaultClear path c v) s fun t =>
      t.reg (.core c 7) 4 = 0 ∧ t.reg64 (.core c 7) 8 = 0 ∧
      (∀ k, k < (Blk.core c 7).base + 4 ∨ (Blk.core c 7).base + 16 ≤ k → t.regWord k = s.regWord k) ∧ MgmtOnly s t)

/-- R30, R36, R37.
Where it says more than these rules it is the model's reading: notes/assumptions/25. -/
def Obligations.BeatsAndRecordsComplete : Prop :=
  (∀ (b : BoundaryIn) (s : State), s.boot.pll = true →
    Does (.beatBoundary b) s fun t => t.time.tsc = BitVec.ofNat 64 ((s.time.tsc.toNat / 2048 + 1) * 2048) ∧
      t.time.tsc.toNat % 2048 = 0 ∧ t.mf.leaked = [] ∧ t.host.dropRec = [] ∧ t.pins.syncRec = false) ∧
  (∀ (i : Nat) (r : Rec) (s : State), s.log.flight[i]? = some r → s.recHeld r = false →
    Does (.eventRecord i) s fun t => t.log.flight = s.log.flight.eraseIdx i ∧
      (s.time.tsc.toNat / 2048 < r.beat + 2 → t.log.batch = s.log.batch ++ [r] ∧ t.log.ring = s.log.ring ∧
        t.log.total = s.log.total) ∧
      (r.beat + 2 ≤ s.time.tsc.toNat / 2048 → t.log.batch = s.log.batch ∧ t.log.total = s.log.total + 1 ∧
        ∃ q l, t.log.ring = q :: l ∧ q = { r with late := true, ret := q.ret })) ∧
  (∀ l : List Rec, (sortRecs l).Perm l ∧
    (sortRecs l).Pairwise (fun a b => a.tsc.toNat < b.tsc.toNat ∨ a.tsc = b.tsc ∧ a.src ≤ b.src) ∧
    ∀ tsc src, ((sortRecs l).filter fun r => r.tsc == tsc && r.src == src) = l.filter fun r => r.tsc == tsc && r.src == src)


/-! ### Thread groups: admission, start, the guard, watchdogs, release -/

/-- R40, R41, R43 to R45.
Where it says more than these rules it is the model's reading: notes/assumptions/33. -/
def Obligations.BlockAdmissionStartsTheNextBlock : Prop :=
  ∀ (p c : Nat) (g : Grant) (r : Room) (s : State), p < 8 → c < 1280 → (s.part p).nextGrant = some g →
    (s.part p).afterHeld g = false → s.qualifies (g.desc p c) c = true →
    (s.displacedOn (dieOfCore c)).all (fun b => !s.qualifies b.2.2.desc c) = true →
    (c ∉ s.cinch.gated ∨ ∀ k, k < 1280 → k ∉ s.cinch.gated → s.qualifies { g.desc p c with home := k } k = false) →
    (s.core c).room (g.desc p c) = some r →
    Does (.blockAdmission p c) s fun t =>
      (∃ b, t.block c r.slot = some b ∧ b.desc = g.desc p c ∧
        b.st = (if g.launch.csize ≤ 1 then BState.running else BState.admitted) ∧ b.gslots = r.gslots ∧
        b.granules = r.granules ∧ b.pageTab = r.pages ∧ b.spad = [] ∧ b.wset = [] ∧ b.log = [] ∧ b.stopped = false) ∧
      (∀ i n, r.gslots[i]? = some n → ∃ k, t.group c n = some k ∧ k.bslot = r.slot ∧ k.gidx = i ∧ k.hold = .none ∧
        k.sreg 0 = BitVec.ofNat 64 ((g.desc p c).x + (g.desc p c).y * 2 ^ 32 + (g.desc p c).z * 2 ^ 48) ∧
        k.sreg 1 = BitVec.ofNat 64 (g.launch.grant.toNat + i * 2 ^ 32 + (g.launch.groups - 1) * 2 ^ 37 +
          (g.nextLin % g.launch.csize) * 2 ^ 42 + (g.launch.csize - 1) * 2 ^ 46) ∧
        k.sreg 2 = BitVec.ofNat 64 (s.source c) ∧ k.sreg 3 = g.launch.args ∧ (∀ q, 4 ≤ q → k.sreg q = 0) ∧
        ∀ th, th < 32 → (k.thread th).pc = g.launch.entry ∧ (k.thread th).reg 0 = BitVec.ofNat 32 (32 * i + th) ∧
          (∀ q, q ≠ 0 → (k.thread th).reg q = 0) ∧ (k.thread th).preds = 1 ∧ (k.thread th).flags = 0 ∧
          (k.thread th).exited = false ∧ (k.thread th).wait = .none) ∧
      (t.part p).grants = (s.part p).grants.map (fun k => if k.uid = g.uid then
        { k with nextLin := k.nextLin + 1, live := k.live + 1 } else k) ∧
      (∀ k, k ≠ c → t.core k = s.core k) ∧ t = { s with cores := t.cores, parts := t.parts, mems := t.mems }

/-- R40, R44, R52, R57, R59, R60.
Where it says more than these rules it is the model's reading: notes/assumptions/28, 29, 34. -/
def Obligations.GroupEventsComplete : Prop :=
  (∀ (c slot : Nat) (b : Block) (s : State), c < 1280 → s.block c slot = some b → b.st = .admitted →
    (s.mates c slot).length = b.desc.csize →
    (∀ m, m ∈ s.liveMates c slot → ∃ k, s.block m.1 m.2 = some k ∧ k.st = .admitted ∧ k.stopped = false) →
    Does (.clusterStart c slot) s fun t =>
      (∀ m, m ∈ s.liveMates c slot → ∀ k, s.block m.1 m.2 = some k → t.block m.1 m.2 = some { k with st := .running }) ∧
      (∀ m, m ∉ s.liveMates c slot → t.block m.1 m.2 = s.block m.1 m.2) ∧
      (∀ k n, t.group k n = s.group k n) ∧ t = { s with cores := t.cores }) ∧
  (∀ (c n : Nat) (g : Group) (s : State), c < 1280 → s.group c n = some g → g.guardDue = true →
    Does (.starvationGuard c n) s fun t => ∃ g', t.group c n = some g' ∧ g' = { g with forced := g'.forced, consec := 0 } ∧
      (∀ p, g'.forced = some p → g'.issuePc = some p ∧ p ∈ g.eligible ∧ p ≠ g.lastPc ∧ ∃ w, (p, w) ∈ g.waited ∧
        ∀ e, e ∈ g.waited → e.1 ∈ g.eligible → e.1 ≠ g.lastPc → e.2 ≤ w) ∧
      ((∃ e, e ∈ g.waited ∧ e.1 ∈ g.eligible ∧ e.1 ≠ g.lastPc) → g'.forced.isSome = true) ∧
      t = { s with cores := t.cores } ∧ (∀ k, k ≠ c → t.core k = s.core k)) ∧
  (∀ (c slot : Nat) (b : Block) (w : Wd) (s : State), c < 1280 → (slot, b) ∈ (s.core c).blocks →
    s.block c slot = some b → b.st = .running → w ∈ b.wds → b.wdLimit ≤ w.count →
    (∀ e, e ∈ (s.core c).blocks → ∀ v, v ∈ e.2.wds → v.key = w.key → e = (slot, b) ∧ v = w) →
    Does (.barrierTimeout c w.key) s fun t =>
      (∃ b', t.block c slot = some b' ∧ b'.st = .stopping ∧ b'.wset = [] ∧ b'.log = b.log) ∧
      t.log.flight = s.log.flight ++ [⟨s.time.tsc, s.source b.desc.home, 0x0302, 0, b.desc.part, false, false,
        payload (b.faultFields ((s.group c w.grp).elim 0 (·.gidx)) ++ match w.key with
          | .barG _ id => [(101, id)]
          | .barB _ id => [(101, id), (105, 1)]
          | .wbeat _ _ _ => [])⟩] ∧
      (t.part b.desc.part).grants = (s.part b.desc.part).grants.map (fun k =>
        if k.uid = b.desc.uid ∧ k.fault = none then { k with fault := some 0x0302 } else k) ∧
      (∀ k, k ≠ c → t.core k = s.core k) ∧ t.mem = s.mem) ∧
  (∀ (c slot : Nat) (b : Block) (s : State), c < 1280 → s.block c slot = some b → b.st = .stopping →
    (∀ m, m ∈ s.mates c slot → ∃ k, s.block m.1 m.2 = some k ∧ k.settled = true) →
    Does (.blockStopRelease c slot) s fun t =>
      (∀ m, m ∈ s.mates c slot → t.block m.1 m.2 = none ∧ ∀ k, s.block m.1 m.2 = some k → ∀ n, n ∈ k.gslots →
        t.group m.1 n = none) ∧
      t = { s with cores := t.cores, parts := t.parts, mems := t.mems } ∧
      ∀ k, (∀ m, m ∈ s.mates c slot → m.1 ≠ k) → t.core k = s.core k)

/-! ### Lane instructions -/

/-- R77, R183 to R185: the floating-point operations of a lane, in every form and format their rows allow. `arith` names the
one thread's effect: DST gets the packed results and the flag word the reports. -/
def Obligations.LaneFloatOperationsComplete : Prop :=
  Completes .laneAdd shAdd.shape (fun x => LaneDone x [5, 6] fun th =>
    arith x (x.opA th) (x.opB .float th) 0 fun a b _ => FVal.add a b) ∧
  Completes .laneSub shSub.shape (fun x => LaneDone x [5, 6] fun th =>
    arith x (x.opA th) (x.opB .float th) 0 fun a b _ => FVal.add a b.neg) ∧
  Completes .laneMul shMul.shape (fun x => LaneDone x [5, 6] fun th =>
    arith x (x.opA th) (x.opB .float th) 0 fun a b _ => FVal.mul a b) ∧
  Completes .laneFma shFma.shape (fun x => LaneDone x [5, 6] fun th =>
    arith x (x.opA th) (x.opB .float th) (x.opC th) FVal.fma) ∧
  Completes .laneFms shFms.shape (fun x => LaneDone x [5, 6] fun th =>
    arith x (x.opA th) (x.opB .float th) (x.opC th) fun a b c => FVal.fma a b c.neg) ∧
  Completes .laneDiv shDiv.shape (fun x => LaneDone x [5, 6] fun th =>
    arith x (x.opA th) (x.opB .float th) 0 fun a b _ => FVal.div a b) ∧
  Completes .laneRcp shRcp.shape (fun x => LaneDone x [5, 6] fun th => arith x (x.opA th) 0 0 fun a _ _ => a.rcp) ∧
  Completes .laneRsqrt shRsqrt.shape (fun x => LaneDone x [5, 6] fun th => arith x (x.opA th) 0 0 fun a _ _ => a.rsqrt) ∧
  Completes .laneSqrt shSqrt.shape (fun x => LaneDone x [5, 6] fun th => arith x (x.opA th) 0 0 fun a _ _ => a.sqrt) ∧
  Completes .laneExp2 shExp2.shape (fun x => LaneDone x [5, 6] fun th => arith x (x.opA th) 0 0 fun a _ _ => a.exp2) ∧
  Completes .laneLog2 shLog2.shape (fun x => LaneDone x [5, 6] fun th => arith x (x.opA th) 0 0 fun a _ _ => a.log2)

/-- R77: the operations on 32-bit integers and bit patterns. -/
def Obligations.LaneIntegerOperationsComplete : Prop :=
  Completes .laneMov shMov.shape (fun x => LaneDone x [5, 6] fun th => .write x.dst (x.opB .float th)) ∧
  Completes .laneIadd shIadd.shape (fun x => LaneDone x [5, 6] fun th => .write x.dst (x.opA th + x.opB .int th)) ∧
  Completes .laneIsub shIsub.shape (fun x => LaneDone x [5, 6] fun th => .write x.dst (x.opA th - x.opB .int th)) ∧
  Completes .laneImul shImul.shape (fun x => LaneDone x [5, 6] fun th => .write x.dst (x.opA th * x.opB .int th)) ∧
  Completes .laneImin shImin.shape (fun x => LaneDone x [5, 6] fun th => .write x.dst
    (if x.mod = 1 then (if (x.opB .int th).toNat < (x.opA th).toNat then x.opB .int th else x.opA th)
     else (if (x.opB .int th).toInt < (x.opA th).toInt then x.opB .int th else x.opA th))) ∧
  Completes .laneImax shImax.shape (fun x => LaneDone x [5, 6] fun th => .write x.dst
    (if x.mod = 1 then (if (x.opA th).toNat < (x.opB .int th).toNat then x.opB .int th else x.opA th)
     else (if (x.opA th).toInt < (x.opB .int th).toInt then x.opB .int th else x.opA th))) ∧
  Completes .laneAnd shAnd.shape (fun x => LaneDone x [5, 6] fun th => .write x.dst (x.opA th &&& x.opB .int th)) ∧
  Completes .laneOr shOr.shape (fun x => LaneDone x [5, 6] fun th => .write x.dst (x.opA th ||| x.opB .int th)) ∧
  Completes .laneXor shXor.shape (fun x => LaneDone x [5, 6] fun th => .write x.dst (x.opA th ^^^ x.opB .int th)) ∧
  Completes .laneNot shNot.shape (fun x => LaneDone x [5, 6] fun th => .write x.dst (~~~(x.opA th))) ∧
  Completes .laneShl shShl.shape (fun x => LaneDone x [5, 6] fun th =>
    .write x.dst (x.opA th <<< ((x.opB .shift th).toNat % 32))) ∧
  Completes .laneShr shShr.shape (fun x => LaneDone x [5, 6] fun th =>
    .write x.dst (x.opA th >>> ((x.opB .shift th).toNat % 32))) ∧
  Completes .laneSar shSar.shape (fun x => LaneDone x [5, 6] fun th =>
    .write x.dst ((x.opA th).sshiftRight ((x.opB .shift th).toNat % 32))) ∧
  Completes .lanePopc shPopc.shape (fun x => LaneDone x [5, 6] fun th =>
    .write x.dst (BitVec.ofNat 32 (popCount 32 (x.opA th).toNat))) ∧
  Completes .laneClz shClz.shape (fun x => LaneDone x [5, 6] fun th =>
    .write x.dst (BitVec.ofNat 32 (if (x.opA th).toNat = 0 then 32 else 31 - (x.opA th).toNat.log2)))

/-- R77, R78, R186: choices and comparisons. min and max choose between encodings by `minNum` and `maxNum`; abs and neg
turn a NaN into the canonical NaN. -/
def Obligations.LaneSelectionsAndComparesComplete : Prop :=
  Completes .laneMin shMin.shape (fun x => LaneDone x [5, 6] fun th =>
    elementwise x (x.opA th) (x.opB .float th) minNum) ∧
  Completes .laneMax shMax.shape (fun x => LaneDone x [5, 6] fun th =>
    elementwise x (x.opA th) (x.opB .float th) maxNum) ∧
  Completes .laneAbs shAbs.shape (fun x => LaneDone x [5, 6] fun th =>
    elementwise x (x.opA th) 0 fun k a _ => if (k.decode a).isNan then k.qnan else a % 2 ^ (k.width - 1)) ∧
  Completes .laneNeg shNeg.shape (fun x => LaneDone x [5, 6] fun th =>
    elementwise x (x.opA th) 0 fun k a _ => if (k.decode a).isNan then k.qnan else a ^^^ 2 ^ (k.width - 1)) ∧
  Completes .laneSel shSel.shape (fun x => LaneDone x [5, 6] fun th => .write x.dst
    (if x.f 2 0 = 0 ∨ (x.grp.thread th).preds.getLsbD (x.f 2 0) then x.opA th else x.opB .float th)) ∧
  Completes .laneCmp shCmp.shape (fun x => LaneDone x [5, 6] fun th => { TEff.none with
    pred := some (x.f 40 38, condFloat (x.f 3 0)
      ((laneFmt x.fmt).decode ((elemsOf x.fmt (x.opA th)).headD 0))
      ((laneFmt x.fmt).decode ((elemsOf x.fmt (x.opB .float th)).headD 0))) }) ∧
  Completes .laneIcmp shIcmp.shape (fun x => LaneDone x [5, 6] fun th => { TEff.none with
    pred := some (x.f 40 38, condInt 32 (x.f 3 0) (x.opA th).toNat (x.opB .int th).toNat) })

/-- R106 to R109: each element is converted once, with the rounding of RND.
Where it says more than these rules it is the model's reading: notes/assumptions/36, 37, 38. -/
def Obligations.LaneConversionsComplete : Prop :=
  Completes .laneCvt shCvt.shape (fun x => LaneDone x [5, 6] fun th =>
    let k := cvtCount x.fmt x.dfmt
    convEff x.dfmt (elemRegs x.dst (elemBits x.dfmt)) ((List.range k).map fun j =>
      cvtElem x.fmt x.dfmt (rndField x (32 / k) j (x.grp.reg th x.rb)) x.sat
        (regElem x th x.ra (elemBits x.fmt) j))) ∧
  Completes .lanePack shPack.shape (fun x => LaneDone x [5, 6] fun th =>
    convEff x.fmt (fun l => [(x.dst, packElems 1 l)])
      [convert (elemD x.fmt) (rndField x 16 0 (x.opC th)) false x.sat (fp32.decode (x.opA th).toNat),
       convert (elemD x.fmt) (rndField x 16 1 (x.opC th)) false x.sat (fp32.decode (x.opB .float th).toNat)]) ∧
  Completes .laneUnpack shUnpack.shape (fun x => LaneDone x [5, 6] fun th => .write x.dst (BitVec.ofNat 32
    (fp32.result ((laneFmt x.fmt).decode ((elemsOf x.fmt (x.opA th)).getD x.mod 0))).1)) ∧
  Completes .laneCvtMx shCvtMx.shape (fun x => LaneDone x [5, 6] fun th =>
    if isMx x.dfmt then
      let rs := (mxSets x.fmt).map (toMxElem x th)
      { regs := [(x.rc, BitVec.ofNat 32 (rs.foldr (fun r a => r.2.2 + 256 * a) 0)),
          (x.dst, BitVec.ofNat 32 (rs.foldr (fun r a => r.1 + 256 * a) 0))]
        pred := none
        report := rs.foldl (fun a r => a ||| r.2.1) 0
        lnf := rs.any fun r => nbit r.2.1 4 }
    else
      convEff x.dfmt (fun l => [(x.dst, packElems x.dfmt l)]) ((mxSets x.dfmt).map fun set =>
        convert (elemD x.dfmt) (rndField x 16 set (x.opB .float th)) false x.sat
          (mxValue x.fmt (bits (x.opA th) (8 * set + 7) (8 * set) % 2 ^ elemBits x.fmt)
            (bits (x.opC th) (8 * set + 7) (8 * set)))))

/-- R111, R193 to R195: the operations across lanes, and the random words. -/
def Obligations.LaneCrossOperationsComplete : Prop :=
  Completes .laneShfl shShfl.shape (fun x => LaneDone x [5, 6] fun th =>
    .write x.dst ((x.grp.thread ((x.opB .int th).toNat % 32)).reg x.ra)) ∧
  Completes .laneVote shVote.shape (fun x => LaneDone x [5, 6] fun _ => .write x.dst (BitVec.ofNat 32
    (listMask (x.path.filter fun u => x.mod == 0 || (x.grp.thread u).preds.getLsbD x.mod)))) ∧
  Completes .laneRed shRed.shape (fun x => LaneDone x [5, 6] fun _ =>
    let rs := (List.range (elemsOf x.fmt 0).length).map (redElem x)
    { regs := [(x.dst, packElems x.fmt (rs.map (·.1)))]
      pred := none
      report := rs.foldl (fun a r => a ||| r.2) 0
      lnf := rs.any fun r => lnfOf (.float (laneFmt x.fmt)) r.1 r.2 }) ∧
  Completes .laneRng shRng.shape (fun x => LaneDone x [5, 6] fun th =>
    let o := philox ((x.grp.sreg (x.f 27 22)).setWidth 32) ((x.grp.sreg (x.f 27 22)).extractLsb' 32 32)
      (x.opA th) (x.opC th) ((x.grp.sreg (x.f 27 22 + 1)).setWidth 32) ((x.grp.sreg (x.f 27 22 + 1)).extractLsb' 32 32)
    { TEff.none with regs := (List.range (if x.mod = 1 then 1 else 4)).map fun j => (x.dst + j, o.getD j 0) })

/-- R152 to R154, R159 to R161, R190.
Where it says more than these rules it is the model's reading: notes/assumptions/40. -/
def Obligations.LaneFlagCompressPickComplete : Prop :=
  (∀ (i : Issue) (o s : State) (x : Iss), o.issues i shFlag.shape x s →
    s.reportsDue i.core i.grp = false →
    ∃ t g, exec (.laneFlag i) o = .next t ∧ t.group x.core x.gslot = some g ∧ x.wentOn g ∧
      (∀ th, th ∈ x.acting → ∀ r, (g.thread th).reg r = if r = x.dst then (x.grp.thread th).flags
        else (x.grp.thread th).reg r) ∧
      (∀ th, th ∈ x.acting → (g.thread th).flags = (if x.mod = 1 then 0 else (x.grp.thread th).flags) ∧
        (g.thread th).preds = (x.grp.thread th).preds) ∧
      (∀ th, th ∉ x.acting → (g.thread th).same (x.grp.thread th)) ∧
      t.block x.core x.bslot = some x.blk ∧ OnlyGroup x [5, 6] s t) ∧
  Completes .laneCmp24 shCmp24.shape (fun x s t =>
    LaneDone x [4, 5, 6] (fun th => { TEff.none with
      regs := (compress x th).1, report := if 0 < (compress x th).2 then fSDROP else 0 }) s t ∧
    t.reg (.core x.core 4) 4 = s.reg (.core x.core 4) 4 |||
      (if x.acting.all fun th => (compress x th).2 == 0 then 0 else 1)) ∧
  Completes .lanePick shPick.shape (fun x s t => ∃ ranked : List Entry,
    ranked.IsChain (fun a b => b.above a = false) ∧
    ranked.Perm (((List.range (x.mod + 1)).filterMap fun th =>
        if (x.grp.reg th (x.rc + 1)).toNat = emptyPos then none
        else some (Entry.mk (x.grp.reg th x.rc).toNat (x.grp.reg th (x.rc + 1)).toNat th)) ++
      x.acting.flatMap fun th =>
        ((candidates x th).zip (List.range 2)).map fun c => Entry.mk c.1.1 c.1.2 (32 + 2 * th + c.2)) ∧
    LaneDoneBy x [3, 5, 6] ((List.range 32).filter fun th => th ≤ x.mod || x.acting.contains th) (fun th =>
      { TEff.none with
        regs := match (if th ≤ x.mod then ranked[th]? else none) with
          | some e => [(x.dst, BitVec.ofNat 32 (canonical fp32 e.val)), (x.dst + 1, BitVec.ofNat 32 e.pos)]
          | none => [(x.dst, 0x7FC0_0000), (x.dst + 1, 0xFFFF_FFFF)]
        report := if x.acting.contains th && (candidates x th).any (fun c => (fp32.decode c.1).isNan) then fNV else 0 })
      s t)


/-! ### Scalar instructions -/

/-- R79, R80, R198: the arithmetic of the scalar unit. It acts by the predicate of the path's lowest thread (R72) and reports
no flag. -/
def Obligations.ScalarArithmeticCompletes : Prop :=
  Completes .scalarMov shSMov.shape (fun x => ScalarDone x [6] (x.wroteS (x.byType (fun _ b => b) (fun _ b => b)))) ∧
  Completes .scalarAdd shSAdd.shape (fun x => ScalarDone x [6] (x.wroteS
    (if x.sType = 2 then x.byFloat FVal.add else x.byType (· + ·) (· + ·)))) ∧
  Completes .scalarSub shSSub.shape (fun x => ScalarDone x [6] (x.wroteS
    (if x.sType = 2 then x.byFloat (fun a b => FVal.add a b.neg) else x.byType (· - ·) (· - ·)))) ∧
  Completes .scalarMul shSMul.shape (fun x => ScalarDone x [6] (x.wroteS
    (if x.sType = 2 then x.byFloat FVal.mul else x.byType (· * ·) (· * ·)))) ∧
  Completes .scalarAnd shSAnd.shape (fun x => ScalarDone x [6] (x.wroteS (x.byType (· &&& ·) (· &&& ·)))) ∧
  Completes .scalarOr shSOr.shape (fun x => ScalarDone x [6] (x.wroteS (x.byType (· ||| ·) (· ||| ·)))) ∧
  Completes .scalarXor shSXor.shape (fun x => ScalarDone x [6] (x.wroteS (x.byType (· ^^^ ·) (· ^^^ ·)))) ∧
  Completes .scalarShl shSShl.shape (fun x => ScalarDone x [6] (x.wroteS
    (x.byType (fun a b => a <<< (b.toNat % 64)) (fun a b => a <<< (b.toNat % 32))))) ∧
  Completes .scalarShr shSShr.shape (fun x => ScalarDone x [6] (x.wroteS
    (x.byType (fun a b => a >>> (b.toNat % 64)) (fun a b => a >>> (b.toNat % 32))))) ∧
  Completes .scalarSar shSSar.shape (fun x => ScalarDone x [6] (x.wroteS
    (x.byType (fun a b => a.sshiftRight (b.toNat % 64)) (fun a b => a.sshiftRight (b.toNat % 32))))) ∧
  Completes .scalarMin shSMin.shape (fun x => ScalarDone x [6] (x.wroteS
    (if x.sType = 2 then BitVec.ofNat 64 (minNum fp32 (x.valA.setWidth 32).toNat (x.valB.setWidth 32).toNat)
     else x.byType (fun a b => if b.toInt < a.toInt then b else a) (fun a b => if b.toInt < a.toInt then b else a)))) ∧
  Completes .scalarMax shSMax.shape (fun x => ScalarDone x [6] (x.wroteS
    (if x.sType = 2 then BitVec.ofNat 64 (maxNum fp32 (x.valA.setWidth 32).toNat (x.valB.setWidth 32).toNat)
     else x.byType (fun a b => if a.toInt < b.toInt then b else a) (fun a b => if a.toInt < b.toInt then b else a)))) ∧
  Completes .scalarUmin shSUmin.shape (fun x => ScalarDone x [6] (x.wroteS
    (x.byType (fun a b => if b.toNat < a.toNat then b else a) (fun a b => if b.toNat < a.toNat then b else a)))) ∧
  Completes .scalarUmax shSUmax.shape (fun x => ScalarDone x [6] (x.wroteS
    (x.byType (fun a b => if a.toNat < b.toNat then b else a) (fun a b => if a.toNat < b.toNat then b else a)))) ∧
  Completes .scalarFma shSFma.shape (fun x => ScalarDone x [6] (x.wroteS
    (x.byFloat fun a b => FVal.fma a b (fp32.decode ((x.grp.sreg x.sDst).setWidth 32).toNat))))

/-- R80, R104, R199.
Where it says more than these rules it is the model's reading: notes/assumptions/6. -/
def Obligations.ScalarCompareConvertLaneAccessComplete : Prop :=
  Completes .scalarCmp shSCmp.shape (fun x s t => ∃ g, t.group x.core x.gslot = some g ∧ x.wentOn g ∧
    (∀ r, g.sreg r = x.grp.sreg r) ∧
    (∀ th n, (g.thread th).pred n =
      if x.acts = true ∧ th ∈ x.path ∧ n = x.f 42 40 ∧ n ≠ 0 then
        (if x.sType = 2 then condFloat x.sCond (fp32.decode (x.valA.setWidth 32).toNat) (fp32.decode (x.valB.setWidth 32).toNat)
         else condInt (typeBits x.sType) x.sCond (typed x.sType x.valA) (typed x.sType x.valB))
      else (x.grp.thread th).pred n) ∧
    (∀ th r, (g.thread th).reg r = (x.grp.thread th).reg r) ∧
    (∀ th, (g.thread th).flags = (x.grp.thread th).flags) ∧
    t.block x.core x.bslot = some x.blk ∧ OnlyGroup x [6] s t) ∧
  Completes .scalarCvt shSCvt.shape (fun x => ScalarDone x [6] (x.wroteS
    (if x.sCond = 2 then
       (if x.sType = 2 then BitVec.ofNat 64 (if (scalarVal 2 x.valA).isNan then fp32.qnan else (x.valA.setWidth 32).toNat)
        else BitVec.ofNat 64 (fp32.result (scalarVal x.sType x.valA)).1)
     else toIntType x.sCond (scalarVal x.sType x.valA)))) ∧
  Completes .rdlane shRdlane.shape (fun x => ScalarDone x [6] (x.wroteS
    (((x.grp.thread (x.valB.toNat % 32)).reg x.sG).setWidth 64))) ∧
  Completes .wrlane shWrlane.shape (fun x s t => ∃ g, t.group x.core x.gslot = some g ∧ x.wentOn g ∧
    (∀ r, g.sreg r = x.grp.sreg r) ∧
    (∀ th r, (g.thread th).reg r =
      if x.acts = true ∧ th = x.valB.toNat % 32 ∧ r = x.sG then x.valA.setWidth 32 else (x.grp.thread th).reg r) ∧
    (∀ th, (g.thread th).preds = (x.grp.thread th).preds ∧ (g.thread th).flags = (x.grp.thread th).flags) ∧
    t.block x.core x.bslot = some x.blk ∧ OnlyGroup x [6] s t)


/-! ### Control, synchronisation and system instructions -/

/-- R72, R86, R88. An exit can complete barriers (R53), so only its own threads' exit and registers are said here. -/
def Obligations.ControlInstructionsComplete : Prop :=
  Completes .nop shNop (fun x => ScalarDone x [] x.grp.sreg) ∧
  Completes .bra shBra (fun x => BranchDone x (x.pc + BitVec.ofInt 64 (8 * toSigned 32 (x.f 45 14))) x.grp.sreg) ∧
  (∀ (i : Issue) (o s : State) (x : Iss), o.issues i shJmp x s →
    (x.acting = [] ∨ (x.grp.sreg (x.f 45 40)).toNat % 8 = 0) →
    ∃ t, exec (.jmp i) o = .next t ∧ BranchDone x (x.grp.sreg (x.f 45 40)) x.grp.sreg s t) ∧
  Completes .call shCall (fun x => BranchDone x (x.pc + BitVec.ofInt 64 (8 * toSigned 32 (x.f 45 14)))
    (fun r => if x.acting ≠ [] ∧ r = x.f 13 8 then x.next else x.grp.sreg r)) ∧
  Completes .exit shExit (fun x s t => ∃ g, t.group x.core x.gslot = some g ∧
    (∀ th, (g.thread th).exited = (x.acting.contains th || (x.grp.thread th).exited)) ∧
    (∀ th, (∀ r, (g.thread th).reg r = (x.grp.thread th).reg r) ∧ (g.thread th).preds = (x.grp.thread th).preds ∧
      (g.thread th).flags = (x.grp.thread th).flags) ∧
    (∀ r, g.sreg r = x.grp.sreg r) ∧ OnlyCore x.core [] s t)

/-- R56, R59, R60, R88, R93, R140, R141: the own effect of trap, and where three other instructions trap. -/
def Obligations.PreciseFaultsAreRaised : Prop :=
  (∀ (i : Issue) (o s : State) (x : Iss), o.issues i shJmp x s → x.acting ≠ [] →
      (x.grp.sreg (x.f 45 40)).toNat % 8 ≠ 0 →
      ∃ t, exec (.jmp i) o = .next t ∧ Faulted x 0x0402 [(101, (x.grp.sreg (x.f 45 40)).toNat % 8)] s t) ∧
  (∀ (i : Issue) (o s : State) (x : Iss) (th id : Nat), o.issues i shBarG x s →
      th ∈ x.grp.alive → (x.grp.thread th).wait = .barB id →
      (∀ u, u ∈ x.grp.alive → (x.grp.thread u).wait.barrier = none ∨ (x.grp.thread u).wait = .barB id) →
      ∃ t, exec (.barG i) o = .next t ∧
        Faulted x 0x0301 [(101, x.f 45 42), (105, 0), (106, id), (110, 1)] s t) ∧
  (Completes .trap shTrap fun x s t =>
      if x.acts = true then Faulted x 0x0403 [(101, x.f 33 18)] s t else ScalarDone x [] x.grp.sreg s t) ∧
  (∀ (r : (Issue → Instr) × Shape), r ∈ [(.mmaT, shMma 0 false), (.mmaQ, shMma 2 true), (.mmaDrain, shDrain)] →
      ∀ (i : Issue) (o s : State) (x : Iss), o.issues i r.2 x s → x.path.length < 32 →
        ∃ t, exec (r.1 i) o = .next t ∧ Faulted x 0x0601 [(101, x.path.length), (107, r.2.opc)] s t)

/-- R53 to R56. -/
def Obligations.BarrierArrivalsWaitOrComplete : Prop :=
  (∀ (i : Issue) (o s : State) (x : Iss), o.issues i shBarG x s →
    (∀ th, th ∈ x.grp.alive → (x.grp.thread th).wait.barrier = none ∨
      (x.grp.thread th).wait = .barG (x.f 45 42)) →
    ∃ t g, exec (.barG i) o = .next t ∧ t.group x.core x.gslot = some g ∧ OnlyCore x.core [] s t ∧
      (∀ th r, (g.thread th).reg r = (x.grp.thread th).reg r) ∧
      if (∀ th, th ∈ x.grp.alive → th ∈ x.path ∨ (x.grp.thread th).wait = .barG (x.f 45 42)) then
        ∀ th, th ∈ x.grp.alive → (g.thread th).wait = .none ∧ (g.thread th).pc = (x.grp.thread th).pc + 8
      else ∀ th, th ∈ x.path → (g.thread th).wait = .barG (x.f 45 42) ∧ (g.thread th).pc = x.pc) ∧
  (∀ (i : Issue) (o s : State) (x : Iss), o.issues i shBarB x s → x.gslot ∈ x.blk.gslots →
    (∀ th, th ∈ x.grp.alive → (x.grp.thread th).wait.barrier = none ∨
      (x.grp.thread th).wait = .barB (x.f 45 42)) →
    ∃ t g, exec (.barB i) o = .next t ∧ t.group x.core x.gslot = some g ∧ OnlyCore x.core [] s t ∧
      (∀ th r, (g.thread th).reg r = (x.grp.thread th).reg r) ∧
      if (∀ th, th ∈ x.grp.alive → th ∈ x.path ∨ (x.grp.thread th).wait = .barB (x.f 45 42)) ∧
          (∀ q, q ∈ x.blk.gslots → q ≠ x.gslot → ∀ k, s.group x.core q = some k →
            ∀ th, th ∈ k.alive → (k.thread th).wait = .barB (x.f 45 42)) ∧
          (∀ q, q ∈ x.blk.gslots → ∀ k, s.group x.core q = some k → k.ended = false → s.groupBusy x.core q = false) then
        ∀ th, th ∈ x.grp.alive → (g.thread th).wait = .none ∧ (g.thread th).pc = (x.grp.thread th).pc + 8
      else ∀ th, th ∈ x.path → (g.thread th).wait = .barB (x.f 45 42) ∧ (g.thread th).pc = x.pc)

/-- R221. -/
def Obligations.FenceCompletesByScope : Prop :=
  ∀ (i : Issue) (o s : State) (x : Iss), o.issues i shFence x s →
    s.groupBusy i.core i.grp = false →
    ∃ t, exec (.fence i) o = .next t ∧
      if x.f 41 40 ≤ 1 then ScalarDone x [] x.grp.sreg s t
      else (∃ g, t.group x.core x.gslot = some g ∧ x.wentOn g ∧ g.hold = .fence (x.f 41 40) none ∧
          (∀ r, g.sreg r = x.grp.sreg r) ∧ (∀ th, (g.thread th).same (x.grp.thread th))) ∧
        t.block x.core x.bslot = some { x.blk with trig := some (.release (x.f 41 40)) } ∧ OnlyGroup x [] s t

/-- R28, R87, R89, R90. The tick of the beat at which tsc executes is the sender's, counted by the reference; the TSC is a tick
beside it where slewing adds or withholds one (notes/assumptions/27). -/
def Obligations.TimeAndAddressReadsComplete : Prop :=
  (∀ (i : Issue) (tick : Nat) (o s : State) (x : Iss), o.issues i shTsc x s →
    ∃ t, exec (.tsc i tick) o = .next t ∧
      t.time = { s.time with tsc := t.time.tsc } ∧ s.time.tsc.toNat ≤ t.time.tsc.toNat ∧
      t.time.tsc.toNat = max (s.time.tsc.toNat / 2048 * 2048 +
        if tick % 2048 = 0 then 0 else min 2047 ((tick % 2048 : Nat) + s.time.slew).toNat) s.time.tsc.toNat ∧
      ScalarDone x [] (x.wroteS t.time.tsc) { s with time := t.time } t) ∧
  Completes .beat shBeat (fun x s => ScalarDone x [] (x.wroteS (BitVec.ofNat 64 (s.time.tsc.toNat / 2048))) s) ∧
  Completes .rdpc shRdpc (fun x => ScalarDone x [] (x.wroteS x.pc)) ∧
  (∀ (i : Issue) (o s : State) (x : Iss), o.issues i shWbeat x s →
    (x.acts = false ∨ (x.grp.sreg (x.f 39 34)).toNat ≤ s.time.tsc.toNat / 2048) →
    ∃ t, exec (.wbeat i) o = .next t ∧ ScalarDone x [] x.grp.sreg s t) ∧
  (∀ (core grp : Nat) (pc : DWord) (s : State) (k : Group), core < 1280 → s.group core grp = some k →
    (∃ th b, (k.threads[th]?).isSome ∧ (k.thread th).exited = false ∧ (k.thread th).pc = pc ∧
      (k.thread th).wait = .wbeat b ∧ b.toNat ≤ s.time.tsc.toNat / 2048) →
    ∃ t g, exec (.wbeatRelease core grp pc) s = .next t ∧ t.group core grp = some g ∧ OnlyCore core [] s t ∧
      ∀ th, (k.threads[th]?).isSome → g.thread th =
        if (k.thread th).exited = false ∧ (k.thread th).pc = pc ∧
            (∃ b, (k.thread th).wait = .wbeat b ∧ b.toNat ≤ s.time.tsc.toNat / 2048)
        then { k.thread th with wait := .none, pc := pc + 8 } else k.thread th)

/-- Every issue command of one operand with the shape of its row. -/
def issueRows : List ((Issue → Instr) × Shape) :=
  [(.laneMov, shMov.shape), (.laneAdd, shAdd.shape), (.laneSub, shSub.shape), (.laneMul, shMul.shape),
   (.laneFma, shFma.shape), (.laneFms, shFms.shape), (.laneMin, shMin.shape), (.laneMax, shMax.shape),
   (.laneAbs, shAbs.shape), (.laneNeg, shNeg.shape), (.laneCmp, shCmp.shape), (.laneSel, shSel.shape),
   (.laneCvt, shCvt.shape), (.laneCvtMx, shCvtMx.shape), (.lanePack, shPack.shape), (.laneUnpack, shUnpack.shape),
   (.laneIadd, shIadd.shape), (.laneIsub, shIsub.shape), (.laneImul, shImul.shape), (.laneImin, shImin.shape),
   (.laneImax, shImax.shape), (.laneIcmp, shIcmp.shape), (.laneAnd, shAnd.shape), (.laneOr, shOr.shape),
   (.laneXor, shXor.shape), (.laneNot, shNot.shape), (.laneShl, shShl.shape), (.laneShr, shShr.shape),
   (.laneSar, shSar.shape), (.lanePopc, shPopc.shape), (.laneClz, shClz.shape), (.laneRcp, shRcp.shape),
   (.laneRsqrt, shRsqrt.shape), (.laneSqrt, shSqrt.shape), (.laneExp2, shExp2.shape), (.laneLog2, shLog2.shape),
   (.laneDiv, shDiv.shape), (.laneShfl, shShfl.shape), (.laneVote, shVote.shape), (.laneRed, shRed.shape),
   (.laneFlag, shFlag.shape), (.laneRng, shRng.shape), (.laneCmp24, shCmp24.shape), (.lanePick, shPick.shape),
   (.scalarMov, shSMov.shape), (.scalarAdd, shSAdd.shape), (.scalarSub, shSSub.shape), (.scalarMul, shSMul.shape),
   (.scalarAnd, shSAnd.shape), (.scalarOr, shSOr.shape), (.scalarXor, shSXor.shape), (.scalarShl, shSShl.shape),
   (.scalarShr, shSShr.shape), (.scalarSar, shSSar.shape), (.scalarMin, shSMin.shape), (.scalarMax, shSMax.shape),
   (.scalarUmin, shSUmin.shape), (.scalarUmax, shSUmax.shape), (.scalarCmp, shSCmp.shape), (.scalarFma, shSFma.shape),
   (.scalarCvt, shSCvt.shape), (.rdlane, shRdlane.shape), (.wrlane, shWrlane.shape),
   (.mmaT, shMma 0 false), (.mmaS, shMmaS), (.mmaQ, shMma 2 true), (.smma, shSmma), (.mmaDrain, shDrain),
   (.ld, loadShape 0 false), (.st, storeShape 1 false), (.ldAcq, loadShape 2 true), (.stRel, storeShape 3 true),
   (.atom, shAtom), (.ldS, shLdS), (.prefetch, shPrefetch), (.bgather, shBob 8), (.bmerge, shBob 9),
   (.dmaCp, shDma 0 false), (.dmaFill, shDma 1 true),
   (.dmaWait, shDmaWait), (.dmaPoll, shDmaPoll), (.nop, shNop), (.bra, shBra), (.jmp, shJmp), (.call, shCall),
   (.exit, shExit), (.barG, shBarG), (.barB, shBarB), (.fence, shFence), (.beat, shBeat), (.wbeat, shWbeat),
   (.trap, shTrap), (.rdpc, shRdpc)]

/-- R91, R93. -/
def Obligations.IllegalInstructionsFault : Prop :=
  ∀ r, r ∈ issueRows → ∀ (i : Issue) (o s : State) (x : Iss), o.fetches i x s →
    x.cls = r.2.cls → x.opc = r.2.opc →
    (x.headerOk && r.2.legal x && (r.2.gs x).all spanOk) = false →
    ∃ t, exec (r.1 i) o = .next t ∧ Faulted x 0x0401 [(101, bits x.w0 63 46)] s t

/-- R46: the register ranges. -/
def Obligations.RegistersBeyondTheBlockFault : Prop :=
  ∀ r, r ∈ issueRows → ∀ (i : Issue) (o s : State) (x : Iss) (n : Nat), o.fetches i x s →
    x.cls = r.2.cls → x.opc = r.2.opc →
    (x.headerOk && r.2.legal x && (r.2.gs x).all spanOk) = true →
    rangeReg x.blk.desc.rpt (r.2.gs x) = some n →
    (∃ sp, sp ∈ r.2.gs x ∧ sp.1 ≤ n ∧ n < sp.1 + sp.2) ∧ x.blk.desc.rpt ≤ n ∧
    ∃ t, exec (r.1 i) o = .next t ∧ Faulted x 0x0303 [(111, n)] s t

/-- R49 and the wait of wbeat: where an instruction waits, not where it completes. What a fetch alone changes comes first (R212,
R265, R266): memory, every group and every block are as before it.
Where it says more than these rules it is the model's reading: notes/assumptions/31. -/
def Obligations.InstructionsWait : Prop :=
  (∀ (i : Issue) (o s : State) (x : Iss), o.fetches i x s → Fetched x o s) ∧
  (∀ (i : Issue) (o s : State) (x : Iss), o.issues i shWbeat x s → x.acts = true →
      s.time.tsc.toNat / 2048 < (x.grp.sreg (x.f 39 34)).toNat →
      ∃ t g b, exec (.wbeat i) o = .next t ∧ t.group x.core x.gslot = some g ∧ t.block x.core x.bslot = some b ∧
        (∀ th, th ∈ x.path → (g.thread th).wait = .wbeat (x.grp.sreg (x.f 39 34)) ∧ (g.thread th).pc = x.pc) ∧
        (∀ th, th ∉ x.path → g.thread th = x.grp.thread th) ∧
        (b.wds.any fun w => w.key == .wbeat x.gslot x.pc (x.grp.sreg (x.f 39 34))) = true ∧ OnlyGroup x [] s t) ∧
  (∀ r, r ∈ issueRows → ∀ (i : Issue) (o s : State) (x : Iss), o.fetches i x s →
      x.cls = r.2.cls → x.opc = r.2.opc →
      (x.headerOk && r.2.legal x && (r.2.gs x).all spanOk) = true →
      rangeReg x.blk.desc.rpt (r.2.gs x) = none → x.waits r.2 s = true →
      exec (r.1 i) o = .next s)


/-! ### The matrix engine -/

/-- R121, R122, R124, R126, R129, R134, R137, R140. -/
def Obligations.MatrixInstructionsComplete : Prop :=
  ((∀ (i : Issue) (o s : State) (x : Iss), o.issues i (shMma 0 false) x s → x.path.length = 32 →
      x.canStage s = true →
      ∃ t, exec (.mmaT i) o = .next t ∧ MatrixStaged x
        ⟨.t, x.gslot, x.mSet, x.fmtA, x.fmtB, x.mZero, x.mB16, x.mS24, some (x.grp.frag x.layA x.mA),
          some (x.grp.frag x.layB x.mB), .regs 0⟩ s t) ∧
    (∀ (i : Issue) (o s : State) (x : Iss), o.issues i (shMma 2 true) x s → x.path.length = 32 →
      x.canStage s = true →
      ∃ t, exec (.mmaQ i) o = .next t ∧ MatrixStaged x
        ⟨.q x.quad, x.gslot, x.mSet, x.fmtA, x.fmtB, x.mZero, x.mB16, x.mS24, some (x.grp.frag x.layA x.mA),
          some (x.grp.frag x.layB x.mB), .regs 0⟩ s t) ∧
    (∀ (i : Issue) (o s : State) (x : Iss), o.issues i shMmaS x s → x.bobHeld s = false →
      x.ext 11 0 * 256 + 8 * (x.ext 19 12 + 1) ≤ x.blk.spadSize → x.canStage s = true →
      ∃ t, exec (.mmaS i) o = .next t ∧ MatrixStaged x
        ⟨.s (x.ext 11 0 * 256) (x.ext 19 12 + 1) 0, x.gslot, x.mSet, x.fmtA, x.fmtB, x.mZero, x.mB16, x.mS24, none, none,
          .regs 0⟩ s t) ∧
    (∀ (i : Issue) (o s : State) (x : Iss), o.issues i shSmma x s → x.bobHeld s = false →
      (∀ th, th ∈ x.acting → (x.grp.reg th x.mA).toNat % 64 = 0 ∧ (x.grp.reg th x.mB).toNat % 64 = 0 ∧
        x.blk.smmaOk x.layA (x.grp.reg th x.mA).toNat = true ∧ x.blk.smmaOk x.layB (x.grp.reg th x.mB).toNat = true) →
      x.canStage s = true →
      ∃ t, exec (.smma i) o = .next t ∧
        if x.acting = [] then ScalarDone x [] x.grp.sreg s t
        else MatrixStaged x ⟨.sm (x.acting.map fun th => (th, (x.grp.reg th x.mA).toNat, (x.grp.reg th x.mB).toNat)), x.gslot,
          x.mSet, x.fmtA, x.fmtB, x.mZero, x.mB16, x.mS24, none, none, .regs 0⟩ s t)) ∧
  (∀ (i : Issue) (o s : State) (x : Iss), o.issues i shDrain x s → x.path.length = 32 →
      ((s.core x.core).accSet x.mSet).holder = some x.gslot → ((s.core x.core).accSet x.mSet).releasing = false →
      (s.core x.core).staged = none → (∀ d, d ∈ (s.core x.core).drains → d.vals = none) →
      (x.form = 0 ∨ (x.form = 2 ∧ x.drainAddr.toNat % 64 = 0 ∧
        (x.ext 32 32 = 1 → x.drainAddr.toNat + drainBytes x.fmtA ≤ x.blk.spadSize ∧ x.spadHeld s true = false) ∧
        (x.ext 32 32 = 0 → x.drainCheck s = none))) →
      ∃ t g, exec (.mmaDrain i) o = .next t ∧
        (t.core x.core).drains = (s.core x.core).drains ++ [⟨x.gslot, x.mSet, x.fmtA,
          (if x.form = 0 then .regs x.mD else if x.ext 32 32 = 1 then .spad x.drainAddr.toNat else .mem (s.normal x.drainAddr)),
          none, false, false, false⟩] ∧
        (t.core x.core).accSet x.mSet = { (s.core x.core).accSet x.mSet with releasing := true } ∧
        (∀ n, n ≠ x.mSet → (t.core x.core).accSet n = (s.core x.core).accSet n) ∧
        t.group x.core x.gslot = some g ∧ x.wentOn g ∧ (∀ th, (g.thread th).same (x.grp.thread th)) ∧
        (∀ r, g.sreg r = x.grp.sreg r) ∧
        (x.form = 0 → g.gWait = x.grp.gWait ++ [⟨drainTag x.mSet, BitVec.allOnes 32, x.mD, if x.fmtA = 0 then 32 else 16⟩]) ∧
        (∀ b, t.block x.core b = s.block x.core b) ∧ OnlyCore x.core [] s t)

/-- R125, R126, R131, R435. A read of the tile sequencer can be what a bar.b waited for (R132), which then completes. -/
def Obligations.MatrixEngineStepsComplete : Prop :=
  (∀ (core : Nat) (s : State) (x : Staged) (a b : Frag), core < 1280 → (s.core core).staged = some x →
    s.engineOn core x.grp = true → x.a = some a → x.b = some b →
    ∃ t, exec (.arrayTake core) s = .next t ∧
      (t.core core).accSet x.set = ((s.core core).accSet x.set).run x
        (match x.kind with | .q n => some n | _ => none) a b ∧
      (∀ n, n ≠ x.set → (t.core core).accSet n = (s.core core).accSet n) ∧
      (t.core core).staged = (match x.kind with
        | .s tbl m next => if next + 1 < m then
            some { x with kind := .s tbl m (next + 1), zero := false, a := none, b := none } else none
        | .sm (_ :: r) => if r = [] then none else some { x with kind := .sm r, zero := false, a := none, b := none }
        | _ => none) ∧
      (∀ g, t.group core g = s.group core g) ∧ (∀ k, t.block core k = s.block core k) ∧
      OnlyCore core [2, 4] s t) ∧
  (∀ (core : Nat) (s : State) (x : Staged) (g : Group) (b : Block) (tbl m next : Nat) (f : Frag × Frag), core < 1280 →
    (s.core core).staged = some x → x.a = none → s.group core x.grp = some g → s.block core g.bslot = some b →
    s.engineOn core x.grp = true → x.kind = .s tbl m next → stepImages b x tbl next = .inr f →
    ∃ t, exec (.tileSequencerRead core) s = .next t ∧
      (t.core core).staged = some { x with a := some f.1, b := some f.2 } ∧
      t.core core = { s.core core with staged := (t.core core).staged, groups := (t.core core).groups, blocks := (t.core core).blocks } ∧
      BarsOnly core (fun _ => True) s t ∧ BlocksKept core s t ∧ OnlyCore core [] s t) ∧
  (∀ (core : Nat) (s : State) (x : Staged) (g : Group) (b : Block) (th oa ob : Nat) (r : List (Nat × Nat × Nat)), core < 1280 →
    (s.core core).staged = some x → x.a = none → s.group core x.grp = some g → s.block core g.bslot = some b →
    s.engineOn core x.grp = true → x.kind = .sm ((th, oa, ob) :: r) →
    ∃ t, exec (.tileSequencerRead core) s = .next t ∧ (t.core core).staged = some { x with
        a := some (b.frag (fragLayout false x.fmta false false) oa (oa + 1024))
        b := some (b.frag (fragLayout true x.fmtb false false) ob (ob + 1024)) } ∧
      t.core core = { s.core core with staged := (t.core core).staged, groups := (t.core core).groups, blocks := (t.core core).blocks } ∧
      BarsOnly core (fun _ => True) s t ∧ BlocksKept core s t ∧ OnlyCore core [] s t) ∧
  (∀ (core : Nat) (s : State) (d : Drain), core < 1280 → (s.core core).drains.head? = some d → s.engineOn core d.grp = true →
    d.vals = none →
    ∃ (t : State) (v : Drain), exec (.drainRead core) s = .next t ∧ (t.core core).drains = v :: (s.core core).drains.drop 1 ∧
      v.grp = d.grp ∧ v.set = d.set ∧ v.fmt = d.fmt ∧ v.dest = d.dest ∧
      v.vals = some ((List.range 1024).map fun n => ((s.core core).accSet d.set).acc.get n 0) ∧
      v.int = ((s.core core).accSet d.set).int ∧ v.sat = (((s.core core).accSet d.set).sat != 0) ∧
      v.nf = (((s.core core).accSet d.set).nf != 0) ∧ (t.core core).accSet d.set = AccSet.fresh ∧
      (∀ n, n ≠ d.set → (t.core core).accSet n = (s.core core).accSet n) ∧
      (∀ g, t.group core g = s.group core g) ∧ (∀ k, t.block core k = s.block core k) ∧ OnlyCore core [2] s t)

/-- R127, R128, R148. -/
def Obligations.MatrixDrainDelivers : Prop :=
  (∀ (core base : Nat) (s : State) (d : Drain) (vals : List Word) (g : Group) (b : Block), core < 1280 →
    (s.core core).drains.head? = some d → s.engineOn core d.grp = true → d.vals = some vals → d.dest = .regs base →
    s.group core d.grp = some g → s.block core g.bslot = some b →
    (⟨drainTag d.set, BitVec.allOnes 32, base, if d.fmt = 0 then 32 else 16⟩ : Owe) ∈ g.gWait →
    ∃ t g' b', exec (.drainOutput core) s = .next t ∧ (t.core core).drains = (s.core core).drains.drop 1 ∧
      t.group core d.grp = some g' ∧
      (∀ th j, th < 32 → j < (if d.fmt = 0 then 32 else 16) → (g'.thread th).reg (base + j) = BitVec.ofNat 32
        (leNat (((d.image vals).drop (4 * ((if d.fmt = 0 then 32 else 16) * th + j))).take 4))) ∧
      (∀ th r, th < 32 → (r < base ∨ base + (if d.fmt = 0 then 32 else 16) ≤ r) →
        (g'.thread th).reg r = (g.thread th).reg r) ∧
      g'.gWait = g.gWait.filter (fun o => o.tag != drainTag d.set) ∧
      (∀ th, th < 32 → (g'.thread th).preds = (g.thread th).preds) ∧
      t.block core g.bslot = some b' ∧
      b'.accSat = (b.accSat || d.sat || vals.any fun w => (drainValue d.fmt d.int w).2) ∧
      b'.accNf = (b.accNf || d.nf) ∧ b'.spad = b.spad ∧ b'.wset = b.wset ∧
      BarsOnly core (fun q => q ≠ d.grp) s t ∧ OnlyCore core [3, 5] s t) ∧
  (∀ (core : Nat) (s q : State) (d : Drain) (vals : List Word) (g : Group) (b : Block) (w : Write), core < 1280 →
    (s.core core).drains.head? = some d → s.engineOn core d.grp = true → d.vals = some vals →
    ((∃ o, d.dest = .spad o ∧ w = .spad o (d.image vals)) ∨ (∃ a, d.dest = .mem a ∧ w = .glob a (d.image vals))) →
    s.group core d.grp = some g → s.block core g.bslot = some b → s.stage core g.bslot 0 [w] = some q →
    ∃ t b', exec (.drainOutput core) s = .next t ∧ (t.core core).drains = (s.core core).drains.drop 1 ∧
      t.block core g.bslot = some b' ∧ b'.spad = (b.write 0 w).spad ∧ b'.wset = (b.write 0 w).wset ∧
      b'.accSat = (b.accSat || d.sat || vals.any fun v => (drainValue d.fmt d.int v).2) ∧
      b'.accNf = (b.accNf || d.nf) ∧ BarsOnly core (fun q => q ≠ d.grp) s t ∧ OnlyCore core [3, 5] s t)


/-! ### Memory, bobbin and DMA instructions -/

/-- R49, R83, R84, R209, R211, R213, R214, R219, R222. A load that its core can serve lands at once; of every other line it
sends the request whose response lands it (AnswersCompleteRequests). -/
def Obligations.LoadsComplete : Prop :=
  (∀ (r : (Issue → Instr) × Shape × Bool), r ∈ [(.ld, loadShape 0 false, false), (.ldAcq, loadShape 2 true, true)] →
    ∀ (i : Issue) (o s : State) (x : Iss), o.issues i r.2.1 x s → x.isSpad = true →
      x.memFree s false = true → (∀ th, th ∈ x.acting → x.blk.checkSpad x.bytes (x.spadOff th) = none) →
      ∃ t g, exec (r.1 i) o = .next t ∧ t.group x.core x.gslot = some g ∧ x.wentOn g ∧
        (∀ th k, (g.thread th).reg k =
          if th ∈ x.acting ∧ x.data ≤ k ∧ k < x.data + x.dataSpan then
            regOf (spadRead x.blk.spad (x.spadOff th) x.bytes) (k - x.data)
          else (x.grp.thread th).reg k) ∧
        (∀ th, (g.thread th).preds = (x.grp.thread th).preds ∧ (g.thread th).flags = (x.grp.thread th).flags ∧
          (g.thread th).exited = (x.grp.thread th).exited ∧ (g.thread th).wait = (x.grp.thread th).wait) ∧
        (∀ k, g.sreg k = x.grp.sreg k) ∧
        (if r.2.2 then AcquireMade x t g else g.hold = x.grp.hold ∧ t.block x.core x.bslot = some x.blk) ∧
        OnlyGroup x [7] s t) ∧
  (∀ (r : (Issue → Instr) × Shape × Bool), r ∈ [(.ld, loadShape 0 false, false), (.ldAcq, loadShape 2 true, true)] →
    ∀ (i : Issue) (o s : State) (x : Iss), o.issues i r.2.1 x s → x.isSpad = false →
      x.memFree s false = true →
      x.memChecks s (if r.2.2 then .other else .plain) x.acting = none →
      (∀ th, th ∈ x.acting → ∀ m, s.classify (x.addr th) ≠ .mgmt m) →
      ((s.core x.core).niFree (byLine (x.globalReads s x.acting)).length).isSome = true →
      (s.core x.core).reroute = [] →
      ∃ t g, exec (r.1 i) o = .next t ∧ t.group x.core x.gslot = some g ∧
        Loaded x (!r.2.2) (byLine (x.globalReads s x.acting)) s t g ∧
        (if r.2.2 then AcquireMade x t g else g.hold = x.grp.hold ∧ t.block x.core x.bslot = some x.blk) ∧
        ((∀ th, th ∈ x.acting → s.isLocal (lineOf (s.normal (x.addr th))) = true) → OnlyCore x.core [7] s t) ∧
        t.mem = s.mem ∧ ∀ k, k ≠ x.core → t.core k = s.core k) ∧
  (∀ (i : Issue) (o s : State) (x : Iss) (th m : Nat), o.issues i (loadShape 0 false) x s → x.isSpad = false →
    x.drainHeld s = false → x.acting = [th] → x.memChecks s .plain x.acting = none → s.classify (x.addr th) = .mgmt m →
    s.moveDue m = false →
    ∃ t g, exec (.ld i) o = .next t ∧ t.group x.core x.gslot = some g ∧ x.wentOn g ∧
      (∀ u k, (g.thread u).reg k = if u = th ∧ k = x.data then s.seenAt (.priv x.core) m else (x.grp.thread u).reg k) ∧
      (∀ k, g.sreg k = x.grp.sreg k) ∧ t.block x.core x.bslot = some x.blk ∧ t.mem = s.mem ∧ t.regs = s.regs ∧
      ∀ k, k ≠ x.core → t.core k = s.core k) ∧
  (∀ (i : Issue) (o s : State) (x : Iss), o.issues i shLdS x s → x.drainHeld s = false →
    (x.acts = false → ∃ t, exec (.ldS i) o = .next t ∧ ScalarDone x [] x.grp.sreg s t) ∧
    (∀ r : LineReq, x.acts = true → s.checkAccess x.blk .other 8 (x.addr 0) = none →
      r = ⟨lineOf (s.normal (x.addr 0)), [⟨0, x.f 43 38, true, lineOff (s.normal (x.addr 0)), 8, 0⟩]⟩ →
      (∀ d, s.lineNow x.core x.bslot true r = some d →
        ∃ t, exec (.ldS i) o = .next t ∧ ScalarDone x [7] (fun k => if k = x.f 43 38 then
          BitVec.ofNat 64 (leNat (((lineBytes d).drop (lineOff (s.normal (x.addr 0)))).take 8)) else x.grp.sreg k) s t) ∧
      (s.lineNow x.core x.bslot true r = none → ((s.core x.core).niFree 1).isSome = true → (s.core x.core).reroute = [] →
        ∃ t g n e, exec (.ldS i) o = .next t ∧ x.passed t ∧ t.group x.core x.gslot = some g ∧ g.hold = x.grp.hold ∧
          (s.core x.core).ni.find n = none ∧ (t.core x.core).ni.find n = some e ∧ e.addr = r.line ∧ e.kind = .load ∧
          e.dests = r.dests ∧ e.grp = x.gslot ∧ (n, x.f 43 38) ∈ g.sWait ∧ t.block x.core x.bslot = some x.blk ∧
          t.mem = s.mem ∧ ∀ k, k ≠ x.core → t.core k = s.core k))) ∧
  (∀ (i : Issue) (o s : State) (x : Iss), o.issues i shPrefetch x s → x.drainHeld s = false →
    ((s.core x.core).niFree x.acting.length).isSome = true →
    (s.core x.core).reroute = [] →
    ∃ t g, exec (.prefetch i) o = .next t ∧ x.passed t ∧ t.group x.core x.gslot = some g ∧ g.gWait = x.grp.gWait ∧
      g.hold = x.grp.hold ∧
      (∀ th, th ∈ x.acting → s.checkAccess x.blk .other 1 (x.addr th) = none →
        s.isLocal (lineOf (s.normal (x.addr th))) = true → s.rcOn x.core = true →
        (s.core x.core).rcHit x.blk.acq (lineOf (s.normal (x.addr th))) = none →
        s.lineNow x.core x.bslot true ⟨lineOf (s.normal (x.addr th)), [⟨0, 0, false, 0, 64, 0⟩]⟩ = none →
        ∃ n e, (s.core x.core).ni.find n = none ∧ (t.core x.core).ni.find n = some e ∧
          e.addr = lineOf (s.normal (x.addr th)) ∧ e.kind = .fill ∧ e.cache.isSome = true ∧ e.dead = false) ∧
      t.block x.core x.bslot = some x.blk ∧ OnlyCore x.core [7] s t)

/-- R209, R217, R219, R222, R234. `storeTo` and `spadOff` compute where a thread stores, as the meaning does. -/
def Obligations.StoresComplete : Prop :=
  (∀ (i : Issue) (o s q : State) (x : Iss), o.issues i (storeShape 1 false) x s →
    x.memFree s true = true → x.memChecks s .plain x.acting = none →
    s.stage x.core x.bslot 0 (x.storeWrites s x.acting) = some q →
    ∃ t g, exec (.st i) o = .next t ∧ Stored x s t ∧ x.passed t ∧ t.group x.core x.gslot = some g ∧ g.hold = x.grp.hold) ∧
  (∀ (i : Issue) (o s q : State) (x : Iss), o.issues i (storeShape 3 true) x s →
    x.memFree s true = true → s.groupBusy x.core x.gslot = false → x.memChecks s .other x.acting = none → x.scope ≤ 1 →
    s.stage x.core x.bslot 0 (x.storeWrites s x.acting) = some q →
    ∃ t g, exec (.stRel i) o = .next t ∧ Stored x s t ∧ x.passed t ∧ t.group x.core x.gslot = some g ∧
      g.hold = x.grp.hold) ∧
  (∀ (i : Issue) (o s q : State) (x : Iss), o.issues i (storeShape 3 true) x s →
    x.isSpad = false → x.drainHeld s = false → s.groupBusy x.core x.gslot = false →
    x.memChecks s .other x.acting = none → 2 ≤ x.scope → x.acting ≠ [] →
    s.stage x.core x.bslot x.scope (x.storeWrites s x.acting) = some q →
    ∃ t g b, exec (.stRel i) o = .next t ∧ Stored x s t ∧ x.passed t ∧ t.group x.core x.gslot = some g ∧
      g.hold = .fence x.scope none ∧ t.block x.core x.bslot = some b ∧ b.trig ≠ none ∧
      ∀ th a, th ∈ x.acting → x.storeTo s th = some a → ∃ l, l ∈ b.wset ∧ l.addr = lineOf a ∧ x.scope ≤ l.rel) ∧
  (∀ (i : Issue) (o s : State) (x : Iss), o.issues i (storeShape 3 true) x s →
    x.isSpad = true → x.memFree s true = true → s.groupBusy x.core x.gslot = false →
    x.memChecks s .other x.acting = none → 2 ≤ x.scope → x.acting ≠ [] →
    ∃ t g, exec (.stRel i) o = .next t ∧ x.passed t ∧ t.group x.core x.gslot = some g ∧
      g.hold = .relSpad x.scope none x.relBytes ∧
      t.block x.core x.bslot = some { x.blk with trig := some (.release x.scope) } ∧ OnlyGroup x [] s t)

/-- R219, R225, R245. An atom of group or block scope is made at once on a line that the block holds, else when its line
arrives; one of device or system scope waits for the seam before it. -/
def Obligations.AtomicsComplete : Prop :=
  (∀ (i : Issue) (o s : State) (x : Iss) (th : Nat) (d : Line), o.issues i shAtom x s →
    x.drainHeld s = false → x.acting = [th] → x.memChecks s .atom x.acting = none → x.scope ≤ 1 →
    (s.core x.core).linesUsed < 8192 → (∀ m, s.classify (x.addr th) ≠ .mgmt m) →
    s.lineNow x.core x.bslot false ⟨lineOf (s.normal (x.addr th)),
      [⟨th, x.data, false, lineOff (s.normal (x.addr th)), x.bytes, 0⟩]⟩ = some d →
    ∃ t g b, exec (.atom i) o = .next t ∧ t.group x.core x.gslot = some g ∧ t.block x.core x.bslot = some b ∧
      x.wentOn g ∧ g.hold = x.grp.hold ∧
      (∀ u k, (g.thread u).reg k = if u = th ∧ x.data ≤ k ∧ k < x.data + x.dataSpan then BitVec.ofNat 32 (leNat
        (((lineBytes d).drop (lineOff (s.normal (x.addr th)) + 4 * (k - x.data))).take 4)) else (x.grp.thread u).reg k) ∧
      (∀ k, k < x.bytes → b.stagedByte (s.normal (x.addr th) + BitVec.ofNat 64 k) = some ((natLe x.bytes
        (atomResult x.aop x.sizeCode
          (BitVec.ofNat 64 (leNat (((lineBytes d).drop (lineOff (s.normal (x.addr th)))).take x.bytes)))
          (x.grp.atomArgs th x.data x.aop x.sizeCode).1 (x.grp.atomArgs th x.data x.aop x.sizeCode).2).toNat).getD k 0)) ∧
      (∀ a, (∀ k, k < x.bytes → a ≠ s.normal (x.addr th) + BitVec.ofNat 64 k) → b.stagedByte a = x.blk.stagedByte a) ∧
      (∀ u, (g.thread u).preds = (x.grp.thread u).preds ∧ (g.thread u).flags = (x.grp.thread u).flags ∧
        (g.thread u).exited = (x.grp.thread u).exited ∧ (g.thread u).wait = (x.grp.thread u).wait) ∧
      (∀ r, g.sreg r = x.grp.sreg r) ∧
      b = { x.blk with wset := b.wset, trig := b.trig } ∧ OnlyGroup x [] s t) ∧
  (∀ (i : Issue) (o s : State) (x : Iss) (reqs : List LineReq), o.issues i shAtom x s →
    x.drainHeld s = false → x.acting ≠ [] → x.memChecks s .atom x.acting = none → x.scope ≤ 1 →
    reqs = byLine (x.globalReads s x.acting) → (s.core x.core).linesUsed + reqs.length ≤ 8192 →
    ((s.core x.core).niFree reqs.length).isSome = true → (s.core x.core).reroute = [] →
    ∃ t g, exec (.atom i) o = .next t ∧ t.group x.core x.gslot = some g ∧ x.wentOn g ∧
      (∀ th, th ∉ x.acting → (g.thread th).same (x.grp.thread th)) ∧ (∀ r, g.sreg r = x.grp.sreg r) ∧
      LinesAsked x (.rmw x.aop x.sizeCode) false reqs s t ∧
      ((∃ r, r ∈ reqs ∧ s.lineNow x.core x.bslot false r = none) → g.hold = .acq 0) ∧
      ((∀ r, r ∈ reqs → s.lineNow x.core x.bslot false r ≠ none) → g.hold = x.grp.hold) ∧
      ((∀ r, r ∈ reqs → s.lineNow x.core x.bslot false r = none) → x.passed t ∧ t.block x.core x.bslot = some x.blk) ∧
      t.mem = s.mem ∧ ∀ k, k ≠ x.core → t.core k = s.core k) ∧
  (∀ (i : Issue) (o s : State) (x : Iss), o.issues i shAtom x s → x.drainHeld s = false →
    x.memChecks s .atom x.acting = none → x.acting ≠ [] → 2 ≤ x.scope → s.groupBusy x.core x.gslot = false →
    x.blk.atom = none →
    ∃ t, exec (.atom i) o = .next t ∧ t.group x.core x.gslot = some { x.grp with hold := .atomic } ∧
      t.block x.core x.bslot = some { x.blk with
        atom := some ⟨x.gslot, x.w0, x.pc, x.path, x.acting, none, false, false⟩, trig := some .atomBefore } ∧
      OnlyGroup x [] s t) ∧
  (∀ (i : Issue) (o s : State) (x : Iss), o.issues i shAtom x s → x.drainHeld s = false → x.acting = [] →
    ∃ t, exec (.atom i) o = .next t ∧ ScalarDone x [] x.grp.sreg s t)

/-- R231 to R233. -/
def Obligations.MemoryChecksFault : Prop :=
  ∀ (r : (Issue → Instr) × Shape × AccKind),
    r ∈ [(.ld, loadShape 0 false, .plain), (.ldAcq, loadShape 2 true, .other), (.st, storeShape 1 false, .plain),
      (.stRel, storeShape 3 true, .other), (.atom, shAtom, .atom)] →
    ∀ (i : Issue) (o s : State) (x : Iss) (th chk why : Nat), o.issues i r.2.1 x s →
      x.memFree s true = true → x.mgmtMoves s = false → s.groupBusy x.core x.gslot = false →
      x.memChecks s r.2.2 x.acting = some (th, chk, why) →
      (th ∈ x.acting ∧ (if x.isSpad then x.blk.checkSpad x.bytes (x.spadOff th)
        else s.checkAccess x.blk r.2.2 x.bytes (x.addr th)) = some (chk, why) ∧
        ∀ u, u ∈ x.acting → ∀ c w, (if x.isSpad then x.blk.checkSpad x.bytes (x.spadOff u)
          else s.checkAccess x.blk r.2.2 x.bytes (x.addr u)) = some (c, w) → chk < c ∨ chk = c ∧ th ≤ u) ∧
      ∃ t, exec (r.1 i) o = .next t ∧ Faulted x (memCode chk) [(101, th), (106, why), (109, x.opc), (117, 0)] s t ∧
        (s.reg (.core x.core 7) 4 / 2 ^ 31 = 0 →
          t.reg (.core x.core 7) 4 = 2 ^ 31 + th * 2 ^ 16 + memCode chk ∧ t.reg64 (.core x.core 7) 8 = (x.addr th).toNat)

/-- R169 to R180. -/
def Obligations.BobbinInstructionsComplete : Prop :=
  (∀ (r : (Issue → Instr) × Shape × Bool), r ∈ [(.bgather, shBob 8, false), (.bmerge, shBob 9, true)] →
    ∀ (i : Issue) (o s : State) (x : Iss), o.issues i r.2.1 x s →
      (x.grp.sreg x.base).toNat % 16 = 0 → x.bobRange r.2.2 = false → (s.core x.core).bob.length < 4 →
      x.drainHeld s = false → (s.core x.core).tileReads x.gslot = false →
      (r.2.2 = true → x.bMode = true → (s.core x.core).ptHolder = none ∨ (s.core x.core).ptHolder = some x.bslot) →
      ∃ t g, exec (r.1 i) o = .next t ∧ x.passed t ∧ t.group x.core x.gslot = some g ∧ g.hold = x.grp.hold ∧
        (t.core x.core).bob = (s.core x.core).bob ++ [⟨x.gslot, r.2.2, x.bMode, s.normal (x.grp.sreg x.base), x.data, x.nreg,
          x.doff, x.rowLen, x.limit, BitVec.ofNat 32 (listMask x.acting), [], false⟩] ∧
        (if r.2.2 = true ∧ x.bMode = true then (t.core x.core).ptHolder = some x.bslot ∧ (t.core x.core).ptKeys =
          (if (s.core x.core).ptHolder = none then [] else (s.core x.core).ptKeys)
         else (t.core x.core).ptHolder = (s.core x.core).ptHolder ∧ (t.core x.core).ptKeys = (s.core x.core).ptKeys) ∧
        (∀ k, k ≠ x.gslot → t.group x.core k = s.group x.core k) ∧
        (∀ b, t.block x.core b = s.block x.core b) ∧ OnlyCore x.core [] s t) ∧
  (∀ (core : Nat) (s : State) (j : BobJob) (l : List BobJob) (g : Group) (b : Block), core < 1280 →
    (s.core core).bob = j :: l → s.engineOn core j.grp = true → j.executed = false → j.merge = false → j.mode = false →
    s.group core j.grp = some g → s.block core g.bslot = some b →
    (∀ e, e ∈ s.entries b g j → e.st = .live → s.viewPoison b (j.row e.i e.v) (j.rowLen * 16) = false ∧
      s.viewAbsent b j.far (j.row e.i e.v) (j.rowLen * 16) = []) →
    ∃ t g' b', exec (.bobbinExecute ⟨core, []⟩) s = .next t ∧ (t.core core).bob = { j with executed := true } :: l ∧
      t.group core j.grp = some g' ∧ (∀ th, (∀ r, (g'.thread th).reg r = (g.thread th).reg r) ∧
        (g'.thread th).preds = (g.thread th).preds) ∧
      t.block core g.bslot = some b' ∧
      (∀ e, e ∈ s.entries b g j → spadRead b'.spad (j.doff * 64 + e.i * (j.rowLen * 16)) (j.rowLen * 16) =
        if e.st = .live then s.viewBytes b j.far (j.row e.i e.v) (j.rowLen * 16)
        else List.replicate (j.rowLen * 16) 0) ∧
      (∀ o, (o < j.doff * 64 ∨ j.doff * 64 + 32 * (j.nreg + 1) * (j.rowLen * 16) ≤ o) →
        spadByte b'.spad o = spadByte b.spad o) ∧
      b'.wset = b.wset ∧ t.mem = s.mem ∧ CoreAndHomes core [4, 5] s t) ∧
  (∀ (core : Nat) (s : State) (j : BobJob) (l : List BobJob) (g : Group) (b : Block) (m : Merge), core < 1280 →
    (s.core core).bob = j :: l → s.engineOn core j.grp = true → j.executed = false → j.merge = true →
    s.group core j.grp = some g → s.block core g.bslot = some b →
    (∀ e, e ∈ s.entries b g j → e.st = .live → s.viewPoison b (j.row e.i e.v) (j.rowLen * 16) = false ∧
      s.viewAbsent b j.far (j.row e.i e.v) (j.rowLen * 16) = []) →
    m = (s.entries b g j).foldl (fun m e => m.entry j e (if e.st = .live then
      s.viewBytes b j.far (j.row e.i e.v) (j.rowLen * 16) else [])) ⟨b.spad, (s.core core).ptKeys, [], [], false, 0, []⟩ →
    ∃ t g' b', exec (.bobbinExecute ⟨core, []⟩) s = .next t ∧ (t.core core).bob = { j with executed := true } :: l ∧
      t.block core g.bslot = some b' ∧ b'.spad = m.spad ∧ b'.wset = b.wset ∧
      (t.core core).ptKeys = (if j.mode then m.keys else (s.core core).ptKeys) ∧
      t.group core j.grp = some g' ∧ (∀ th r, (g'.thread th).reg r =
        ((m.back.reverse.find? fun e => e.1 == th && e.2.1 == r).map (·.2.2)).getD ((g.thread th).reg r)) ∧
      (∀ th, (g'.thread th).preds = (g.thread th).preds) ∧ t.mem = s.mem ∧ CoreAndHomes core [4, 5] s t) ∧
  (∀ (core : Nat) (s : State) (j : BobJob) (l : List BobJob), core < 1280 → (s.core core).bob = j :: l →
    s.engineOn core j.grp = true → j.executed = true →
    ∃ t, exec (.bobbinComplete core) s = .next t ∧ (t.core core).bob = l ∧
      t.core core = { s.core core with bob := l, groups := (t.core core).groups, blocks := (t.core core).blocks } ∧
      BarsOnly core (fun _ => True) s t ∧ BlocksKept core s t ∧ OnlyCore core [] s t)

/-- R85, R206, R207, R217, R220, R224, R237. -/
def Obligations.DmaInstructionsComplete : Prop :=
  (∀ (r : (Issue → Instr) × Shape × Bool), r ∈ [(.dmaCp, shDma 0 false, false), (.dmaFill, shDma 1 true, true)] →
    ∀ (i : Issue) (o s : State) (x : Iss), o.issues i r.2.1 x s →
      (x.acts = false → ∃ t, exec (r.1 i) o = .next t ∧ ScalarDone x [] x.grp.sreg s t) ∧
      (∀ d, x.acts = true → x.dmaChecks s r.2.2 = none → (s.core x.core).dma.free 64 = some d →
        (x.dmaToSpad s = true → x.spadHeld s true = false) →
        ∃ t, exec (r.1 i) o = .next t ∧ x.passed t ∧
          (t.core x.core).dma.find d = some ⟨x.bslot, (s.core x.core).nextSeq, x.gslot, x.dTag, r.2.2, x.dRemote,
            s.normal (x.grp.sreg x.dSrc), s.normal (x.grp.sreg x.dDst), x.grp.sreg x.dSrc, x.dRow, x.dRows, x.ext 49 40,
            x.ext 59 50, 0, 0, [], false⟩ ∧
          (∀ n, n ≠ d → (t.core x.core).dma.find n = (s.core x.core).dma.find n) ∧
          (∀ b, t.block x.core b = s.block x.core b) ∧ OnlyCore x.core [] s t)) ∧
  Completes .dmaPoll shDmaPoll (fun x s => ScalarDone x [] (fun k => if x.acts = true ∧ k = x.dDst then
    BitVec.ofNat 64 (listMask ((List.range 64).filter fun n => !((s.core x.core).dma.any fun e =>
      e.2.bslot == x.bslot && e.2.tag == n))) else x.grp.sreg k) s) ∧
  (∀ (i : Issue) (o s : State) (x : Iss), o.issues i shDmaWait x s →
    ∃ t g, exec (.dmaWait i) o = .next t ∧ x.passed t ∧ t.group x.core x.gslot = some g ∧
      g.hold = (if x.acts = true ∧ ∃ e, e ∈ (s.core x.core).dma ∧ e.2.bslot = x.bslot ∧ (x.dAll = true ∨ e.2.tag = x.dTag)
        then .dma (if x.dAll then none else some x.dTag) else x.grp.hold) ∧
      t.block x.core x.bslot = some x.blk ∧ OnlyGroup x [] s t) ∧
  (∀ (core d : Nat) (s : State) (e : Dma) (b : Block) (parityOk : Bool) (n : Nat) (v : List Byte), core < 1280 →
    (s.core core).dma.find d = some e → s.dmaReady core b e parityOk → n = e.nextPart.2.2 → v = s.dmaBytes b e →
    (∀ c o, s.classify e.nextPart.2.1 = .perCore c o → (s.core core).linesUsed ≤ 8192 →
      ∃ t b', exec (.dmaTransfer core ⟨d, [], parityOk⟩) s = .next t ∧ (t.core core).dma.find d = some (e.advance n) ∧
        t.block core e.bslot = some b' ∧
        (∀ a, spadByte b'.spad a = if o ≤ a ∧ a < o + n then v.getD (a - o) 0 else spadByte b.spad a) ∧
        b' = { b with spad := b'.spad, dirtyP := b'.dirtyP, wroteP := b'.wroteP, trig := b'.trig } ∧
        CoreAndHomes core [] s t) ∧
    (∀ r o m k, s.classify e.nextPart.2.1 = .cluster r o → s.peerOf core e.bslot r = some m → s.block m.1 m.2 = some k →
      ∃ t k', exec (.dmaTransfer core ⟨d, [], parityOk⟩) s = .next t ∧ (t.core core).dma.find d = some (e.advance n) ∧
        t.block m.1 m.2 = some k' ∧
        (∀ a, spadByte k'.spad a = if o ≤ a ∧ a < o + n then v.getD (a - o) 0 else spadByte k.spad a) ∧
        k' = { k with spad := k'.spad, dirtyP := k'.dirtyP, wroteP := k'.wroteP } ∧ t.mem = s.mem ∧
        ∀ q, q ≠ core → q ≠ m.1 → t.core q = s.core q) ∧
    (∀ q, (∀ c o, s.classify e.nextPart.2.1 ≠ .perCore c o) → (∀ r o, s.classify e.nextPart.2.1 ≠ .cluster r o) →
      s.stage core e.bslot 0 [.glob e.nextPart.2.1 v] = some q →
      ∃ t b', exec (.dmaTransfer core ⟨d, [], parityOk⟩) s = .next t ∧ (t.core core).dma.find d = some (e.advance n) ∧
        t.block core e.bslot = some b' ∧
        (∀ a, b'.stagedByte a = if (a - e.nextPart.2.1).toNat < n then some (v.getD (a - e.nextPart.2.1).toNat 0)
          else b.stagedByte a) ∧
        b' = { b with wset := b'.wset, trig := b'.trig } ∧ t.mem = s.mem ∧ CoreAndHomes core [] s t)) ∧
  (∀ (core d : Nat) (s : State) (e : Dma), core < 1280 → (s.core core).dma.find d = some e → e.moved = true →
    ∃ t, exec (.dmaComplete core d) s = .next t ∧ (t.core core).dma.find d = none ∧
      (∀ n, n ≠ d → (t.core core).dma.find n = (s.core core).dma.find n) ∧
      (∀ b n q tag, s.block core e.bslot = some b → n ∈ b.gslots → s.group core n = some q → q.hold = .dma tag →
        t.group core n = some (if (t.core core).dmaOut e.bslot tag then q else { q with hold := .none })) ∧
      (∀ n q, s.group core n = some q → (∀ tag, q.hold ≠ .dma tag) → t.group core n = some q) ∧
      (∀ b, t.block core b = s.block core b) ∧ OnlyCore core [] s t)


/-! ### Homes, the NI and memory upkeep -/

/-- R204, R215, R224, R265, R266, R277: a read reaches its line's home, from a core of this package or from another package. The
home's pool cache counts it. -/
def Obligations.HomeReadsAnswer : Prop :=
  (∀ (c n p m off : Nat) (e : NiEntry) (s : State), c < 1280 → (s.core c).ni.find n = some e →
    (e.kind = .load ∨ e.kind = .fill ∨ ∃ a z, e.kind = .rmw a z) →
    e.answer = none → e.refused = none → s.niBehind c e = false → s.partOfCore c = some p →
    s.home p e.addr = some (m, off) → s.homeLost m = false → (s.die (dieOfMem m)).keyed = true →
    s.homeHeld m off = false → s.unreadable m off = false →
    (∃ t, exec (.readRequest (.ni c n) .clean) s = .next t ∧
      (t.core c).ni.find n = some { e with answer := some (s.memLine m (off / 64 * 64), false) } ∧
      (∀ k, k ≠ n → (t.core c).ni.find k = (s.core c).ni.find k) ∧
      t.core c = { s.core c with ni := (t.core c).ni } ∧ CoreAndHomes c [] s t) ∧
    (∃ t r, exec (.readRequest (.ni c n) .corrected) s = .next t ∧
      (t.core c).ni.find n = some { e with answer := some (s.memLine m (off / 64 * 64), false) } ∧
      r ∈ t.log.flight ∧ r.code = (if 16 ≤ m then 0x0C07 else 0x0C01) ∧ r.src = s.source (chanUnit m off) ∧
      t.mem = s.mem ∧ ∀ k, k ≠ c → t.core k = s.core k) ∧
    (∃ t r, exec (.readRequest (.ni c n) .uncorrectable) s = .next t ∧
      (t.core c).ni.find n = some { e with answer := some (s.memLine m (off / 64 * 64), true) } ∧
      t.poisoned m off = true ∧ r ∈ t.log.flight ∧ r.code = 0x0C03 ∧ r.src = s.source (chanUnit m off) ∧
      t.mem = s.mem ∧ ∀ k, k ≠ c → t.core k = s.core k)) ∧
  (∀ (i m off : Nat) (q : Arrived) (s : State), s.inbox[i]? = some q → q.msg.mtype = 1 → s.inboxBehind i = false →
    s.mf.tripped = false → s.msgHome q.dstPart q.msg = some (m, off) → s.homeLost m = false →
    s.homeHeld m off = false → s.unreadable m off = false →
    exec (.readRequest (.inbox i) .clean) s = .next (((s.pooled m).takeMsg i).reply (dieOfMem m) q.dstPart q.srcPkg q.srcPart
      q.msg 4 0 (s.memLine m (off / 64 * 64))))

/-- R204, R215, R218, R224, R243. The line's place at its home is the one the meaning computes, `home`. -/
def Obligations.LineWriteStoresItsMask : Prop :=
  (∀ (l : ApplyLine) (s : State) (b : Block) (x : SLine) (m off : Nat), l.core < 1280 →
    s.block l.core l.slot = some b → b.applyLine l.line = some x → x.sent = false → s.relReady b x = true →
    (s.core l.core).applyTurn l.slot b = true → ((s.core l.core).niFree 1).isSome = true → s.logLost l.core b = false →
    s.isLocal x.addr = true → s.home b.part x.addr = some (m, off) → s.homeLost m = false →
    (s.die (dieOfMem m)).keyed = true → s.homeHeld m off = false → (s.memUnit m).allPoison = false →
    s.poisoned m (off / 64 * 64) = false →
    ∃ t b', exec (.lineWrite (.apply l) .clean) s = .next t ∧
      (∀ k, k < 64 → t.memByte m (off / 64 * 64 + k) =
        if x.mask.getLsbD k then lineByte x.data k else s.memByte m (off / 64 * 64 + k)) ∧
      (∀ a, (∀ k, k < 64 → a ≠ s.memKey m (off / 64 * 64 + k)) → Tab.find (α := Byte) t.mem a = Tab.find (α := Byte) s.mem a) ∧
      t.block l.core l.slot = some b' ∧
      (∃ r q, b'.log = r :: q ∧ ∀ y, y ∈ r.lines → y.addr = x.addr → y.rel = x.rel → y.made = true) ∧
      (t.core l.core).rcHit 0 x.addr = none ∧
      ∀ k, k ≠ l.core → t.core k = s.core k) ∧
  (∀ (i m off : Nat) (q : Arrived) (s : State), s.inbox[i]? = some q → q.msg.mtype = 2 → s.inboxBehind i = false →
    s.mf.tripped = false → s.msgHome q.dstPart q.msg = some (m, off) → s.homeLost m = false →
    s.homeHeld m off = false → (s.memUnit m).allPoison = false → s.poisoned m (off / 64 * 64) = false →
    exec (.lineWrite (.inbox i) .clean) s = .next
      ((((s.setMemLine m (off / 64 * 64) q.msg.data q.msg.mask).pooled m).takeMsg i).reply (dieOfMem m) q.dstPart q.srcPkg
        q.srcPart q.msg 5 0 0))

/-- R225, R245. -/
def Obligations.HomeAtomicsComplete : Prop :=
  ∀ (c n p m off aop size : Nat) (op cmp key : DWord) (e : NiEntry) (s : State) (b : Block) (j : Journal), c < 1280 →
    (s.core c).ni.find n = some e → e.kind = .atom aop size op cmp key → size = 2 ∨ size = 3 → off % 2 ^ size = 0 →
    e.answer = none → e.refused = none → s.niBehind c e = false → s.partOfCore c = some p →
    s.home p e.addr = some (m, off) → s.homeLost m = false → (s.die (dieOfMem m)).keyed = true →
    s.homeHeld m off = false → s.unreadable m off = false →
    s.block c e.bslot = some b → b.journal = some j → j.key = key →
    ∃ t b' j', exec (.atomic (.ni c n) .clean) s = .next t ∧
      (∀ k, k < 2 ^ size → t.memByte m (off + k) = (natLe (2 ^ size) (atomResult aop size
        (BitVec.ofNat 64 (leNat ((List.range (2 ^ size)).map fun q => s.memByte m (off + q)))) op cmp).toNat).getD k 0) ∧
      (∀ a, (∀ k, k < 2 ^ size → a ≠ s.memKey m (off + k)) →
        Tab.find (α := Byte) t.mem a = Tab.find (α := Byte) s.mem a) ∧
      (t.core c).ni.find n = some { e with answer := some (lineOfNat
        (leNat ((List.range (2 ^ size)).map fun q => s.memByte m (off + q))), false) } ∧
      t.block c e.bslot = some b' ∧ b'.journal = some j' ∧ j'.key = key ∧ b' = { b with journal := b'.journal } ∧
      j'.old.find e.thread = some (BitVec.ofNat 64 (leNat ((List.range (2 ^ size)).map fun q => s.memByte m (off + q)))) ∧
      ∀ k, k ≠ c → t.core k = s.core k

/-- R205, R212 to R214, R222, R243, R282 to R285, R359. -/
def Obligations.AnswersCompleteRequests : Prop :=
  (∀ (c n : Nat) (e : NiEntry) (d : Line) (g : Group) (s : State), c < 1280 → (s.core c).ni.find n = some e →
    e.kind = .load → e.dead = false → e.answer = some (d, false) → s.group c e.grp = some g →
    (s.die (dieOfCore c)).reloading = false → (∀ q, q ∈ (s.core c).blocks → q.2.atom = none) →
    e.dests.Pairwise (fun a b => a.thread ≠ b.thread) →
    (∀ q, q ∈ e.dests → q.s = false ∧ (⟨n, BitVec.ofNat 32 (2 ^ q.thread), q.reg, q.span⟩ : Owe) ∈ g.gWait ∧ q.thread < 32) →
    ∃ t g', exec (.readResponse c n true) s = .next t ∧ (t.core c).ni.find n = none ∧ t.group c e.grp = some g' ∧
      (∀ q k, q ∈ e.dests → k < q.span → (g'.thread q.thread).reg (q.reg + k) =
        regOf (q.value (lineMerge d e.stagedData e.stagedMask)) k) ∧
      (∀ th r, (∀ q, q ∈ e.dests → q.thread = th → r < q.reg ∨ q.reg + q.span ≤ r) →
        (g'.thread th).reg r = (g.thread th).reg r) ∧
      (∀ th, (g'.thread th).preds = (g.thread th).preds ∧ (g'.thread th).flags = (g.thread th).flags) ∧
      g'.gWait = g.gWait.filter (fun o => o.tag != n) ∧ (∀ r, g'.sreg r = g.sreg r) ∧
      (g.hold = .none → g'.hold = .none) ∧
      (∀ f, e.cache = some f → (t.core c).rc = ((s.core c).rcFill ⟨e.addr, f, d⟩).rc) ∧
      (e.cache = none → (t.core c).rc = (s.core c).rc) ∧ t.mem = s.mem ∧ OnlyCore c [7] s t) ∧
  (∀ (c n : Nat) (e : NiEntry) (d : Line) (q : NiDest) (g : Group) (s : State), c < 1280 → (s.core c).ni.find n = some e →
    e.kind = .load → e.dead = false → e.answer = some (d, false) → s.group c e.grp = some g →
    (s.die (dieOfCore c)).reloading = false → (∀ q, q ∈ (s.core c).blocks → q.2.atom = none) →
    e.dests = [q] → q.s = true → (n, q.reg) ∈ g.sWait →
    ∃ t g', exec (.readResponse c n true) s = .next t ∧ (t.core c).ni.find n = none ∧ t.group c e.grp = some g' ∧
      (∀ r, g'.sreg r = if r = q.reg then BitVec.ofNat 64 (leNat (q.value (lineMerge d e.stagedData e.stagedMask)))
        else g.sreg r) ∧
      (∀ th, (g'.thread th).kept (g.thread th)) ∧ g'.sWait = g.sWait.filter (fun o => o.1 != n) ∧ t.mem = s.mem ∧
      OnlyCore c [7] s t) ∧
  (∀ (c n : Nat) (e : NiEntry) (d : Line) (f : Nat) (s : State), c < 1280 → (s.core c).ni.find n = some e →
    e.kind = .fill → e.dead = false → e.answer = some (d, false) → e.cache = some f →
    (s.die (dieOfCore c)).reloading = false → (∀ q, q ∈ (s.core c).blocks → q.2.atom = none) →
    ∃ t, exec (.readResponse c n true) s = .next t ∧ (t.core c).ni.find n = none ∧
      (t.core c).rc = ((s.core c).rcFill ⟨e.addr, f, d⟩).rc ∧ BarsOnly c (fun _ => True) s t ∧ BlocksKept c s t ∧
      OnlyCore c [] s t) ∧
  (∀ (c n aop size : Nat) (op cmp key : DWord) (e : NiEntry) (d : NiDest) (v : Line) (g : Group) (s : State), c < 1280 →
    (s.core c).ni.find n = some e → e.kind = .atom aop size op cmp key → e.dead = false → e.answer = some (v, false) →
    e.dests = [d] → d.s = false → d.thread < 32 → s.group c e.grp = some g → (s.die (dieOfCore c)).reloading = false →
    (∀ q, q ∈ (s.core c).blocks → q.2.atom = none) →
    ∃ t g', exec (.atomicResponse c ⟨n, true⟩) s = .next t ∧ (t.core c).ni.find n = none ∧ t.group c e.grp = some g' ∧
      (∀ k, k < d.span → (g'.thread d.thread).reg (d.reg + k) = regOf (natLe (2 ^ size) (v.toNat % 2 ^ 64)) k) ∧
      (∀ th r, (th = d.thread → r < d.reg ∨ d.reg + d.span ≤ r) → (g'.thread th).reg r = (g.thread th).reg r) ∧
      (∀ th, (g'.thread th).preds = (g.thread th).preds ∧ (g'.thread th).flags = (g.thread th).flags) ∧
      (∀ r, g'.sreg r = g.sreg r) ∧ t.mem = s.mem ∧ ∀ k, k ≠ c → t.core k = s.core k) ∧
  (∀ (l : ApplyLine) (b : Block) (x : SLine) (n : Nat) (e : NiEntry) (a : Line × Bool) (s : State), l.core < 1280 →
    s.block l.core l.slot = some b → b.applyLine l.line = some x →
    (s.core l.core).writeEntry l.slot l.line = some (n, e) → e.answer = some a →
    (s.die (dieOfCore l.core)).reloading = false →
    ∃ t b', exec (.writeAcknowledgement ⟨l, true⟩) s = .next t ∧ t.block l.core l.slot = some b' ∧
      (∃ r q, b'.log = r :: q ∧ ∀ y, y ∈ r.lines → y.addr = x.addr → y.rel = x.rel → y.made = true) ∧ t.mem = s.mem ∧
      ∀ k, k ≠ l.core → t.core k = s.core k) ∧
  (∀ (c n : Nat) (e : NiEntry) (d : Line) (s : State), c < 1280 → (s.core c).ni.find n = some e →
    s.isWindow e.addr = true → e.kind ≠ .write → e.answer = none →
    (∀ v q, s.windowQp ((s.partOfCore c).getD 0) e.addr = some (v, q) → q.waiting = []) →
    ∃ t, exec (.rdmaReadResponse c n true d) s = .next t ∧
      (t.core c).ni.find n = some { e with answer := some (d, false) } ∧
      (∀ v q, s.windowQp ((s.partOfCore c).getD 0) e.addr = some (v, q) →
        t.host.qps.find v.qpn = some { q with reads := q.reads - 1 }) ∧
      t = { s with cores := t.cores, host := { s.host with qps := t.host.qps } } ∧ ∀ k, k ≠ c → t.core k = s.core k) ∧
  (∀ (c n : Nat) (e : NiEntry) (b : Block) (s : State) (k : Instr),
    (k = .refusal c ⟨n, true⟩ ∧ e.refused = some 1 ∧ (s.die (dieOfCore c)).reloading = false ∨
      k = .remoteRequestTimeout c n ∧ e.refused = none ∧ s.hubGone 0 = false ∧ s.hubGone 1 = false ∧
      (s.remotePkg e.addr).isSome = true ∧ e.sentBeat + 1024 ≤ s.time.tsc.toNat / 2048) →
    c < 1280 → (s.core c).ni.find n = some e → e.kind = .load → e.dead = false → e.answer = none →
    s.block c e.bslot = some b → (∀ q, q ∈ (s.core c).blocks → q.2.atom = none) →
    ∃ t b', exec k s = .next t ∧ (t.core c).ni.find n = none ∧ t.block c e.bslot = some b' ∧ b'.st = .stopping ∧
      b'.wset = [] ∧ t.mem = s.mem ∧
      (t.part b.desc.part).grants = (s.part b.desc.part).grants.map fun g =>
        if g.uid = b.desc.uid ∧ g.fault = none then { g with fault := some 0x0A04 } else g)

/-- R267, R268, R270, R359, R409. -/
def Obligations.MemoryUpkeepCompletes : Prop :=
  (∀ (m : Nat) (s : State), m < 24 → (s.memUnit m).insvc = true → s.mf.tripped = false →
    (16 ≤ m ∨ s.reg (.dHbm m) 0x0C / 2 ^ 31 = 1) → (s.memUnit m).remap.find ((s.memUnit m).scrub * 64 / 0x1_0000) = none →
    s.homeHeld m (s.lineAt m ((s.memUnit m).scrub * 64)) = false →
    s.unreadable m (s.lineAt m ((s.memUnit m).scrub * 64)) = false →
    exec (.patrolScrub m .clean) s = .next (s.setMemUnit m { s.memUnit m with
      scrub := if s.memLines m = 0 then 0 else ((s.memUnit m).scrub + 1) % s.memLines m })) ∧
  (∀ (m page sp : Nat) (l : List (Nat × Nat)) (s : State), m < 16 → (s.memUnit m).copies = (page, sp) :: l →
    page < 0x1F_C000 → (s.memUnit m).remap.find page = none →
    ∃ t, exec (.remapCopyDone ⟨m, []⟩) s = .next t ∧ (t.memUnit m).copies = l ∧ (t.memUnit m).remap.find page = some sp ∧
      ∀ o, o < 0x1_0000 → t.memKey m (page * 0x1_0000 + o) = m * 2 ^ 40 + 0x1F_C000_0000 + sp * 0x1_0000 + o ∧
        Tab.find (α := Byte) t.mem (t.memKey m (page * 0x1_0000 + o)) = some (s.memByte m (page * 0x1_0000 + o))) ∧
  (∀ (m : Nat) (ok : Bool) (s : State), m < 16 → (s.memUnit m).retrain = true →
    ∃ t r, exec (.memRetrainDone m ok) s = .next t ∧ (t.memUnit m).retrain = false ∧
      (t.memUnit m).retrainFailed = !ok ∧ (ok = false → (t.memUnit m).leave = true) ∧ r ∈ t.log.flight ∧ r.code = 0x0C06 ∧
      r.src = s.source (0x1300 + m) ∧ t.mem = s.mem ∧ t.cores = s.cores) ∧
  (∀ (ch : Channel) (period : Nat) (s : State), chLeak ch = some period → s.time.tsc.toNat % (2048 * period) = 0 →
    ch ∉ s.mf.leaked →
    ∃ t, exec (.leakyBucketLeak ch) s = .next t ∧
      t.levelOf ch = (if s.retiredCh ch = true then s.levelOf ch else s.levelOf ch - 1) ∧
      t.mf = { s.mf with leaked := s.mf.leaked ++ [ch] } ∧ t.mem = s.mem ∧ t.cores = s.cores) ∧
  (∀ (l : ApplyLine) (b : Block) (x : SLine) (n w o : Nat) (e : NiEntry) (v : Window) (q : Qp) (s : State), l.core < 1280 →
    s.block l.core l.slot = some b → b.applyLine l.line = some x → s.isWindow x.addr = true →
    (s.core l.core).writeEntry l.slot l.line = some (n, e) → (s.core l.core).ni.find n = some e →
    s.windowQp b.part x.addr = some (v, q) →
    (∃ t, exec (.rdmaAcknowledge l true) s = .next t ∧
      (t.core l.core).ni.find n = some { e with answer := some (0, false) } ∧
      t.host.qps.find v.qpn = some { q with retries := 0 } ∧ t.mem = s.mem) ∧
    (s.classify x.addr = .window w o → e.addr = x.addr → s.partOfCore l.core = some b.part → e.answer = none →
      q.retries < 7 →
      ∃ t, exec (.rdmaRetryTimeout l) s = .next t ∧
        t.out = .rdmaWriteOut v.qpn (v.va + BitVec.ofNat 64 o) v.rkey x.mask x.data :: s.out ∧
        t.host.qps.find v.qpn = some { q with retries := q.retries + 1 } ∧ t.cores = s.cores ∧ t.mem = s.mem))


/-! ### Seams -/

/-- R234 to R239, R242, R243, R245, R247.
Where it says more than these rules it is the model's reading: notes/assumptions/20, 50, 57. -/
def Obligations.SeamStepsComplete : Prop :=
  (∀ (c slot n : Nat) (b : Block) (s : State), c < 1280 → s.block c slot = some b → s.ageLimit c = some n → n ≤ b.age →
    b.st = .running → b.stopped = false → b.phase = .run → b.trig = none →
    Does (.ageSeam c slot) s fun t => t.block c slot = some { b with trig := some .age } ∧ t = { s with cores := t.cores } ∧
      ∀ k, k ≠ c → t.core k = s.core k) ∧
  (∀ (c slot : Nat) (b : Block) (s : State), c < 1280 → s.block c slot = some b → b.trig.isSome = true →
    b.mayStop = true → (∀ m, m ∈ s.liveMates c slot → ∃ k, s.block m.1 m.2 = some k ∧ k.mayStop = true) →
    Does (.seamBegin c slot) s fun t =>
      (∀ m, m ∈ s.liveMates c slot → ∀ k, s.block m.1 m.2 = some k → t.block m.1 m.2 = some { k with
        phase := .stopped, trig := some (k.trig.getD .cluster),
        cstamp := if 1 < k.desc.csize then s.clusterStamp (s.liveMates c slot) else 0 }) ∧
      (∀ m, m ∉ s.liveMates c slot → t.block m.1 m.2 = s.block m.1 m.2) ∧
      (∀ k g, t.group k g = s.group k g) ∧ t = { s with cores := t.cores }) ∧
  (∀ (c slot : Nat) (b : Block) (s : State), c < 1280 → s.block c slot = some b → b.phase = .stopped →
    s.quiet c slot b = true →
    Does (.seamQuiesced c slot) s fun t => t.block c slot = some { b with phase := .quiesced } ∧
      t = { s with cores := t.cores } ∧ ∀ k, k ≠ c → t.core k = s.core k) ∧
  (∀ (c slot : Nat) (b : Block) (s : State), c < 1280 → s.block c slot = some b → b.phase = .quiesced →
    recordLen (s.seamEntries c slot b) ≤ (s.core c).logFree →
    Does (.seamLogged c slot) s fun t =>
      t.block c slot = some { b with
        phase := .logged, pend := some ((s.core c).logHead, recordLen (s.seamEntries c slot b)),
        pstamp := if 1 < b.desc.csize then b.cstamp else 0 } ∧
      (t.core c).logHead = ((s.core c).logHead + recordLen (s.seamEntries c slot b)) % logSize ∧
      (∀ g, t.group c g = s.group c g) ∧ (∀ k, k ≠ c → t.core k = s.core k) ∧ t.mem = s.mem ∧ t.parts = s.parts) ∧
  (∀ (c slot : Nat) (b : Block) (s : State), c < 1280 → s.block c slot = some b → b.phase = .logged → b.desc.csize ≤ 1 →
    s.movesNow b = false →
    Does (.seamCommitted c slot) s fun t => (∃ b' r, t.block c slot = some b' ∧ b'.log = [r] ∧ r.lines = b.wset ∧
        r.mgmt = b.mgmt ∧ r.final = false ∧ r.stamp = b'.stamp ∧ (r.off, r.len) = b.pend.getD (0, 0) ∧
        b'.stamp = (if b.stamp.toNat < s.time.tsc.toNat then s.time.tsc else b.stamp + 1) ∧
        (∃ v, r.saved = some v ∧ v.spad = b.spad ∧ v.groups.map (·.1) = (s.blockGroups c b).map (·.1)) ∧
        b'.wset = [] ∧ b'.mgmt = [] ∧ b'.phase = .run ∧ b'.st = b.st ∧ b'.age = 0 ∧ b'.trig = none ∧ b'.applied = false) ∧
      (b.mgmt = [] → t.mem = s.mem ∧ (b.atom = none → t.parts = s.parts)) ∧
      ∀ a v blk o r, b.mgmt = [(a, v)] → s.writable (.priv b.desc.home) a blk o r → s.plainAt blk o = true →
        r.half = 0 → (∀ k n, blk ≠ .core k n) → (s.latch (.priv b.desc.home)).wr = none →
        t.regWord a = r.after (s.regWord a) v) ∧
  (∀ (c slot : Nat) (b : Block) (r : SeamRec) (rest : List SeamRec) (s : State), c < 1280 → s.block c slot = some b →
    b.log = r :: rest → r.final = false → b.allMade = true → (s.core c).applyTurn slot b = true → s.logLost c b = false →
    Does (.seamApplied c slot) s fun t =>
      t.block c slot = some { b with log := rest, slot := r.saved, applied := true } ∧
      (∀ k, k ≠ c → t.core k = s.core k) ∧ t.mem = s.mem ∧ t.parts = s.parts) ∧
  (∀ (c slot : Nat) (b : Block) (a : AtomPend) (s : State), c < 1280 → s.block c slot = some b → b.atom = some a →
    a.started = true → a.finished = false → a.threads = [] →
    (∀ e, e ∈ (s.core c).ni → e.2.bslot = slot → e.2.dead = false → ∀ q z o k j, e.2.kind ≠ .atom q z o k j) →
    Does (.atomAfterSeam c slot) s fun t => (∃ b', t.block c slot = some b' ∧ b'.atom = some { a with finished := true } ∧
        b' = { b with atom := b'.atom, trig := b'.trig } ∧ b'.trig = some (b.trig.getD .atomAfter)) ∧
      t = { s with cores := t.cores } ∧ ∀ k, k ≠ c → t.core k = s.core k)

/-- R229, R247, R248, R380, R381.
Where it says more than these rules it is the model's reading: notes/assumptions/34, 54. -/
def Obligations.CommitsAndRecordsComplete : Prop :=
  (∀ (c slot : Nat) (b : Block) (s : State), c < 1280 → s.block c slot = some b → 1 < b.desc.csize →
    (s.liveMates c slot).head? = some (c, slot) → (s.liveMates c slot).Nodup →
    (∀ m, m ∈ s.liveMates c slot → ∃ k, s.block m.1 m.2 = some k ∧ k.phase = .logged ∧ k.pstamp = b.pstamp ∧ s.movesNow k = false) →
    Does (.clusterCommit c slot) s fun t => ∀ m, m ∈ s.liveMates c slot → ∀ k, s.block m.1 m.2 = some k →
      ∃ k' r, t.block m.1 m.2 = some k' ∧ k'.log = [r] ∧ r.lines = k.wset ∧ r.stamp = b.pstamp ∧ r.final = false ∧
        k'.stamp = b.pstamp ∧ k'.wset = [] ∧ k'.phase = .run) ∧
  (∀ (c slot : Nat) (b : Block) (s : State), c < 1280 → s.block c slot = some b →
    (s.liveMates c slot).head? = some (c, slot) → (s.liveMates c slot).Nodup →
    (∀ m, m ∈ s.liveMates c slot → ∃ k, s.block m.1 m.2 = some k ∧ s.mayEnd m.1 m.2 k = true) →
    Does (.finalCommit c slot) s fun t =>
      (∀ m, m ∈ s.liveMates c slot → ∀ k, s.block m.1 m.2 = some k → ∃ k' r, t.block m.1 m.2 = some k' ∧
        k'.st = .committing ∧ k'.final = true ∧ k'.log = [r] ∧ r.lines = k.wset ∧ r.mgmt = k.mgmt ∧ r.saved = none ∧
        r.final = true ∧ k'.wset = []) ∧
      (b.desc.csize ≤ 1 → b.mgmt = [] → t.mem = s.mem ∧ (t.part b.desc.part).grants =
        (s.part b.desc.part).grants.map (fun g => if g.uid = b.desc.uid then
          { g with sat := g.sat || b.accSat, nf := g.nf || b.accNf || b.lnf } else g))) ∧
  (∀ (c slot : Nat) (b : Block) (s : State), c < 1280 → s.block c slot = some b → b.final = true →
    (∀ m, m ∈ s.mates c slot → ∃ k, s.block m.1 m.2 = some k ∧ k.settled = true) →
    Does (.finalCommitComplete c slot) s fun t =>
      (∀ m, m ∈ s.mates c slot → t.block m.1 m.2 = none ∧ ∀ k, s.block m.1 m.2 = some k → ∀ n, n ∈ k.gslots →
        t.group m.1 n = none) ∧ t.mem = s.mem ∧
      (b.desc.csize ≤ 1 → b.st = .committing → (t.part b.desc.part).grants =
        (s.part b.desc.part).grants.map (fun g => if g.uid = b.desc.uid then
          { g with live := g.live - 1, done := g.done + 1 } else g))) ∧
  (∀ (p : Nat) (g : Grant) (s : State), p < 8 → (s.part p).grants.find? (fun (k : Grant) => k.ready) = some g →
    Does (.completionRecord p) s fun t =>
      (t.part p).grants = (s.part p).grants.filter (fun k => k.uid != g.uid) ∧
      ∀ n m off, g.src = .table n → g.launch.vw = false → s.reg .nrg (glogAt p + 0x28) / 2 ^ 31 = 0 →
        (s.part p).cplHeld = [] → s.cplFull p = false →
        s.home p (lineOf (alignDown (s.regD (.cmdt p) 0x18) 64 +
          BitVec.ofNat 64 (64 * ((s.part p).cplCount % s.cplSlots p)))) = some (m, off) →
        (s.die (dieOfMem m)).keyed = true → s.homeLost m = false → s.mf.tripped = false →
        (s.memUnit m).allPoison = false →
        (∀ k, k < 64 → t.memByte m (off / 64 * 64 + k) = lineByte (Cpl.line ⟨s.boundaryTsc, g.tag, 1, g.fault.getD 0,
          g.launch.grant, g.sat.toNat + 2 * g.nf.toNat, 0, 0, 0⟩
          (if (s.part p).cplCount / s.cplSlots p % 2 = 0 then 1 else 0)) k) ∧
        (∀ a, (∀ k, k < 64 → a ≠ s.memKey m (off / 64 * 64 + k)) →
          Tab.find (α := Byte) t.mem a = Tab.find (α := Byte) s.mem a) ∧
        (t.part p).cplCount = (s.part p).cplCount + 1 ∧ (t.part p).cplHeld = [])


/-- R11, R249, R250, R252, R412, R415.
Where it says more than these rules it is the model's reading: notes/assumptions/34, 58. -/
def Obligations.FaultsAndReplayComplete : Prop :=
  (∀ (d phys cls : Nat) (s : State), d < 8 → phys < 168 → 1 ≤ cls → cls ≤ 5 → s.physWorks d phys = true →
    Does (.coreHardwareFault d phys cls) s fun t =>
      (∃ e, e ∈ t.mf.pending ∧ e.what = .core d phys cls) ∧ t.mem = s.mem ∧
      ∀ c slot b, s.logicalOf d phys = some c → s.block c slot = some b → b.desc.csize ≤ 1 → b.st = .running →
        b.final = false → b.stopped = false →
        (∀ e, e ∈ (s.core c).blocks → ∀ m, m ∈ s.liveMates c e.1 → ∀ k, s.block m.1 m.2 = some k → k.lastAttempt = false) →
        ∃ b', t.block c slot = some b' ∧ b'.stopped = true ∧ b'.st = .running ∧ b'.wset = [] ∧ b'.mgmt = [] ∧
          b'.slot = b.slot ∧ b'.attempt = b.attempt ∧ b'.log.map (·.stamp) = b.log.map (·.stamp)) ∧
  (∀ (c p n : Nat) (g : Group) (b : Block) (s : State), c < 1280 → p < 168 → s.physOf c = some p →
    (n, g) ∈ (s.core c).groups → g.eligible ≠ [] → g.hold = .none → s.block c g.bslot = some b → b.st = .running →
    b.stopped = false → b.trig = none → s.physWorks (dieOfCore c) p = true → c ∉ s.cinch.gated →
    Does (.frontEndStall c) s fun t => exec (.coreHardwareFault (dieOfCore c) p 4) s = .next t) ∧
  (∀ (d p cls c : Nat) (fail : Bool) (e : Due) (s : State), s.mf.pending = [e] → e.what = .core d p cls →
    e.tsc.toNat / 2048 < s.time.tsc.toNat / 2048 → s.time.tsc.toNat % 2048 = 0 →
    s.mf.decideBeat < s.time.tsc.toNat / 2048 → s.mf.rebuild = false →
    ((s.die d).phys.get p PhysSt.fresh).retired = false → (s.die d).failedService = false → s.logicalOf d p = some c →
    Does (.retirementDecision [fail]) s fun t => t.mf.pending = [] ∧
      (fail = false → ((s.die d).phys.get p PhysSt.fresh).level < 2 →
        ((t.die d).phys.get p PhysSt.fresh).level = ((s.die d).phys.get p PhysSt.fresh).level + 1 ∧
        ((t.die d).phys.get p PhysSt.fresh).retired = false ∧ t.map = s.map ∧ t.cores = s.cores) ∧
      (fail = true ∨ 2 ≤ ((s.die d).phys.get p PhysSt.fresh).level →
        ((t.die d).phys.get p PhysSt.fresh).retired = true ∧ t.physOf c = (s.die d).spares.head? ∧
        (t.die d).spares = (s.die d).spares.tail ∧ (∀ k, k ≠ c → t.physOf k = s.physOf k)) ∧ t.mem = s.mem) ∧
  (∀ (c slot : Nat) (b : Block) (s : State), c < 1280 → s.block c slot = some b → b.displaced = true →
    (s.physOf c).isSome = true → s.replayReady c = true → (s.core c).firstDisplaced slot = true →
    s.regionPoison c (b.replayReads slot) = false → s.regionHeld c = false →
    (∀ v, b.slot = some v → (s.core c).fits slot v = true) →
    Does (.blockReplay c ⟨slot, []⟩) s fun t =>
      (∃ b', t.block c slot = some b' ∧ b'.desc = b.desc ∧ b'.stopped = false ∧ b'.attempt = b.attempt + 1 ∧
        b'.wset = [] ∧ b'.phase = .run ∧ b'.gslots = b.gslots ∧
        b'.st = (if b.desc.csize ≤ 1 then BState.running else BState.admitted) ∧ (b.slot = none → b'.spad = []) ∧
        ∀ v, b.slot = some v → (∀ e, e ∈ v.groups → e.2.hold = .none) → v.groups.map (·.1) = b.gslots → b'.spad = v.spad) ∧
      (b.slot = none → b.gslots.Nodup → ∀ i n, b.gslots[i]? = some n → t.group c n = some (s.freshGroup b.desc slot i)) ∧
      (∀ v, b.slot = some v → v.atom = none → (v.groups.map (·.1)).Nodup → ∀ e, e ∈ v.groups →
        ∃ k, t.group c e.1 = some k ∧ k.s = e.2.s ∧ k.threads = e.2.threads) ∧ t.mem = s.mem) ∧
  (∀ (c slot host : Nat) (b : Block) (r : Room) (s : State), c < 1280 → host < 1280 → s.block c slot = some b →
    b.displaced = true → s.physOf c = none → s.replayReady c = true → s.firstMoved c slot = true →
    (coresOfDie (dieOfCore c)).find? (s.qualifies b.desc) = some host → (s.core host).room b.desc = some r →
    s.regionPoison c (b.replayReads slot) = false → s.regionHeld c = false →
    (∀ v, b.slot = some v → (s.core host).fits r.slot v = true) →
    Does (.blockMoved c ⟨slot, []⟩ host) s fun t => t.block c slot = none ∧
      (∃ b', t.block host r.slot = some b' ∧ b'.desc = b.desc ∧ b'.stopped = false ∧ b'.attempt = b.attempt + 1 ∧
        b'.gslots = r.gslots ∧ b'.granules = r.granules ∧ b'.pageTab = r.pages ∧ b'.full = true ∧ b'.trig.isSome = true) ∧
      t.mem = s.mem)


/-! ### The fabric and the tatting links -/

/-- R281, R282, R287, R290 to R293, R301, R306, R307, R413.
Where it says more than these rules it is the model's reading: notes/assumptions/69, 76. -/
def Obligations.FabricEventsComplete : Prop :=
  (∀ (l : Nat) (f : Frame) (s : State), l < 64 → (s.link l).st = .up → (takesBuffer f = true → s.rxUse l f.vc < 32) →
    (∃ i, i < 4 ∧ (s.link l).lanes.getLsbD i = true ∧ i ∈ f.badLanes) →
    Does (.tlFrame l f) s fun t => (t.link l).nextRx = (s.link l).nextRx ∧ t.inbox = s.inbox ∧ t.exchIn = s.exchIn ∧
      t.noticeIn = s.noticeIn ∧ t.mem = s.mem ∧ t.cores = s.cores ∧
      (f.body ≠ .idle → f.seq = (s.link l).nextRx → 2 ≤ (s.link l).badRun → (t.link l).st = .retrain) ∧
      (f.seq ≠ (s.link l).nextRx → (s.link l).badRun < 3 → (t.link l).st = .up)) ∧
  (∀ (l : Nat) (f : Frame) (s : State), l < 64 → (s.link l).st = .up → (takesBuffer f = true → s.rxUse l f.vc < 32) →
    (∀ i, i < 4 → (s.link l).lanes.getLsbD i = true → i ∉ f.badLanes) → f.body ≠ .idle →
    Does (.tlFrame l f) s fun t => t.mem = s.mem ∧
      (f.seq ≠ (s.link l).nextRx → (t.link l).nextRx = (s.link l).nextRx ∧ t.exchIn = s.exchIn) ∧
      (f.seq = (s.link l).nextRx → (t.link l).nextRx = (s.link l).nextRx + 1 ∧ (t.link l).badRun = 0) ∧
      (∀ x, f.body = .exch x → f.seq = (s.link l).nextRx → f.tsync = false → f.dstPkg = s.pkgIdNat →
        (s.part f.dstPart).peers.any (fun e => e.pkg == f.srcPkg && e.part == f.srcPart) = true →
        flowNo f.srcPkg f.srcPart ∉ (s.part f.dstPart).deadFlows → (s.part f.dstPart).keys = true → f.tagOk = true →
        f.key = some (s.part f.dstPart).linkKey →
        (s.part f.dstPart).rxCtr.get (64 * flowNo f.srcPkg f.srcPart + f.origin) 0 < f.counter.toNat →
        t.exchIn = s.exchIn ++ [(s.time.tsc.toNat / 2048, f.dstPart, f.srcPkg, x)] ∧
        (t.part f.dstPart).rxCtr.get (64 * flowNo f.srcPkg f.srcPart + f.origin) 0 = f.counter.toNat) ∧
      ∀ r, f.body = .notice r → f.seq = (s.link l).nextRx → f.dstPkg = s.pkgIdNat →
        t.noticeIn = s.noticeIn ++ [(l, f.srcPart, f.srcPkg, f.dstPart, r)]) ∧
  (∀ (l : Nat) (f : Frame) (s : State), l < 64 → (s.link l).st = .up → f.body = .idle →
    (∀ i, i < 4 → (s.link l).lanes.getLsbD i = true → i ∉ f.badLanes) →
    Does (.tlFrame l f) s fun t => (t.link l).nextRx = (s.link l).nextRx ∧ (t.link l).dist = f.dist ∧ t.mem = s.mem ∧
      t.exchIn = s.exchIn ∧ t.inbox = s.inbox) ∧
  (∀ (l p pkg q why : Nat) (s : State), l < 64 → (l, p, pkg, q, why) ∈ s.noticeIn →
    Does (.notice l p pkg q why) s fun t => t.noticeIn = s.noticeIn.erase (l, p, pkg, q, why) ∧
      (s.pkgIdNat, p, pkg, q, true) ∈ t.noticed ∧ t.mem = s.mem ∧
      (s.peerPart p pkg ≠ q → t.cores = s.cores)) ∧
  (∀ (d i : Nat) (b : Filling) (s : State), d < 8 → (s.die d).fill.find i = some b →
    b.since + 32 < (s.time.tsc.toNat / 2048 + 1) * 2048 →
    Does (.frameFlushTimer d i) s fun t => (t.die d).fill.find i = none ∧ t.mem = s.mem ∧ t.cores = s.cores ∧
      (b.since + 32 ≤ s.time.tsc.toNat → t.time = s.time)) ∧
  (∀ (src dst hop n : Nat) (h : Nat × Nat) (s : State), src < 26 → dst < 26 → (pathOf src dst)[hop]? = some h →
    bridgeOf h.1 h.2 = some n →
    exec (.bridgeTransfer src dst ⟨hop, true⟩) s = .next s ∧
    Does (.bridgeTransfer src dst ⟨hop, false⟩) s fun t => t.mf.bridgeCrc.get n 0 = s.mf.bridgeCrc.get n 0 + 1 ∧
      (15 ≤ s.mf.bridgeCrc.get n 0 → ∃ e, e ∈ t.mf.bridgeDue ∧ e.1 = n) ∧ t.mem = s.mem ∧ t.cores = s.cores) ∧
  (∀ (n fwd back beat : Nat) (s : State), n < 35 → (n, beat) ∈ s.mf.bridgeDue → beat ≤ s.time.tsc.toNat / 2048 →
    Does (.bridgeRetrain n ⟨fwd, back⟩) s fun t => (∀ e, e ∈ t.mf.bridgeDue → e.1 ≠ n) ∧ t.mem = s.mem ∧
      ((s.mf.bridgeSpare.get n (0, 0)).1 + fwd ≤ 2 → (s.mf.bridgeSpare.get n (0, 0)).2 + back ≤ 2 →
        t.cores = s.cores ∧ t.dies = s.dies ∧ t.mf.bridgeSpare.get n (0, 0) =
          ((s.mf.bridgeSpare.get n (0, 0)).1 + fwd, (s.mf.bridgeSpare.get n (0, 0)).2 + back)) ∧
      (2 < (s.mf.bridgeSpare.get n (0, 0)).1 + fwd ∨ 2 < (s.mf.bridgeSpare.get n (0, 0)).2 + back →
        ∀ d, d ∈ bridgeEnds n → (s.die d).failed = false → (t.die d).failedService = true)) ∧
  (∀ (d : Nat) (s : State), d < 8 → (s.die d).reloading = true →
    Does (.fabShadowReload d) s fun t => (t.die d).reloading = false ∧ (t.die d).shadowBad = none ∧
      (t.die d).shadowGen = s.boot.gen ∧ (t.die d).shadow = s.map.filter (fun e => dieOfCore e.1 == d) ∧
      t.mem = s.mem ∧ t.cores = s.cores)

/-- R294 to R296, R305, R310, R312, R395, R460.
Where it says more than these rules it is the model's reading: notes/assumptions/71, 72, 151. -/
def Obligations.LinkTrainingCompletes : Prop :=
  (∀ (l : Nat) (m : ModuleIn) (sig ok : Bool) (s : State), l < 64 → l ∉ freeLinks → s.unpeered l = false →
    s.boot.firmware = true → (s.link l).st = .off ∨ (s.link l).st = .detect →
    Does (.tlDetect l none ⟨sig, ok⟩) s (fun t => (t.link l).st = .off ∧ (t.link l).module = none ∧ t.cores = s.cores) ∧
    Does (.tlDetect l (some m) ⟨sig, ok⟩) s fun t => (t.link l).module = some m ∧ t.cores = s.cores ∧ t.mem = s.mem ∧
      (50 ≤ m.rev → m.power ≤ s.cageBudget l → m.apps.any (appFor l) = true →
        (t.link l).st = (if s.linkEn l = false then LinkSt.off else if sig then LinkSt.equalise else .detect) ∧
        (t.link l).rejected = false ∧ (s.linkEn l = true → sig = true → (t.link l).saved =
          (s.trusts 2 l m.serial.toNat m.partCable ok m.temp && !s.boot.fell.contains (2, l)))) ∧
      (m.rev < 50 ∨ s.cageBudget l < m.power ∨ m.apps.any (appFor l) = false →
        (t.link l).st = .off ∧ (t.link l).rejected = true)) ∧
  (∀ (l : Nat) (x : List Nat) (s : State), l < 64 → (s.link l).st = .equalise → s.inLimit l = true →
    Does (.tlEqualiseDone l x) s fun t => (t.link l).st = .align ∧ (t.link l).settings = x ∧ (t.link l).since = s.time.tsc.toNat ∧ t.cores = s.cores ∧
      t.mem = s.mem) ∧
  (∀ (l : Nat) (errs : List Nat) (s : State), l < 64 → (s.link l).st = .align → s.inLimit l = true →
    Does (.tlAlignDone l errs) s fun t => t.cores = s.cores ∧ t.mem = s.mem ∧
      (∀ i, i < 4 → (t.link l).lanes.getLsbD i = (decide (errs.getD i 0 ≤ 10) && !(s.link l).laneRet.getLsbD i)) ∧
      (t.link l).st = (if 3 ≤ popCount 4 (t.link l).lanes.toNat then LinkSt.identify
        else if (s.link l).saved then .equalise else .off)) ∧
  (∀ (l pkg lk dist : Nat) (lanes : List Nat) (s : State), l < 64 → (s.link l).st = .identify →
    (s.regWord 0x10).getLsbD 30 = true → l < 32 ∨ s.topoSet = true → s.linkDue l = false →
    Does (.tlIdentify l pkg lk lanes dist) s fun t => t.cores = s.cores ∧ t.mem = s.mem ∧
      ((pkg, lk) = s.peerOfLink l → s.unpeered l = false →
        (∀ i, i < 4 → (t.link l).lanes.getLsbD i = ((s.link l).lanes.getLsbD i && decide (i ∈ lanes))) ∧
        (3 ≤ popCount 4 (t.link l).lanes.toNat → (t.link l).st = .delay) ∧
        (popCount 4 (t.link l).lanes.toNat < 3 → (t.link l).st = .identify ∧ t.linkDue l = true)) ∧
      ((pkg, lk) ≠ s.peerOfLink l → (t.link l).st = .identify ∧ (t.link l).miswired = true)) ∧
  (∀ (l : Nat) (trips : List (Nat × Nat)) (s : State), l < 64 → (s.link l).st = .delay → (s.link l).queue = [] →
    s.inLimit l = true → trips.length = 16 →
    Does (.tlDelayDone l trips) s fun t => (t.link l).st = .up ∧
      (t.link l).delayT = (trips.map fun x => x.1 - x.2).sum / 32 ∧ (t.link l).nextTx = 0 ∧
      (t.link l).nextRx = 0 ∧ (t.link l).credits = [32, 32, 32, 32] ∧ t.cores = s.cores ∧ t.mem = s.mem) ∧
  (∀ (l n : Nat) (s : State), l < 64 → (s.link l).st ≠ .retrain → (s.link l).limit = some n →
    (s.link l).since + n < (s.time.tsc.toNat / 2048 + 1) * 2048 →
    Does (.tlStateTimeout l) s fun t => (t.link l).st = .off ∧ t.cores = s.cores ∧ t.mem = s.mem ∧
      ∃ r, t.log.flight = s.log.flight ++ [r] ∧ r.code = 0x0D01 ∧ r.src = s.source (unitLink l)) ∧
  (∀ (l : Nat) (trips : List (Nat × Nat)) (errs : List Nat) (s : State), l < 64 → (s.link l).st = .retrain →
    s.linkDue l = false →
    ((s.link l).since + 16384 < (s.time.tsc.toNat / 2048 + 1) * 2048 →
      Does (.tlRetrainDone l false errs trips) s (fun t => t.cores = s.cores ∧ t.mem = s.mem ∧
        ((s.link l).module = none → (t.link l).st = .off) ∧
        ((s.link l).module ≠ none → (t.link l).st = .retrain ∧ t.linkDue l = true))) ∧
    ((s.link l).module ≠ none → s.inLimit l = true → trips.length = 16 → 3 ≤ popCount 4 (s.link l).lanes.toNat →
      (∀ i, i < 4 → (s.link l).lanes.getLsbD i = true → errs.getD i 0 ≤ 10) →
      Does (.tlRetrainDone l true errs trips) s fun t => t.cores = s.cores ∧ t.mem = s.mem ∧
        (t.link l).st = .up ∧ (t.link l).lanes = (s.link l).lanes ∧
        (t.link l).delayT = (trips.map fun x => x.1 - x.2).sum / 32)) ∧
  (∀ (n : Nat) (s : State), n < 69 →
    Does (.cageModuleRemoved n) s fun t => t.cores = s.cores ∧ t.mem = s.mem ∧
      (n < 64 → (t.link n).module = none ∧ ((s.link n).st = .up → (t.link n).st = .retrain) ∧
        ((s.link n).st = .align → (t.link n).st = .off)) ∧
      (64 ≤ n → t.reg (.eth (n - 64)) 0 = 0)) ∧
  (∀ (path : Path) (l : Nat) (v : Word) (s : State), l < 64 → s.opens path false = true → s.isPackage path = true →
    Does (.tlCtrlEn path l v) s (fun t => (t.regWord (Blk.tl l).base).toNat = v.toNat % 2 ∧ (t.link l).st = (s.link l).st ∧
      (v.getLsbD 1 = false → t.links = s.links) ∧ t.cores = s.cores ∧ t.mem = s.mem) ∧
    (v.getLsbD 1 = true → Does (.tlCtrlRetrain path l v) s fun t => (t.link l).retrainPend = true ∧
      (t.link l).st = (s.link l).st ∧ t.cores = s.cores ∧ t.mem = s.mem)) ∧
  (∀ (path : Path) (d : Nat) (v : Word) (s : State), d < 8 → s.opens path false = true → s.isPackage path = true →
    Does (.fabTopo path d v) s fun t => t.cores = s.cores ∧ t.mem = s.mem ∧
      (s.farUp = false → (bits v 5 0 + 1) * (bits v 13 8 + 1) ≤ 2048 →
        t.torusX = bits v 5 0 + 1 ∧ t.torusY = bits v 13 8 + 1 ∧ t.topoSet = true) ∧
      (s.farUp = true ∨ 2048 < (bits v 5 0 + 1) * (bits v 13 8 + 1) → t.regs = s.regs ∧
        ∃ r, t.log.flight = s.log.flight ++ [r] ∧ r.code = 0x0105))


/-! ### The gradient exchange and the update -/

/-- R314, R319. The check reads the registers with `ARM` already written.
Where it says more than these rules it is the model's reading: notes/assumptions/80, 81. -/
def Obligations.StepsAndPlansComplete : Prop :=
  (∀ (path : Path) (p : Nat) (v : Word) (s : State), p < 8 → s.opens path false = true →
    s.outOfReach path (0x4_002C + 0x1000 * p) = false →
    Does (.xplanStart path p v) s fun t => (t.part p).ex.stepPend = some (s.time.tsc.toNat / 2048 + 1) ∧
      t.regWord (0x4_002C + 0x1000 * p) = v ∧ (t.part p).ex = { (s.part p).ex with stepPend := (t.part p).ex.stepPend } ∧
      t.mem = s.mem ∧ t.cores = s.cores) ∧
  (∀ (p b : Nat) (s : State), p < 8 → (s.part p).ex.stepPend = some b → b ≤ s.time.tsc.toNat / 2048 →
    Does (.stepBoundary p) s fun t => (t.part p).ex.step = s.regWord (0x4_0020 + 0x1000 * p) ∧
      (t.part p).ex.start = BitVec.ofNat 64 (s.reg64 (.xplan p) 0x28) ∧ (t.part p).ex.active = true ∧
      (t.part p).ex.decided = false ∧ (t.part p).ex.stepPend = none ∧ (t.part p).ex.gates = [] ∧
      (t.part p).ex.hups = [] ∧ (t.part p).ex.frozen = false ∧ (t.part p).ex.final = none ∧
      (t.part p).ex.beatsDone = [] ∧ (t.part p).ex.skipped = [] ∧ (t.part p).ex.got = [] ∧
      (t.part p).ex.decideOff = s.reg (.health p) 0 ∧
      (t.part p).ex.armed = (s.part p).ex.armed ∧ (t.part p).ex.plan = (s.part p).ex.plan ∧
      (t.part p).ex.localWord = (if s.reg64 (.xplan p) 0x28 < b + 2 ∨ s.inSync = false ∨ (s.part p).upd.running = true
        then 16 else 0)) ∧
  (∀ (path : Path) (p : Nat) (v : Word) (s : State), p < 8 → s.opens path false = true → v.getLsbD 0 = true →
    s.outOfReach path (0x4_0000 + 0x1000 * p) = false → (s.part p).ex.armed = false → (s.part p).ex.armPend = false →
    Does (.xplanArm path p v) s fun t => t.mem = s.mem ∧ t.cores = s.cores ∧ (t.part p).ex.armed = false ∧
      match (((s.arrived path).dropLatch path).setReg (.xplan p) 0 1).planFault p with
      | none => (t.part p).ex.armPend = true ∧ (t.part p).ex.badEntry = false ∧
          (t.part p).ex.plan.length = s.planCount p ∧ t.log = s.log
      | some i => (t.part p).ex.armPend = false ∧ (t.part p).ex.badEntry = true ∧ (t.part p).ex.entry = i ∧
          (t.part p).ex.plan = (s.part p).ex.plan ∧
          ∃ r, t.log.flight = s.log.flight ++ [r] ∧ r.code = 0x0E03 ∧ r.part = p) ∧
  (∀ (p : Nat) (s : State), p < 8 → (s.part p).ex.armPend = true →
    (∀ r, r ∈ s.resWanted p → (s.core (160 * r.1 + r.2)).blocks = []) →
    Does (.xplanArmed p) s fun t => (t.part p).ex.armed = true ∧ (t.part p).ex.armPend = false ∧
      (t.part p).ex.plan = (s.part p).ex.plan ∧
      (∀ d, ((t.part p).ex.res.get d Resv.fresh).active = decide (d ∈ (s.resWanted p).map (·.1))) ∧
      t = { s with parts := t.parts } ∧ ∀ q, q ≠ p → t.part q = s.part q) ∧
  (∀ (path : Path) (p : Nat) (v : Word) (s : State), p < 8 → s.opens path false = true → v.getLsbD 0 = false →
    s.outOfReach path (0x4_0000 + 0x1000 * p) = false →
    Does (.xplanDisarm path p v) s fun t => (t.part p).ex.armed = false ∧ (t.part p).ex.armPend = false ∧
      (t.part p).ex.active = false ∧ (t.part p).ex.plan = [] ∧ t.activeRes p = [] ∧
      t.reg (.xplan p) 0 = 0 ∧ t.cores = s.cores)

/-- R316, R320 to R326, R329, R331, where the homes' checks find nothing.
The sums of an entry with a missing contribution are free values (notes/assumptions/2).
Where it says more than these rules it is the model's reading: notes/assumptions/82, 85, 87. -/
def Obligations.ExchangeBeatsComplete : Prop :=
  (∀ (p i j : Nat) (e : PlanEntry) (s : State), p < 8 → (s.part p).ex.entries[i]? = some e → e.op = opSend →
    s.entryBeat p e 0 = some j → (s.part p).ex.spent = false → i ∉ (s.part p).ex.skipped →
    (i, j, 0) ∉ (s.part p).ex.beatsDone →
    Does (.exchangeSendBeat p ⟨i, []⟩) s fun t => t.mem = s.mem ∧ t.cores = s.cores ∧
      (j = 0 → e.gate ≠ 255 → e.gate ∉ (s.part p).ex.gates → i ∈ (t.part p).ex.skipped ∧ t.out = s.out ∧
        (if (s.part p).ex.frozen then (t.part p).ex.hLate else (t.part p).ex.late) = true) ∧
      ∀ pkg k l, (j ≠ 0 ∨ e.gate = 255 ∨ e.gate ∈ (s.part p).ex.gates) → s.targetPkg e.target = some pkg →
        (i, j, 0) ∈ (t.part p).ex.beatsDone ∧
        (e.framesOf j = [k] → (s.part p).keys = true →
          s.hubPoisoned p (e.addr + BitVec.ofNat 64 (4 * frameElems * k)) (4 * e.elemsOf k) = false →
          (s.upLinks e.target).find? (fun n => (s.link n).exSent < (s.link n).exLimit) = some l →
          (t.link l).exSent = (s.link l).exSent + 1 ∧ ∃ b : ExchBody, b.step = (s.part p).ex.step ∧ b.frame = k ∧
            b.entry = e.link ∧ b.kind = 1 ∧ b.last = (k + 1 == e.frames) ∧
            b.start = (s.part p).ex.start.setWidth 32 ∧
            b.payload = wordsOf (s.hubBytes p (e.addr + BitVec.ofNat 64 (4 * frameElems * k)) (4 * e.elemsOf k)) ∧
            ((∃ f, f ∈ (t.link l).queue ∧ f.body = .exch b ∧ f.dstPkg = pkg) ∨
              ∃ h f, .linkFrame l h f ∈ t.out ∧ f.body = .exch b ∧ f.dstPkg = pkg))) ∧
  (∀ (p src at' : Nat) (b : ExchBody) (s : State), p < 8 → b.kind = 1 →
    s.exchIn.find? (fun f => f.2.1 == p && f.2.2.1 == src && f.2.2.2 == b) = some (at', p, src, b) →
    Does (.exchangeDataFrame p src b) s fun t => t.exchIn = s.exchIn.erase (at', p, src, b) ∧ t.cores = s.cores ∧
      ((s.part p).ex.accepts b = false → t.mem = s.mem ∧ t.parts = s.parts) ∧
      ∀ e n, (s.part p).ex.accepts b = true → (s.part p).ex.entries[b.entry]? = some e →
        ((s.part p).ex.idsOf e).findIdx? (· == src) = some n → e.op = opReduce ∨ e.op = opRecv → src ≠ s.pkgIdNat →
        b.frame < e.frames → b.payload.length = e.elemsOf b.frame →
        (at' < (s.part p).ex.start.toNat + e.offset + b.frame / e.fpb → (b.entry, n, b.frame) ∉ (s.part p).ex.got →
          (t.part p).ex.got = (s.part p).ex.got ++ [(b.entry, n, b.frame)] ∧
          t.mem = (s.hubStore p (e.slot n b.frame) (exchBytes b)).mem) ∧
        ((s.part p).ex.start.toNat + e.offset + b.frame / e.fpb ≤ at' → t.mem = s.mem ∧ t.parts = s.parts)) ∧
  (∀ (p i j op : Nat) (e : PlanEntry) (late : List Nat) (c : Instr) (s : State),
    (op = opReduce ∧ c = .exchangeReduceBeat p ⟨i, []⟩ late ∨ op = opRecv ∧ c = .exchangeRecvBeat p ⟨i, []⟩ late) → p < 8 →
    (s.part p).ex.entries[i]? = some e → e.op = op → s.entryBeat p e 0 = some j → (s.part p).ex.spent = false →
    (i, j, 0) ∉ (s.part p).ex.beatsDone → s.frameWaits p i e j = false →
    Does c s fun t => (i, j, 0) ∈ (t.part p).ex.beatsDone ∧ t.cores = s.cores ∧
      (s.activeRes p = [] → t.mem = s.mem ∧
        (if (s.part p).ex.frozen then (t.part p).ex.hLate else (t.part p).ex.late) = true) ∧
      (∀ n id, ((s.part p).ex.idsOf e)[n]? = some id → id ≠ s.pkgIdNat → s.contribution p i e n j = none →
        (if (s.part p).ex.frozen then (t.part p).ex.hLate else (t.part p).ex.missing) = true) ∧
      (∀ ws id, op = opRecv → (s.part p).ex.idsOf e = [id] → id ≠ s.pkgIdNat → s.contribution p i e 0 j = some ws →
        ws.length = e.count j → s.activeRes p ≠ [] → (∀ d, d ∈ s.activeRes p → d ∉ late) →
        t.mem = (s.hubStore p (e.addr + BitVec.ofNat 64 (4 * e.first j)) (ws.flatMap fun w => natLe 4 w.toNat)).mem) ∧
      (∀ own a b, op = opReduce → (s.part p).ex.idsOf e = [s.pkgIdNat, b] → b ≠ s.pkgIdNat → s.ownPart p e j = some own →
        s.contribution p i e 1 j = some a → s.activeRes p ≠ [] → (∀ d, d ∈ s.activeRes p → d ∉ late) →
        t.mem = ((s.copyOwn p e 0 j own).hubStore p (e.addr + BitVec.ofNat 64 (4 * e.first j))
          ((List.range (e.count j)).flatMap fun q => natLe 4 (add32 (own.getD q 0) (a.getD q 0)).toNat)).mem)) ∧
  (∀ (p i j : Nat) (e : PlanEntry) (w : Nat × Nat × List Nat) (s : State), p < 8 →
    (s.part p).ex.entries[i]? = some e → e.op = opReduce → s.entryBeat p e 1 = some j →
    (i, j, 1) ∉ (s.part p).ex.beatsDone → (s.part p).ex.wrote.find? (fun w => w.1 == i && w.2.1 == j) = some w →
    Does (.checkBeat p ⟨i, []⟩) s fun t => (i, j, 1) ∈ (t.part p).ex.beatsDone ∧ t.mem = s.mem ∧ t.cores = s.cores ∧
      (s.reg (.digest p) 0 % 256 = 0 → t.regs = s.regs ∧ t.log = s.log))

/-- R333 to R335. -/
def Obligations.HealthCompletes : Prop :=
  (∀ (p f b : Nat) (s : State), p < 8 → (s.part p).ex.current = true → (s.part p).ex.frozen = false →
    (s.part p).ex.freezeAt = some f → s.stepBeat p = some b → f ≤ b → s.healthWaits p 2 f = false →
    Does (.healthFreeze p) s fun t => (t.part p).ex.frozen = true ∧ t.mem = s.mem ∧ t.cores = s.cores ∧
      (∀ k, k < 64 → (t.part p).ex.frozenWord.getLsbD k = (((s.part p).ex.localWord.getLsbD k ||
        ((s.part p).ex.hups.filter fun h => h.2.2).any fun h => h.2.1.getLsbD k) ||
        (decide (48 ≤ k) && nbit (s.reg (.health p) 8) (k - 48)) ||
        (decide (k = 5) && decide (((s.part p).ex.hups.filter fun h => h.2.2).length < s.reg (.health p) 4 % 16)))) ∧
      ((s.part p).ex.isRoot = true → (t.part p).ex.final = some (t.part p).ex.frozenWord)) ∧
  (∀ (p src at' : Nat) (b : ExchBody) (s : State), p < 8 → b.kind = 2 →
    s.exchIn.find? (fun f => f.2.1 == p && f.2.2.1 == src && f.2.2.2 == b) = some (at', p, src, b) →
    Does (.healthUpFrame p src b) s fun t => t.exchIn = s.exchIn.erase (at', p, src, b) ∧ t.mem = s.mem ∧
      t.cores = s.cores ∧ ((s.part p).ex.accepts b = true → (s.part p).ex.hups.lookup src = none →
        (t.part p).ex.hups = (s.part p).ex.hups ++ [(src, b.value, !(s.part p).ex.frozen &&
          decide (at' < (s.part p).ex.start.toNat + (s.part p).ex.freezeOff))] ∧
        (t.part p).ex.frozenWord = (s.part p).ex.frozenWord) ∧
      ((s.part p).ex.accepts b = false → (t.part p).ex = (s.part p).ex)) ∧
  (∀ (p i : Nat) (e : PlanEntry) (s : State), p < 8 → (s.part p).ex.entries[i]? = some e → e.op = opHdown →
    s.stepBeat p = some e.offset → (i, 0, 0) ∉ (s.part p).ex.beatsDone →
    (s.part p).ex.isRoot = false ∨ s.healthWaits p 2 (s.part p).ex.freezeOff = false →
    Does (.healthDownSend p i) s fun t => (i, 0, 0) ∈ (t.part p).ex.beatsDone ∧ t.mem = s.mem ∧ t.cores = s.cores ∧
      ((s.part p).ex.isRoot = true → (t.part p).ex.frozen = true) ∧
      ((s.part p).ex.isRoot = false → (s.part p).ex.final = none → t.out = s.out) ∧
      ∀ pkg l ls w, (s.part p).ex.isRoot = false → (s.part p).ex.final = some w →
        (s.part p).ex.finalBeat < s.time.tsc.toNat / 2048 → s.targetPkg e.target = some pkg →
        s.upLinks e.target = l :: ls → (s.link l).exSent < (s.link l).exLimit → (s.part p).keys = true →
        (t.link l).exSent = (s.link l).exSent + 1 ∧ ∃ b : ExchBody, b.kind = 3 ∧ b.value = w ∧
          b.step = (s.part p).ex.step ∧ b.start = (s.part p).ex.start.setWidth 32 ∧
          ((∃ f, f ∈ (t.link l).queue ∧ f.body = .exch b ∧ f.dstPkg = pkg) ∨
            ∃ h f, .linkFrame l h f ∈ t.out ∧ f.body = .exch b ∧ f.dstPkg = pkg)) ∧
  (∀ (p src at' : Nat) (b : ExchBody) (s : State), p < 8 → b.kind = 3 →
    s.exchIn.find? (fun f => f.2.1 == p && f.2.2.1 == src && f.2.2.2 == b) = some (at', p, src, b) →
    Does (.healthDownFrame p src b) s fun t => t.exchIn = s.exchIn.erase (at', p, src, b) ∧ t.mem = s.mem ∧
      t.cores = s.cores ∧ ((s.part p).ex.accepts b = true → (s.part p).ex.isRoot = false → (s.part p).ex.final = none →
        (s.part p).ex.decided = false → at' < (s.part p).ex.start.toNat + (s.part p).ex.decideOff →
        (t.part p).ex.final = some b.value)) ∧
  (∀ (p : Nat) (s : State), p < 8 → (s.part p).ex.active = true →
    (s.part p).ex.start.toNat + (s.part p).ex.decideOff ≤ s.time.tsc.toNat / 2048 →
    s.healthWaits p 3 (s.part p).ex.decideOff = false →
    ((s.part p).ex.isRoot = true → (s.part p).ex.frozen = false → (s.part p).ex.firstOf opHdown = none →
      s.healthWaits p 2 (s.part p).ex.decideOff = false) →
    Does (.healthDecision p) s fun t => (t.part p).ex.active = false ∧ (t.part p).ex.decided = true ∧ t.cores = s.cores ∧
      ((s.part p).ex.isRoot = false ∨ (s.part p).ex.frozen = true ∨ (s.part p).ex.firstOf opHdown ≠ none →
        (t.part p).ex.unsure = (s.part p).ex.final.isNone ∧ (t.part p).ex.clean = ((s.part p).ex.final == some 0) ∧
        (t.part p).ex.finalLatched = (s.part p).ex.final.getD (setBit
          (if (s.part p).ex.frozen then (s.part p).ex.frozenWord else (s.part p).ex.localWord) 5 true)) ∧
      ((s.part p).ex.isRoot = true → (s.part p).ex.frozen = false → (s.part p).ex.firstOf opHdown = none →
        (t.part p).ex.unsure = false ∧ (t.part p).ex.frozen = true))

/-- R345, R348 to R351. The check reads the registers with `UPD_CTRL` already written.
Where it says more than these rules it is the model's reading: notes/assumptions/61, 89, 91, 92. -/
def Obligations.UpdatesComplete : Prop :=
  (∀ (path : Path) (p : Nat) (v : Word) (s : State), p < 8 → s.opens path false = true →
    s.outOfReach path (0x6_0000 + 0x1000 * p) = false → v.getLsbD 0 = true → v.getLsbD 3 = false →
    (s.part p).upd.armed = false →
    Does (.updArm path p v) s fun t => t.cores = s.cores ∧
      match (((s.arrived path).dropLatch path).setReg (.upd p) 0 (v &&& 5).toNat).updCheck p with
      | .ok es => (t.part p).upd.armed = true ∧ (t.part p).upd.entries = es ∧ (t.part p).upd.badEntry = false
      | .error i => (t.part p).upd.armed = false ∧ (t.part p).upd.badEntry = true ∧ (t.part p).upd.entry = i ∧
          t.mem = s.mem ∧ ∃ r, t.log.flight = s.log.flight ++ [r] ∧ r.code = 0x0F06 ∧ r.part = p) ∧
  (∀ (path : Path) (p : Nat) (v : Word) (s : State), p < 8 → s.opens path false = true →
    s.outOfReach path (0x6_0000 + 0x1000 * p) = false → v.getLsbD 0 = false → v.getLsbD 3 = false →
    Does (.updDisarm path p v) s fun t => t.cores = s.cores ∧ t.mem = s.mem ∧
      (t.part p).upd.running = (s.part p).upd.running ∧
      ((s.part p).upd.running = true → (t.part p).upd.cancel = true ∧ (t.part p).upd.disarmAtEnd = true) ∧
      ((s.part p).upd.running = false → (t.part p).upd.armed = false)) ∧
  (∀ (path : Path) (p : Nat) (v : Word) (s : State), p < 8 → s.opens path false = true →
    s.outOfReach path (0x6_0000 + 0x1000 * p) = false → v.getLsbD 3 = true →
    Does (.updRevert path p v) s fun t => t.cores = s.cores ∧ (t.part p).upd.running = (s.part p).upd.running ∧
      ((s.part p).upd.running = true → (t.part p).upd.cancel = true) ∧
      ((s.part p).upd.running = false → (s.part p).upd.committed = true →
        (t.part p).upd.revertPend = some (s.time.tsc.toNat / 2048 + 1)) ∧
      ((s.part p).upd.running = false → (s.part p).upd.committed = false → ∃ r, r ∈ t.log.flight ∧ r.code = 0x0F05 ∧
        r.part = p)) ∧
  (∀ (p b : Nat) (s : State), p < 8 → (s.part p).upd.revertPend = some b → b ≤ s.time.tsc.toNat / 2048 →
    Does (.revert p) s fun t => t.updVersion p = s.updVersion p - 1 ∧ (t.part p).upd.committed = false ∧
      (t.part p).upd.reverted = true ∧ (t.part p).upd.revertPend = none ∧ t.cores = s.cores ∧
      ∀ n, n < 64 → t.reg (.pgrp p) (0x40 * n + 0x18) = (if n ∈ (s.part p).upd.advanced
        then s.reg (.pgrp p) (0x40 * n + 0x1C) else s.reg (.pgrp p) (0x40 * n + 0x18))) ∧
  (∀ (p : Nat) (s : State), p < 8 → (s.part p).upd.running = true →
    (s.part p).upd.launched < (s.part p).upd.entries.length → (s.part p).upd.launchBeat ≤ s.time.tsc.toNat / 2048 →
    (s.part p).st = .running →
    Does (.updateLaunch p) s fun t =>
      (t.part p).upd.launched = (s.part p).upd.launched + min (1024 - (s.part p).grants.length)
        ((s.part p).upd.entries.length - (s.part p).upd.launched)) ∧
  (∀ (p i : Nat) (e : UpdEntry) (s : State), p < 8 → (s.part p).upd.running = true → (s.part p).upd.entries[i]? = some e →
    (s.part p).upd.launched = i → (s.part p).upd.entries.length = i + 1 →
    (s.part p).upd.launchBeat ≤ s.time.tsc.toNat / 2048 → (s.part p).st = .running → (s.part p).grants.length < 1024 →
    ((s.updUpd p fun u => { u with launched := u.launched + 1 }).count (.cmdt p) 0x40 1).updLaunchOk p e.launch = true →
    Does (.updateLaunch p) s fun t => (t.part p).upd.launched = i + 1 ∧ t.mem = s.mem ∧
      ∃ g, g ∈ (t.part p).grants ∧ g.uid = (s.part p).nextUid ∧ g.src = .update i ∧ g.launch.args = e.args ∧ g.nextLin = 0) ∧
  (∀ (p : Nat) (s : State), p < 8 → (s.part p).upd.running = true →
    (s.part p).upd.entries.length ≤ (s.part p).upd.ended →
    Does (.updateCommit p) s fun t => (t.part p).upd.running = false ∧ t.cores = s.cores ∧
      ((s.part p).upd.runFault = true ∨ (s.part p).upd.cancel = true →
        (t.part p).upd.committed = (s.part p).upd.committed ∧ t.updVersion p = s.updVersion p) ∧
      ((s.part p).upd.runFault = false → (s.part p).upd.cancel = false → t.updVersion p = s.updVersion p + 1 ∧
        (t.part p).upd.committed = true ∧ (t.part p).upd.advanced = (s.part p).upd.tnew.map (·.1) ∧
        (Tab.sorted (s.part p).upd.tnew = true → ∀ n k, n < 64 → (n, k) ∈ (s.part p).upd.tnew → k < 2 ^ 32 →
          t.reg (.pgrp p) (0x40 * n + 0x18) = k ∧
          t.reg (.pgrp p) (0x40 * n + 0x1C) = s.reg (.pgrp p) (0x40 * n + 0x18))))


/-! ### The host side -/

/-- R354 to R358, R360, R363 to R365. NAK codes are the model's choice, the family's (notes/assumptions/104).
Where it says more than these rules it is the model's reading: notes/assumptions/101, 102, 104, 106. -/
def Obligations.PortsAndHandshakesComplete : Prop :=
  (∀ (port phy : Nat) (fec : Bool) (s : State), port < 5 →
    Does (.ethLinkChange port false phy fec) s (fun t => t.reg (.eth port) 0 = 0 ∧ t.cores = s.cores ∧ t.mem = s.mem) ∧
    (s.hubOk (hubOfPort port) = true → (s.regWord ((Blk.eth port).base + 4)).getLsbD 31 = true →
      s.boot.firmware = true →
      s.host.apps.find port = some .cr4 ∧ phy = 1 ∧ fec = true ∨
        s.host.apps.find port = some .gaui400C2m ∧ phy = 2 ∧ fec = true ∨ s.host.apps.find port = some .gaui25 ∧ phy = 3 →
      Does (.ethLinkChange port true phy fec) s fun t => (t.regWord (Blk.eth port).base).getLsbD 31 = true ∧
        bits (t.regWord (Blk.eth port).base) 30 28 = phy ∧ t.cores = s.cores ∧ t.mem = s.mem)) ∧
  (∀ (port : Nat) (f : EthDst) (kind : EthKind) (s : State), port < 5 → s.portUp port = true →
    Does (.ethFrame port f kind) s fun t => t.mem = s.mem ∧ t.cores = s.cores ∧
      (f.vlan ≠ s.reg (.eth port) 4 % 4096 ∨ kind = .cleartextRoce ∨ kind = .cleartextSession ∨ kind = .other →
        t.out = s.out ∧ t.host = s.host) ∧
      ∀ i, f.vlan = s.reg (.eth port) 4 % 4096 →
        ((kind = .arp ∧ isV4 f.ip = true ∨ kind = .neighbour ∧ isV4 f.ip = false) ∧ s.identityFor port f true = some i ∨
          kind = .echo ∧ s.identityFor port f false = some i → t.out = .ethReply port i :: s.out) ∧
        ∀ spi seq inner n x, kind = .esp spi seq true inner → s.identityFor port f false = some i →
          s.spiSession port spi = some n → s.host.sessions.find n = some x →
          seq.toNat ∉ (x.seen.get spi (0, [])).2 → (x.seen.get spi (0, [])).1 < seq.toNat + 1024 →
          (∃ y, t.host.sessions.find n = some y ∧
            y = { x with port := port, lastPkt := s.time.tsc, seen := y.seen, sent := y.sent } ∧
            (y.seen.get spi (0, [])).1 = max (x.seen.get spi (0, [])).1 seq.toNat ∧ seq.toNat ∈ (y.seen.get spi (0, [])).2) ∧
          (inner = .message → t.out = s.out) ∧
          ∀ q k, s.host.qps.find q = some k → k.sess = n → k.die = i →
            (inner = .roce q false .unsupported → t.out = .rdmaNak q 1 :: s.out) ∧
            (inner = .roce q true .supported → t.out = .cnp q :: s.out)) ∧
  (∀ (qpn rkey : Nat) (a : DWord) (bytes : List Byte) (q : Qp) (x : Session) (s : State), s.host.qps.find qpn = some q →
    s.host.sessions.find q.sess = some x → s.mf.tripped = false → s.hubHeld q.part a bytes.length = false →
    Does (.rdmaWrite qpn rkey a ⟨bytes, []⟩) s (fun t => t.cores = s.cores ∧
      (rkey = x.rkey → s.rdmaRange q.part a bytes.length = true → t.mem = (s.hubStore q.part a bytes).mem ∧
        t.out = .rdmaAck qpn :: s.out) ∧
      (rkey ≠ x.rkey ∨ s.rdmaRange q.part a bytes.length = false → t.mem = s.mem ∧ t.out = .rdmaNak qpn 2 :: s.out)) ∧
    Does (.rdmaRead qpn rkey a ⟨bytes.length, []⟩) s fun t => t.cores = s.cores ∧ t.mem = s.mem ∧
      (rkey = x.rkey → s.rdmaRange q.part a bytes.length = true →
        bytes = [] ∨ s.hubPoisoned q.part a bytes.length = false →
        t.out = .rdmaData qpn (s.hubBytes q.part a bytes.length) :: s.out) ∧
      (rkey = x.rkey → s.rdmaRange q.part a bytes.length = true →
        bytes ≠ [] → s.hubPoisoned q.part a bytes.length = true → t.out = .rdmaNak qpn 3 :: s.out) ∧
      (rkey ≠ x.rkey ∨ s.rdmaRange q.part a bytes.length = false → t.out = .rdmaNak qpn 2 :: s.out)) ∧
  (∀ (port : Nat) (h : Hello) (s : State), port < 5 → s.portUp port = true → s.boot.firmware = true →
    (s.regWord 0x10).getLsbD 30 = true →
    Does (.hello port h) s fun t => t.host.sessions = s.host.sessions ∧ t.mem = s.mem ∧
      (h.malformed = true ∨ h.version ≠ 1 ∨ (8 ≤ h.scope ∧ h.scope ≠ 15) ∨ 2 ≤ h.method →
        t.out = .refuse port 1 :: s.out ∧ t.host.shakes = s.host.shakes) ∧
      (h.malformed = false → h.version = 1 → h.scope < 8 ∨ h.scope = 15 → h.method < 2 →
        match s.ownerCheck port (scopeOfCode h.scope) (h.method == 1) with
        | some r => t.out = .refuse port r :: s.out ∧ t.host.shakes = s.host.shakes
        | none => ∃ n k eph nonce pw, s.host.shakes.find n = none ∧ t.host.shakes.find n = some k ∧
            k = ⟨port, scopeOfCode h.scope, h.method == 1, h.takeover, s.host.owner.isNone, s.time.tsc,
              Config.ecdh eph h.pub, BitVec.ofNat 512 (h.nonce.toNat + 2 ^ 256 * nonce.toNat)⟩ ∧
            pw = (if h.method = 1 then s.saltCount (scopeOfCode h.scope) else none) ∧
            t.out = .reply port n (Config.ecPublic eph) nonce pw s.chain (Config.ecdsa s.identity (Config.sha384
              (helloBytes h ++ replyBytes (Config.ecPublic eph) nonce pw s.chain))) :: s.out)) ∧
  (∀ (hs : Nat) (k : Handshake) (s : State), s.host.shakes.find hs = some k →
    s.time.tsc.toNat < k.began.toNat + 2000000000 → s.ownerCheck k.port k.scope k.pw = none →
    Does (.proof hs false) s (fun t => t.host.shakes.find hs = none ∧ t.host.sessions = s.host.sessions ∧
      t.out = .refuse k.port 6 :: s.out ∧ t.mem = s.mem ∧ ∃ f, t.host.failsOf k.scope = some f ∧
        f.count = (s.host.failsOf k.scope).elim 1 (·.count + 1) ∧ f.locked = decide (5 ≤ f.count)) ∧
    (k.scope = .package → s.packageSessions < 2 →
      Does (.proof hs true) s fun t => t.host.shakes.find hs = none ∧ t.mem = s.mem ∧ ∃ x,
        t.host.sessions.find s.host.nextSess = some x ∧ x.scope = .package ∧ x.port = k.port ∧ x.claim = k.claim ∧
        x.z = k.z ∧ x.nonces = k.nonces ∧ x.seen = [] ∧ x.sent = []) ∧
    (∀ p, k.scope = .partition p → (s.part p).session = none →
      Does (.proof hs true) s fun t => t.host.shakes.find hs = none ∧ t.mem = s.mem ∧ (∃ x,
        t.host.sessions.find s.host.nextSess = some x ∧ x.scope = .partition p ∧ x.port = k.port ∧
        ∃ spis, t.out = .accept k.port s.host.nextSess spis x.rkey :: s.out) ∧
        (t.part p).session = some s.host.nextSess ∧
        (t.part p).st = (if (s.part p).st = .defined then .opened else (s.part p).st))) ∧
  (∀ (hs : Nat) (k : Handshake) (s : State), s.host.shakes.find hs = some k →
    k.began.toNat + 2000000000 ≤ s.time.tsc.toNat →
    Does (.handshakeTimeout hs) s fun t => t.host.shakes.find hs = none ∧ t.host.sessions = s.host.sessions ∧
      t.out = s.out ∧ t.mem = s.mem) ∧
  (∀ (sc : Scope) (f : Fails) (s : State), s.host.failsOf sc = some f → f.locked = true →
    f.since.toNat + f.secs * 1000000000 ≤ s.time.tsc.toNat →
    Does (.lockExpiry sc) s fun t => t.host.failsOf sc = some { f with locked := false } ∧
      t = { s with host := { s.host with fails := t.host.fails } }) ∧
  (∀ (n : Nat) (x : Session) (s : State), s.host.sessions.find n = some x → s.reg .sess 4 ≠ 0 →
    x.lastPkt.toNat + s.reg .sess 4 * 1000000000 ≤ s.time.tsc.toNat →
    Does (.sessionIdleTimeout n) s fun t => t.host.sessions.find n = none ∧ t.mem = s.mem ∧ t.cores = s.cores ∧
      (∀ q, q ∈ t.host.qps → q.2.sess ≠ n) ∧ ∀ p, x.scope = .partition p → (t.part p).session = none)

/-- R360, R361, R365, R367 to R369, R372, R374, R384, R428.
Where it says more than these rules it is the model's reading: notes/assumptions/94, 104, 107, 108, 109. -/
def Obligations.SessionMessagesComplete : Prop :=
  (∀ (n p die port mtu : Nat) (s : State), s.tenantOf n p → (s.part p).st ≠ .erased → die ∈ s.diesOf p → port < 4 →
    mtu = 1024 ∨ mtu = 2048 ∨ mtu = 4096 →
    (s.host.qps.filter (fun e => e.2.part == p)).length < s.reg .part (4 * p) % 2 ^ 15 → s.host.qps.length < 16384 →
    Does (.qpCreate n ⟨die, port, mtu⟩) s fun t => ∃ q, 2 ≤ q ∧ s.host.qps.find q = none ∧
      t.host.qps.find q = some ⟨p, die, n, port, mtu, 0, 0, []⟩ ∧ t.out = .qpn n q :: s.out ∧ t.mem = s.mem ∧ t.cores = s.cores) ∧
  (∀ (n p q : Nat) (k : Qp) (s : State), s.tenantOf n p → (s.part p).st ≠ .erased → s.host.qps.find q = some k →
    k.sess = n →
    Does (.qpDestroy n q) s fun t => t.host.qps.find q = none ∧ t.out = .ok n :: s.out ∧ t.mem = s.mem) ∧
  (∀ (n p : Nat) (key : BitVec 256) (s : State), s.tenantOf n p → (s.part p).st ≠ .running →
    Does (.keys n key) s fun t => (t.part p).keys = true ∧ (t.part p).linkKey = key ∧ (t.part p).rxCtr = [] ∧
      (t.part p).epoch = (s.part p).epoch + 1 ∧
      (t.part p).st = (if (s.part p).st = .erased then PartSt.opened else (s.part p).st) ∧ t.host.token = none ∧
      t.out = .ok n :: s.out ∧ t.cores = s.cores ∧ (∀ d, d ∈ s.diesOf p → (t.die d).keyed = true) ∧
      ∀ k, dieOfMem (k / 2 ^ 40) ∈ s.diesOf p → Tab.find (α := Byte) t.mem k = none) ∧
  (∀ (n p : Nat) (key : BitVec 256) (s : State), s.tenantOf n p → (s.part p).st = .running →
    Does (.keys n key) s fun t => t.out = .refused n :: s.out ∧ t.parts = s.parts ∧ t.mem = s.mem) ∧
  (∀ (n p : Nat) (es : List PeerEntry) (s : State), s.tenantOf n p → (s.part p).st = .opened → es.length ≤ 1024 →
    Does (.peers n es) s fun t => (t.part p).peers = es ∧ (t.part p).peersIn = true ∧ t.out = .ok n :: s.out ∧
      t.mem = s.mem ∧ t.cores = s.cores) ∧
  (∀ (n p : Nat) (s : State), s.tenantOf n p → (s.part p).st = .opened → (s.part p).keys = true →
    (s.part p).peersIn = true → s.cmdtOn p = false → s.boot.ready = true → (s.part p).startPend = none →
    Does (.start n) s fun t => (t.part p).startPend = some (s.time.tsc.toNat / 2048 + 1) ∧ t.out = .ok n :: s.out ∧
      t.mem = s.mem ∧ t.cores = s.cores) ∧
  (∀ (n p : Nat) (s : State), p < 8 → s.packageOf n ∨ s.tenantOf n p → (s.part p).st.erasable = true →
    (∀ m, (s.part p).session = some m → ∃ x, s.host.sessions.find m = some x ∧ x.scope = .partition p) →
    Does (.zeroise n p) s fun t => (t.part p).keys = false ∧
      (t.part p).st = (if s.canScrub p then .erasing else .erased) ∧ (t.part p).grants = [] ∧
      (∀ d, d ∈ s.diesOf p → (t.die d).keyed = false) ∧ (∀ c, s.partOfCore c = some p → t.core c = Core.fresh) ∧
      (t.part p).session = none ∧ t.mem = s.mem) ∧
  (∀ (n kind p : Nat) (nonce : BitVec 256) (s : State),
    (kind = 1 ∧ s.packageOf n ∨ (kind = 2 ∨ kind = 3 ∧ (s.part p).eraseReport ≠ none) ∧ p < 8 ∧ (s.part p).st ≠ .free ∧
      (s.packageOf n ∨ s.tenantOf n p)) →
    Does (.attest n kind p nonce) s fun t => t.mem = s.mem ∧ t.cores = s.cores ∧ ∃ r, t.out = .report n r s.chain :: s.out ∧
      r.sig = Config.ecdsa s.identity (Config.sha384 (s.reportBytes r)) ∧ r.nonce = nonce ∧ r.tsc = s.time.tsc ∧ (kind ≠ 3 → r.kind = kind) ∧
      (kind = 2 → r.owner = (s.part p).tenant ∧ r.epoch = (s.part p).epoch)) ∧
  (∀ (n p : Nat) (c : Cred) (s : State), s.packageOf n → p < 8 → (s.part p).st ≠ .free →
    Does (.assign n p c) s fun t => t.mem = s.mem ∧ t.cores = s.cores ∧ if credOk c then
      (t.part p).tenant = some c ∧ (t.part p).st = (s.part p).st ∧ t.out = .ok n :: s.out
    else t.parts = s.parts ∧ t.out = .refused n :: s.out) ∧
  (∀ (n : Nat) (pub : BitVec 776) (x : Session) (s : State), s.host.sessions.find n = some x → x.scope = .package →
    Does (.owner n pub) s fun t => t.host.owner = some (.key pub) ∧ t.flash.owner = some (.key pub) ∧ t.mem = s.mem ∧
      (∃ y, t.host.sessions.find n = some y ∧ y = { x with claim := false, lastPkt := s.time.tsc, sent := y.sent }) ∧
      t.out = .ok n :: s.out) ∧
  (∀ (n : Nat) (x : Session) (s : State), s.host.sessions.find n = some x → x.claim = false →
    Does (.close n) s fun t => t.host.sessions.find n = none ∧ (∀ q, q ∈ t.host.qps → q.2.sess ≠ n) ∧
      t.out = .ok n :: s.out ∧ t.mem = s.mem ∧ t.cores = s.cores) ∧
  (∀ (n p i count : Nat) (s : State), s.tenantOf n p →
    Does (.evread n i count) s fun t => t.mem = s.mem ∧ t.cores = s.cores ∧ ∃ rs, t.out = .records n rs :: s.out ∧
      rs.length ≤ count ∧ ∀ r, r ∈ rs → r ∈ s.log.ring ∧ r.part = p) ∧
  (∀ (n : Nat) (s : State), s.packageOf n → (∀ p, p < 8 → (s.part p).st = .free) →
    Does (.release n) s fun t => t.host.owner = none ∧ t.flash.owner = none ∧ t.mem = s.mem ∧ ∃ k,
      t.out = .token n k :: s.out ∧ t.host.token = some k ∧ k.owner = s.host.owner ∧
      k.sig = Config.ecdsa s.identity (Config.sha384 (tokenBytes k))) ∧
  (∀ (n p : Nat) (bytes : List Byte) (s : State), s.packageOf n → p < 8 → (s.part p).st = .running → bytes.length = 120 →
    Does (.privlaunch n p bytes) s fun t => t.mem = s.mem ∧ t.cores = s.cores ∧
      match (s.arrived (.session n)).checkLaunch p (leNat bytes) true with
      | some r => t.out = .privReply n r :: s.out ∧ t.parts = s.parts
      | none => t.out = .privReply n 0 :: s.out ∧ (t.part p).priv = (s.part p).priv ++
          [⟨n, launchOf (leNat bytes), 0, s.time.tsc.toNat / 2048 + 1⟩])

/-- R370 to R374, R376 to R379, R400.
Where it says more than these rules it is the model's reading: notes/assumptions/96, 97, 98. -/
def Obligations.PartitionsAndTableComplete : Prop :=
  (∀ (path : Path) (p : Nat) (v : Word) (s : State), p < 8 → s.opens path false = true → s.isPackage path = true →
    (v.getLsbD 18 = true → (s.part p).st = .free → p % 2 ^ bits v 17 16 = 0 →
      (∀ d, d ∈ partDies p (bits v 17 16) → (s.die d).failed = false ∧ (s.die d).failedService = false ∧
        s.partOfDie d = none) →
      Does (.partDefine path p v) s fun t => (t.part p).st = .defined ∧ (t.part p).size = bits v 17 16 ∧
        t.diesOf p = partDies p (bits v 17 16) ∧ t.mem = s.mem ∧ t.cores = s.cores) ∧
    (v.getLsbD 0 = true → v.getLsbD 1 = false →
      Does (.partReset path p v) s fun t => t.mem = s.mem ∧ t.cores = s.cores ∧
        ((s.part p).st = .running → (t.part p).st = .resetting ∧
          (t.part p).resetPend = some (s.time.tsc.toNat / 2048 + 1)) ∧
        ((s.part p).st ≠ .running → t.parts = s.parts)) ∧
    (v.getLsbD 1 = true → v.getLsbD 0 = false →
      Does (.partRelease path p v) s fun t => t.mem = s.mem ∧
        ((s.part p).st = .defined ∨ (s.part p).st = .opened ∨ (s.part p).st = .running → (t.part p).keys = false ∧
          (t.part p).st = (if s.canScrub p then .erasing else .free) ∧
          (s.canScrub p = true → (t.part p).toFree = true) ∧
          (∀ d, d ∈ s.diesOf p → (t.die d).keyed = false)) ∧
        ((s.part p).st = .erased → (s.part p).scrubbed = true → (t.part p).st = .free ∧ (t.part p).tenant = none) ∧
        ((s.part p).st = .free ∨ (s.part p).st = .resetting ∨ (s.part p).st = .erasing → t.parts = s.parts))) ∧
  (∀ (p b : Nat) (s : State), p < 8 → (s.part p).startPend = some b → b ≤ s.time.tsc.toNat / 2048 → (s.part p).st = .opened →
    (∀ c, c ∈ s.coresOf p → (s.core c).blocks = []) → (∀ d, d ∈ s.diesOf p → (s.die d).testsDone = true) →
    Does (.partitionStart p) s fun t => (t.part p).st = .running ∧ (t.part p).startPend = none ∧ t.mem = s.mem ∧
      (t.part p).hbmSet = (List.range 16).filter (fun m => (s.diesOf p).contains (dieOfMem m) && (s.memUnit m).insvc) ∧
      (t.part p).hbmSize = (t.part p).hbmSet.length * (126 * 2 ^ 30) ∧
      ∀ d i, d ∈ s.diesOf p → i < 160 → (s.die d).failed = false → (s.die d).failedService = false → s.seamStacks d ≠ [] →
        t.physOf (160 * d + i) = ((List.range 168).filter fun k => !(s.badSet d ++ s.retiredOf d).contains k)[i]?) ∧
  (∀ (p b : Nat) (s : State), p < 8 → (s.part p).resetPend = some b → b ≤ s.time.tsc.toNat / 2048 →
    Does (.partitionReset p) s fun t => (t.part p).resetPend = none ∧ (t.part p).grants = [] ∧ (t.part p).owed = [] ∧
      (t.part p).st = (if (s.part p).session.isSome then .opened else .defined) ∧ (t.part p).ex = Exch.fresh ∧
      (t.part p).upd = Upd.fresh ∧ (∀ a, resetAddr p a = true → Tab.find t.regs a = none) ∧
      ((∀ d, d ∈ s.diesOf p → (s.die d).wedged = false) → t.mem = s.mem) ∧
      ∀ c slot b', c ∈ s.coresOf p → s.block c slot = some b' → ∃ q, t.block c slot = some q ∧ q.st = .stopping ∧
        q.wset = [] ∧ q.log = b'.log) ∧
  (∀ (p : Nat) (s : State), p < 8 → (s.part p).st = .erasing → s.canScrub p = true →
    Does (.memoryScrubDone p) s fun t => (t.part p).st = (if (s.part p).toFree then PartSt.free else .erased) ∧
      (t.part p).scrubbed = true ∧ t.cores = s.cores ∧
      (∀ k, dieOfMem (k / 2 ^ 40) ∈ s.diesOf p → Tab.find (α := Byte) t.mem k = none) ∧
      ∀ m, m < 24 → dieOfMem m ∈ s.diesOf p → (t.memUnit m).poison = []) ∧
  (∀ (path : Path) (p : Nat) (v : Word) (s : State), p < 8 → s.opens path false = true →
    s.outOfReach path (0x2_0000 + 0x1000 * p) = false →
    Does (.cmdtEn path p v) s fun t => t.mem = s.mem ∧ t.cores = s.cores ∧
      (v.getLsbD 0 = false → t.cmdtOn p = false) ∧
      (v.getLsbD 0 = true → match ((s.arrived path).dropLatch path).cmdtBad p with
        | 0 => t.cmdtOn p = true ∧ (t.part p).head = 0 ∧ (t.part p).phase = true ∧ (t.part p).badCfg = false
        | n => t.cmdtOn p = false ∧ (t.part p).badCfg = true ∧ ∃ r, t.log.flight = s.log.flight ++ [r] ∧
            r.code = 0x100A ∧ r.part = p ∧ r.data = BitVec.ofNat 128 n)) ∧
  (∀ (p v : Nat) (s u : State), p < 8 → u = s.takePriv p → u.entryNow p = some v →
    (entryType v = 1 → (u.advanceHead p).checkLaunch p v false = none → Does (.cmdtLaunch ⟨p, []⟩) s fun t =>
      (t.part p).head = ((u.part p).head + 1) % u.cmdtSlots p ∧ t.mem = u.mem ∧ ∃ g,
        (t.part p).grants = (u.part p).grants ++ [g] ∧ g.launch = launchOf v ∧ g.tag = entryTag v ∧
        g.src = .table (u.part p).head ∧ g.uid = (u.part p).nextUid ∧ g.nextLin = 0 ∧ g.live = 0 ∧ g.done = 0 ∧
        g.fault = none) ∧
    (entryType v = 2 → (u.advanceHead p).windowOk p v = true → Does (.cmdtWindow ⟨p, []⟩) s fun t =>
      (t.part p).head = ((u.part p).head + 1) % u.cmdtSlots p ∧ (t.part p).grants = (u.part p).grants ∧
      (t.part p).windows.find (fieldAt v 0 0 12) = (if fieldAt v 2 0 1 = 1 then
        some ⟨fieldAt v 4 0 32, BitVec.ofNat 64 (fieldAt v 8 0 64), fieldAt v 16 0 32, fieldAt v 20 0 32⟩ else none)) ∧
    (entryType v = 3 → Does (.cmdtMark ⟨p, []⟩) s fun t =>
      (t.part p).head = ((u.part p).head + 1) % u.cmdtSlots p ∧ (t.part p).grants = (u.part p).grants ∧
      ((u.part p).owed ≠ [] → (t.part p).owed = (u.part p).owed ++ [.mark (entryTag v)] ∧ t.mem = u.mem) ∧
      ((u.part p).owed = [] → (t.part p).owed = [])) ∧
    (entryType v = 0 → Does (.cmdtNop ⟨p, []⟩) s fun t =>
      (t.part p).head = ((u.part p).head + 1) % u.cmdtSlots p ∧ (t.part p).grants = (u.part p).grants ∧
      (t.part p).owed = (u.part p).owed ∧ t.mem = u.mem)) ∧
  (∀ (p : Nat) (tag : Word) (l : List Owed) (s : State), p < 8 → (s.part p).owed = .mark tag :: l →
    Does (.markComplete p) s fun t => (t.part p).owed = l ∧ (t.part p).grants = (s.part p).grants ∧ t.cores = s.cores)

/-! ### From reset to ready -/

/-- R388 to R393, R406, R453, R456. The field retirement area can fail units as the fuses are read, so that clause has premises
about its entries.
Where it says more than these rules it is the model's reading: notes/assumptions/111, 112, 113, 114. -/
def Obligations.StartPhasesComplete : Prop :=
  (∀ s : State, Does .packageColdReset s fun t => t.flash = s.flash ∧ t.boot = State.reset.boot ∧ t.regs = [] ∧
    t.mem = [] ∧ t.cores = [] ∧ t.parts = [] ∧ t.dies = [] ∧ t.links = [] ∧ t.log = State.reset.log ∧ t.mf = State.reset.mf ∧
    t.time.tsc = 0 ∧ t.host = State.reset.host ∧ t.out = s.out ∧ t.freeCtr = s.freeCtr) ∧
  (∀ s : State, s.boot.rstN = true → s.boot.pgBoard = true → Does .pgBoardFall s fun t => t.flash = s.flash ∧
    t.boot = { State.reset.boot with pgBoard := false } ∧ t.regs = [] ∧ t.mem = [] ∧ t.cores = [] ∧ t.parts = [] ∧
    t.out = s.out) ∧
  (∀ (v : BitVec 14) (s : State), s.boot.rstN = false → Does (.resetRelease v) s fun t =>
    t = { s with boot := { s.boot with rstN := true, pgBoard := true, straps := v } }) ∧
  (∀ s : State, s.boot.rstN = true → s.boot.pll = false → Does .cantlePllLock s fun t => t.time.tsc = 0 ∧
    t.boot.pll = true ∧ t = { s with boot := t.boot, time := { s.time with tsc := 0 } }) ∧
  (∀ (h : Nat) (s : State), h < 2 → s.boot.pll = true → s.boot.phase = .selfTest → (s.hub h).tested = false →
    (s.hub h).failed = false →
    Does (.hubSelfTest h true) s (fun t => t.hub h = { s.hub h with tested := true, cantle := 0xF } ∧
      t.hub (1 - h) = s.hub (1 - h) ∧ t.log = s.log ∧
      t.boot.phase = if (s.hub (1 - h)).tested then .fuses else .selfTest) ∧
    Does (.hubSelfTest h false) s fun t => (t.hub h).failed = true ∧ (t.hub h).tested = true ∧
      (∃ r, r ∈ t.log.flight ∧ r.code = 0x1103 ∧ r.sev = 3 ∧ r.data = payload [(0, h), (1, s.boot.phase.code)]) ∧
      t.primary = (if (t.hub 0).failed ∨ (t.hub 0).lost then 1 else 0) ∧
      ((s.hub (1 - h)).failed = true → t.boot.phase = .stopped ∧ t.pins.fault = true)) ∧
  (∀ (a b : FuseIn) (u : FuseCopy) (s : State), s.boot.phase = .fuses → (s.hub 0).failed = false → (s.hub 1).failed = false →
    fuseMerge a b = some u →
    (∀ k, a.keyHash = some k ∨ a.keyHash = none ∧ b.keyHash = some k → u.keyHash = k) ∧
    (∀ v, a.fwmin = some v ∨ a.fwmin = none ∧ b.fwmin = some v → u.fwmin = v) ∧
    (∀ x y, a.bad = some x → b.bad = some y → ∀ e, e ∈ u.bad ↔ e ∈ x ∨ e ∈ y) ∧
    (∀ x y, a.field = some x → b.field = some y → ∀ e, e ∈ u.field ↔ e ∈ x ∨ e ∈ y) ∧
    Does (.fuseRead (some a) (some b)) s fun t => t.boot.fuse = some u ∧
      (fuseDiffs a b = [] → t.boot.diverge = s.boot.diverge ∧
        ((∀ e, e ∈ u.field ++ s.flash.field → bits e 23 20 ≠ 5) → t.boot.phase = .image)) ∧
      ((∃ x y, a.keyHash = some x ∧ b.keyHash = some y ∧ x ≠ y) ∨ (∃ x y, a.fwmin = some x ∧ b.fwmin = some y ∧ x ≠ y) ∨
          (∃ x y, a.serials = some x ∧ b.serials = some y ∧ x ≠ y) ∨ (∃ x y, a.mac = some x ∧ b.mac = some y ∧ x ≠ y) ∨
          (∃ x y, a.claim = some x ∧ b.claim = some y ∧ x ≠ y) ∨ (∃ x y, a.secret = some x ∧ b.secret = some y ∧ x ≠ y) →
        t.boot.diverge = true ∧ t.pins.fault = true ∧ ∃ r, r ∈ t.log.flight ∧ r.code = 0x1104 ∧ r.sev = 3)) ∧
  (∀ (a : FuseIn) (u : FuseCopy) (s : State), s.boot.phase = .fuses → (s.hub 0).failed = false → (s.hub 1).failed = false →
    (fuseMerge a a = some u →
      Does (.fuseRead (some a) none) s (fun t => t.boot.fuse = some u ∧ (t.hub 1).failed = true) ∧
      Does (.fuseRead none (some a)) s (fun t => t.boot.fuse = some u ∧ (t.hub 0).failed = true)) ∧
    Does (.fuseRead none none) s fun t => t.boot.phase = .stopped ∧ t.pins.fault = true ∧ (t.hub 0).failed = true ∧
      (t.hub 1).failed = true) ∧
  (∀ (i : ImageIn) (f : FuseCopy) (s : State), s.boot.phase = .image → s.boot.fuse = some f →
    Does (.imageVerify i) s fun t => t.flash = s.flash ∧
      (i.magic = 0x415A4631 ∧ i.keyHash = f.keyHash ∧ i.sigOk = true ∧ s.fwmin ≤ i.fwver.toNat ∧ i.sectionsOk = true →
        t.boot.image = some i ∧ t.boot.phase = (if s.boot.diverge then .stopped else .firmware) ∧
        t.pins.fault = (s.pins.fault || s.boot.diverge)) ∧
      (i.magic ≠ 0x415A4631 ∨ i.keyHash ≠ f.keyHash ∨ i.sigOk = false ∨ i.fwver.toNat < s.fwmin ∨ i.sectionsOk = false →
        t.boot.phase = .recovery ∧ t.boot.image = s.boot.image ∧ t.pins.fault = true ∧
        ∃ r, t.log.flight = s.log.flight ++ [r] ∧ r.code = 0x1101 ∧ r.sev = 3)) ∧
  (∀ (i : ImageIn) (ok : Bool) (s : State), s.boot.phase = .recovery →
    Does (.recover i ok) s fun t => t.flash = s.flash ∧
      (s.imageFault i = none ∧ (s.flash.owner = none ∨ ok = true) → t.boot = State.reset.boot ∧ t.mem = [] ∧
        ∃ r, t.log.flight = [r] ∧ r.code = 0x1102 ∧ r.data = BitVec.ofNat 128 i.fwver.toNat) ∧
      (s.imageFault i ≠ none ∨ s.flash.owner ≠ none ∧ ok = false →
        t = { s with out := .recoverRefused :: s.out })) ∧
  (∀ (rej : List (Nat × Nat)) (desc : Option (List Nat)) (ver : Nat) (s : State), s.boot.phase = .firmware →
    s.boot.firmware = false → (∀ r, r ∈ rej → r.1 < 6) →
    Does (.firmwareStart rej desc ver) s fun t => t.boot.firmware = true ∧ t.boot.phase = .training ∧ t.mem = s.mem ∧
      t.reg .pkg 0x10 = 2 ^ 30 +
        ((if rej.any (fun r => r.1 == 0) then none else s.flash.pkgId).getD s.boot.straps).toNat ∧
      t.host.owner = (if rej.any (fun r => r.1 == 1) then none else s.flash.owner) ∧
      t.flash.starts = (if rej.any (fun r => r.1 == 4) then 0 else s.flash.starts) + 1 ∧
      (∀ d, d < 8 → (s.die d).failed = false → (t.die d).pwrEn = true) ∧
      t.log.flight = [] ∧ (s.log.ring = [] → s.log.flight.length + rej.length < 16384 → ∀ r, r ∈ rej →
        ∃ e, e ∈ t.log.ring ∧ e.code = 0x1108 ∧ e.data = payload [(0, r.1), (4, r.2)])) ∧
  (∀ s : State, s.boot.firmware = true →
    Does .hourTick s fun t => t = { s with flash := { s.flash with hours := s.flash.hours + 1 } }) ∧
  (∀ (path : Path) (v : Word) (s : State), s.opens path false = true → s.isPackage path = true →
    Does (.bootNofast path v) s (fun t => t.flash.nofast = v.getLsbD 0 ∧ t.out = okTo path s.out ∧ t.mem = s.mem ∧
      (v.getLsbD 1 = false → t.flash = { s.flash with nofast := v.getLsbD 0 })) ∧
    (v.getLsbD 1 = true → Does (.bootDiscard path v) s fun t =>
      t.flash = { s.flash with nofast := v.getLsbD 0, saved := [] } ∧ t.boot = s.boot ∧ t.out = okTo path s.out ∧
      t.mem = s.mem))

/-- R388, R394 to R404, R452, R454.
Where it says more than these rules it is the model's reading: notes/assumptions/115, 116, 117. -/
def Obligations.TestsTrainingAndReadyComplete : Prop :=
  (∀ (d : Nat) (s : State), d < 8 → (s.die d).pwrEn = true → (s.die d).powered = false →
    Does (.pgCAssert d) s (fun t => t.die d = { s.die d with powered := true, setpoint := setpointOf s.cinch.mhz } ∧
      t = { s with dies := t.dies, out := .setpoint d (setpointOf s.cinch.mhz) :: s.out }) ∧
    Does (.pgCTimeout d) s fun t => (t.die d).failed = true ∧ (t.die d).pwrEn = false ∧
      (∀ m, m = 2 * d ∨ m = 2 * d + 1 ∨ m = 16 + d → (t.memUnit m).insvc = false) ∧ ∃ r, r ∈ t.log.flight ∧ r.code = 0x1106) ∧
  (∀ (d : Nat) (s : State), d < 8 → s.boot.rstN = true → (s.die d).powered = true → (s.die d).powerLost = false →
    Does (.pgCFall d) s fun t => t.die d = { s.die d with powerLost := true } ∧ t = { s with dies := t.dies }) ∧
  (∀ (d : Nat) (ok : Bool) (s : State), d < 8 → (s.die d).powered = true → (s.die d).fwOk = false →
    (s.die d).failed = false →
    Does (.coreFirmwareCheck d ok) s fun t => (ok = true → s.boot.coreImageOk = true → (t.die d).fwOk = true ∧ t.log = s.log) ∧
      (ok = false → (s.die d).fwTries = 0 → t.die d = { s.die d with fwTries := 1 } ∧ t.log = s.log) ∧
      (ok = false → (s.die d).fwTries ≠ 0 → (t.die d).failed = true ∧ (t.die d).pwrEn = false ∧ t.log ≠ s.log)) ∧
  (∀ (u : KatUnit) (ok : Bool) (run : Nat) (s : State), s.boot.firmware = true → s.katRuns u = true →
    Does (.knownAnswerRuns u ok run) s fun t => (s.boot.katDone = false → t.mem = s.mem ∧ t.cores = s.cores) ∧
      (ok = true → u ≠ .done → t = s) ∧
      (u = .done → t.boot.katDone = true ∧ ∀ d, d < 8 → (t.die d).testsDone = true) ∧
      (∀ d p, u = .core d p → ok = false → p ∈ (t.die d).testBad ∧
        (p ∉ (s.die d).testBad → (t.die d).testBad = (s.die d).testBad ++ [p] ∧ ∃ r, t.log.flight = s.log.flight ++ [r] ∧
          r.code = 0x1106)) ∧
      (∀ d w, u = .way d w → ok = false → (t.die d).ways = (s.die d).ways - 1 ∧
        ((s.die d).ways = 1 → (if s.boot.katDone then (t.die d).failedService else (t.die d).failed) = true)) ∧
      (∀ d, u = .die d → ok = false → (if s.boot.katDone then (t.die d).failedService else (t.die d).failed) = true) ∧
      ∀ h b, u = .hub h b → ok = false → (t.hub h).failed = true ∧ (t.hub h).kat = setBit (s.hub h).kat b true) ∧
  (∀ (m : Nat) (idOk : Bool) (serial : DWord) (sv : SavedIn) (chk trn : Bool) (hppr : Nat)
    (pages : List (Nat × Nat)) (s : State), m < 16 → s.boot.firmware = true → (s.die (m / 2)).powered = true → (s.die (m / 2)).failed = false →
    (s.memUnit m).settled = false →
    Does (.hbmTrained m idOk serial sv chk trn hppr pages) s fun t => (t.memUnit m).settled = true ∧ t.mem = s.mem ∧
      (t.memUnit m).serial = serial ∧
      (idOk = false ∨ (s.trusts 0 m serial.toNat 0 sv.sealOk sv.temp && chk || trn) = false →
        (t.memUnit m).insvc = (s.memUnit m).insvc) ∧
      (idOk = true → (s.trusts 0 m serial.toNat 0 sv.sealOk sv.temp && chk || trn) = true → (t.memUnit m).trained = true ∧ (t.memUnit m).insvc = !s.fieldStack m ∧
        (t.memUnit m).poison = [] ∧ ∀ p pc, pages = [(p, pc)] → p < usablePages → s.flash.remap = [] →
          (t.memUnit m).remap = [(p, 0)])) ∧
  (∀ (m : Nat) (spd : SpdIn) (sv : SavedIn) (chk trn : Bool) (s : State), m < 8 → s.boot.firmware = true →
    (s.die m).powered = true → (s.die m).failed = false → (s.memUnit (16 + m)).settled = false →
    Does (.lpddrTrained m spd sv chk trn) s fun t => (t.memUnit (16 + m)).settled = true ∧ t.mem = s.mem ∧
      (t.memUnit (16 + m)).present = spd.present ∧
      (spd.present = false ∨ spdTrainable spd = false ∨ (s.trusts 1 m spd.serial.toNat 0 sv.sealOk sv.temp && chk || trn) = false →
        (t.memUnit (16 + m)).insvc = (s.memUnit (16 + m)).insvc) ∧
      (spd.present = true → spdTrainable spd = true → (s.trusts 1 m spd.serial.toNat 0 sv.sealOk sv.temp && chk || trn) = true →
        (t.memUnit (16 + m)).gb = spd.gb ∧
        (t.memUnit (16 + m)).insvc = (!s.flash.lpxRetired.contains spd.serial && s.hubOk (hubOfDie m)))) ∧
  (∀ (d : Nat) (s : State), d < 8 → s.boot.firmware = true → (s.die d).mapBuilt = false → (s.die d).failed = false →
    (s.die d).failedService = false → (s.die d).testsDone = true → (s.memUnit (2 * d)).settled = true →
    (s.memUnit (2 * d + 1)).settled = true → s.seamStacks d ≠ [] → s.time.tsc.toNat % 2048 = 0 →
    s.boot.genBeat ≠ some (s.time.tsc.toNat / 2048) →
    Does (.coreMapBuild d) s fun t => (t.die d).mapBuilt = true ∧ t.mem = s.mem ∧
      (∀ i, i < 160 → t.physOf (160 * d + i) = ((List.range 168).filter fun k => !(s.badSet d).contains k)[i]?) ∧
      (∀ c, dieOfCore c ≠ d → t.physOf c = s.physOf c) ∧
      (t.die d).spares = ((List.range 168).filter fun k => !(s.badSet d).contains k).drop 160 ∧
      t.boot.gen = (if ∀ e, e < 8 → e ≠ d → (s.die e).mapBuilt = true then (s.boot.gen + 1) % 2 ^ 16 else s.boot.gen) ∧
      ∀ p, p < 168 → s.disagrees d p = true → ∃ r, r ∈ t.log.flight ∧ r.code = 0x1105 ∧
        r.data = payload [(0, d), (3, p), (11, ((s.factoryBad d).contains p).toNat)]) ∧
  (∀ (d : Nat) (s : State), d < 8 → s.boot.firmware = true → (s.die d).mapBuilt = false → (s.die d).failed = true →
    s.time.tsc.toNat % 2048 = 0 →
    Does (.coreMapBuild d) s fun t => (t.die d).mapBuilt = true ∧ ∀ i, i < 160 → t.physOf (160 * d + i) = none) ∧
  (∀ (u : Nat) (s : State), s.boot.rstN = true → s.boot.ready = false → s.boot.phase ≠ .stopped →
    (u < 2 → s.boot.pll = false → Does (.startPhaseTimeout 0 u) s fun t => (t.hub u).failed = true) ∧
    (u < 2 → s.boot.pll = true → s.boot.phase = .selfTest → (s.hub u).tested = false → s.pastMs 20 = true →
      Does (.startPhaseTimeout 1 u) s fun t => (t.hub u).failed = true) ∧
    (u < 2 → s.boot.phase = .fuses → (s.hub u).failed = false → s.pastMs 25 = true →
      Does (.startPhaseTimeout 2 u) s fun t => (t.hub u).failed = true) ∧
    (s.boot.phase = .image → s.pastMs 250 = true → Does (.startPhaseTimeout 3 u) s fun t => t.boot.phase = .recovery ∧ t.pins.fault = true) ∧
    (s.boot.phase = .firmware → s.pastMs 300 = true → Does (.startPhaseTimeout 4 u) s fun t => t.boot.phase = .stopped ∧ t.readyNow = false ∧
      ∃ r, t.log.flight = s.log.flight ++ [r] ∧ r.sev = 3) ∧
    (u < 8 → s.boot.firmware = true → (s.die u).fwOk = false → (s.die u).failed = false → s.pastMs 340 = true →
      Does (.startPhaseTimeout 5 u) s fun t => (t.die u).failed = true) ∧
    (u / 256 < 8 → u % 256 < 168 → s.boot.firmware = true → s.boot.katDone = false → (s.die (u / 256)).failed = false →
      s.pastMs 940 = true →
      Does (.startPhaseTimeout 6 u) s fun t => u % 256 ∈ (t.die (u / 256)).testBad) ∧
    (u < 16 → s.boot.firmware = true → (s.memUnit u).settled = false →
      s.pastMs (s.trainLimit 0 u 2900 500) = true →
      Does (.startPhaseTimeout 7 u) s fun t => t.memUnit u = { s.memUnit u with settled := true }) ∧
    (u < 8 → s.boot.firmware = true → (s.memUnit (16 + u)).settled = false →
      s.pastMs (s.trainLimit 1 u 1900 400) = true →
      Does (.startPhaseTimeout 8 u) s fun t => t.memUnit (16 + u) = { s.memUnit (16 + u) with settled := true }) ∧
    (u < 64 → (s.link u).st = .detect ∧ (s.link u).since + 50000000 ≤ s.time.tsc.toNat ∨
        (s.link u).st = .align ∧ (s.link u).since + 20000000 ≤ s.time.tsc.toNat →
      Does (.startPhaseTimeout 9 u) s fun t => (t.link u).st = .off) ∧
    (∀ k, k = 10 ∨ k = 11 → exec (.startPhaseTimeout k u) s = .next s)) ∧
  (∀ (ms : Nat) (s : State), s.time.tsc.toNat % 2048 = 0 → s.readyNow = true →
    Does (.ready ms) s fun t => t.boot.ready = true ∧ t.boot.phase = .ready ∧ t.boot.degraded = s.degradedNow ∧
      t.boot.fastStart = s.boot.full.isEmpty ∧ t.mem = s.mem ∧ t.cores = s.cores ∧
      t.fwmin = max s.fwmin (match s.boot.image with | some i => i.minver.toNat | none => 0) ∧
      (∃ r, t.log.flight.getLast? = some r ∧ r.code = 0x110A) ∧
      (s.degradedNow = true ↔ t.log.flight.length = s.log.flight.length + 2))

/-! ### Dies in service, trips, rounds and power -/

/-- R261, R413, R416, R418, R420 to R422, R424, R430, R433.
Where it says more than these rules it is the model's reading: notes/assumptions/121, 122, 123, 126, 129, 130, 132. -/
def Obligations.DiesTripsAndRoundsComplete : Prop :=
  (∀ (d : Nat) (s : State), d < 8 → s.dieWorks d = true →
    (s.time.tsc.toNat % 2048 = 0 → (s.die d).powerLost = false → s.mf.tripped = false → Does (.dieReport d) s fun t =>
      t.die d = { s.die d with silent := 0, wedged := false, wedgedFor := 0, seen := some (s.dieNow d) } ∧
      t = { s with dies := t.dies } ∧
      ∀ k, k ≠ d → t.die k = s.die k) ∧
    ((s.die d).wedged = false → 16 ≤ (s.die d).silent → Does (.dieWedged d) s fun t =>
      t.die d = { s.die d with wedged := true, wedgedFor := 0 } ∧ t.mem = s.mem ∧ t.cores = s.cores) ∧
    ∀ cause, cause = 1 ∧ (s.die d).wedged = true ∧ 1024 ≤ (s.die d).wedgedFor ∨ cause = 2 →
      Does (.dieFailed d cause) s fun t => (t.die d).failedService = true ∧
        (∀ m, m = 2 * d ∨ m = 2 * d + 1 ∨ m = 16 + d → (t.memUnit m).insvc = false) ∧
        (∃ r, r ∈ t.log.flight ∧ r.code = 0x1205 ∧ r.sev = 3 ∧ r.data = payload [(0, d), (3, cause)]) ∧
        ∀ c b k, dieOfCore c = d → s.block c b = some k → (∃ q, t.block c b = some q ∧ q.st = .stopping ∧ q.wset = [] ∧
          q.log = k.log) ∧ ∀ g, g ∈ (t.part k.part).grants → g.uid = k.desc.uid → g.fault ≠ none) ∧
  (∀ (beats : Nat) (s : State), s.mf.rebuild = true → beats ≤ 64 →
    Does (.mapRebuild beats) s fun t => t.mf.rebuild = false ∧ t.mf.mapDiverged = false ∧
      (∃ r, t.log.flight.getLast? = some r ∧ r.code = 0x1209 ∧ r.data = payload [(0, t.boot.gen), (16, beats)]) ∧
      ((∀ e, e ∈ s.mf.moves → s.log.knows e.1 e.2 = true) → t.map = s.map ∧
        (s.boot.genBeat ≠ some (s.time.tsc.toNat / 2048) → t.boot.gen = (s.boot.gen + 1) % 2 ^ 16) ∧
        t.cores = s.cores ∧ t.mem = s.mem) ∧
      ∀ c q, (c, some q) ∈ s.mf.moves → s.log.knows c (some q) = false → s.physOf c = some q → t.physOf c = none) ∧
  (∀ (unit temp stack : Nat) (c : Instr) (s : State), c = .thermalTrip unit temp ∧ unit < 10 ∧ 115 ≤ temp ∧
      s.boot.rstN = true ∧ s.mf.tripped = false ∧ (8 ≤ unit ∨ (s.die unit).powered = true) ∨
    c = .stackTrip stack ∧ stack < 16 ∧ unit = 16 + stack ∧ (∃ at', (stack, temp, at') ∈ s.mf.trips ∧
      at' ≤ s.time.tsc.toNat / 2048 ∧ ∀ e, e ∈ s.mf.trips → e.1 = stack → e = (stack, temp, at')) →
    Does c s fun t => t.mf.tripped = true ∧ t.pins.thermtrip = true ∧ t.cores = [] ∧ t.inbox = [] ∧ t.mem = s.mem ∧
      (∀ p g, g ∈ (t.part p).grants → g.live = 0 ∧ ∃ n, g.src = .priv n) ∧ (∀ p, (t.part p).owed = []) ∧
      (∃ r, r ∈ t.log.flight ∧ r.code = 0x120B ∧ r.sev = 3 ∧ r.data = payload [(0, unit), (8, temp % 256)]) ∧
      ∀ p, p < 8 → (t.part p).st ≠ .erasing) ∧
  (∀ (r : RoundIn) (s : State), s.boot.firmware = true → s.mf.roundBeat < s.time.tsc.toNat / 2048 / 64 * 64 →
    roundOk r = true →
    Does (.managementRound r) s fun t => t.mf.roundBeat = s.time.tsc.toNat / 2048 / 64 * 64 ∧ t.mf.hottest = r.hottest ∧
      t.mem = s.mem ∧ t.cores = s.cores ∧ t.mf.dueRemap = [] ∧ t.boot.due = [] ∧
      ((∀ d, d ∈ r.diverged → d.1 ≠ 4 ∧ d.1 ≠ 5) → ∀ e, e ∈ s.mf.dueRemap → e ∈ t.flash.remap) ∧
      (r.diverged = [(4, 0)] → t.flash.pkgId = none ∧ t.flash.budgets = []) ∧
      (∀ e, e ∈ s.mf.dueField → s.fieldEntries.length + s.mf.dueField.length ≤ 2048 → e ∈ t.fieldEntries) ∧
      t.cinch.boardW = r.boardW ∧ t.cinch.notel = !r.telFail.isEmpty ∧
      (r.telFail = [] → r.estEnergy ≠ 0 →
        t.cinch.scale = max 0xE00 (min 0x1200 (r.measEnergy * 0x1000 / r.estEnergy))) ∧
      (∀ m c, r.stackTemp = [(m, c)] → m < 16 → (s.memUnit m).insvc = true → (t.memUnit m).temp = c ∧
        (t.memUnit m).hot = decide (95 < c) ∧
        (105 ≤ c → s.mf.tripped = false → (m, c, s.time.tsc.toNat / 2048 + 1) ∈ t.mf.trips)) ∧
      (∀ h k, r.cantleFail = [(h, k)] → h < 2 → (s.hub h).cantle.getLsbD k = true → r.hubFail = [] →
        (t.hub h).cantle.getLsbD k = false ∧ ∃ e, e ∈ t.log.flight ∧ e.code = 0x1206 ∧ e.data = payload [(0, h), (1, k)])) ∧
  (∀ (op p us : Nat) (s : State), 1 ≤ op → op ≤ 7 → p < 8 ∨ p = 15 → mfBound op < us →
    Does (.mfLate op p us) s fun t => t.mem = s.mem ∧ t.parts = s.parts ∧ t.cores = s.cores ∧
      (∃ r, t.log.flight.getLast? = some r ∧ r.code = 0x120D ∧ r.sev = 3 ∧ r.part = p) ∧
      (s.reg64 .mf 0x18 + 1 < 2 ^ 48 - 1 → t.reg64 .mf 0x18 = s.reg64 .mf 0x18 + 1)) ∧
  (∀ (sig clear : Bool) (s : State), s.portUp 4 = true →
    Does (.testModeUnlock sig clear) s fun t => (sig = false ∨ s.host.token = none → t = s) ∧
      (sig = true → s.host.token ≠ none → t.host.testMode = true ∧ t.mem = s.mem ∧ t.cores = s.cores ∧
        t.out = .retained s.log.retained :: s.out ∧
        t.log.retained = (if clear then [] else s.log.retained) ∧
        t.flash.retained = (if clear then [] else s.flash.retained)))

/-- R432, R437 to R442, R457.
Where it says more than these rules it is the model's reading: notes/assumptions/134, 135, 136. -/
def Obligations.PowerAndPinsComplete : Prop :=
  (∀ (path : Path) (h : Nat) (v : Word) (s : State), h < 2 → s.opens path false = true → s.isPackage path = true →
    Does (.cinchCap path h v) s (fun t => t.cinch = { s.cinch with capNext := bits v 15 0 } ∧ t.out = okTo path s.out ∧
      t.mem = s.mem ∧ t.regs = s.regs ∧ t.log = s.log) ∧
    Does (.cinchFast path h v) s (fun t => t.cinch = { s.cinch with fastNext := bits v 15 0 } ∧ t.out = okTo path s.out ∧
      t.mem = s.mem ∧ t.regs = s.regs ∧ t.log = s.log) ∧
    Does (.cinchCtrl path h v) s fun t => t.cinch = { s.cinch with
        ctrlNext := v &&& 0xFF01, mhz := if v.getLsbD 0 then s.cinch.mhz else 2000 } ∧
      (v.getLsbD 0 = true ∨ s.cinch.mhz = 2000 → t.out = okTo path s.out ∧ t.dies = s.dies) ∧
      (v.getLsbD 0 = false → s.cinch.mhz ≠ 2000 → ∀ d, d < 8 → (s.die d).powered = true →
        (t.die d).setpoint = setpointOf 2000 ∧ .setpoint d (setpointOf 2000) ∈ t.out) ∧
      t.mem = s.mem ∧ t.regs = s.regs ∧ t.log = s.log) ∧
  (∀ (b : BoundaryIn) (s : State), s.boot.pll = true → s.mf.tripped = false →
    Does (.beatBoundary b) s fun t => t.cinch.cap = max 600 (min 2000 s.cinch.capNext) ∧
      t.cinch.fast = max 600 (min 2000 s.cinch.fastNext) ∧ t.cinch.ctrl = s.cinch.ctrlNext ∧
      t.cinch.fastIn = s.pins.pwrLim ∧ t.cinch.est = b.est ∧ t.cinch.floor = b.floor ∧ t.cinch.late = b.cinchLate ∧
      (t.cinch.overdraw = true ↔ t.cinch.limit < b.est ∧ t.cinch.limit < b.floor) ∧
      t.cinch.overbeats = (if t.cinch.limit < b.est ∧ t.cinch.limit < b.floor then min 64 (s.cinch.overbeats + 1) else 0)) ∧
  (∀ s : State, 64 ≤ s.cinch.overbeats → s.cinch.spent = false →
    Does .cinchSpent s fun t => t.cinch = { s.cinch with spent := true } ∧ t.mem = s.mem ∧ t.cores = s.cores ∧
      ∀ p, p < 8 → ((s.part p).ex.current = true → (t.part p).ex.spent = true ∧
          (if (s.part p).ex.frozen then (t.part p).ex.hLate else (t.part p).ex.late) = true ∧
          ((s.part p).ex.frozen = false → (t.part p).ex.localWord.getLsbD 4 = true) ∧
          ∃ r, r ∈ t.log.flight ∧ r.code = 0x1302 ∧ r.part = p) ∧
        ((s.part p).ex.current = false → t.part p = s.part p)) ∧
  (∀ s : State,
    (s.pins.pwrLim = false → Does .fastLimitAssert s fun t => t.pins = { s.pins with pwrLim := true } ∧
      t.cinch = s.cinch ∧ ∃ r, t.log.flight = s.log.flight ++ [r] ∧ r.code = 0x1304 ∧ r.data = 1) ∧
    (s.pins.pwrLim = true → Does .fastLimitDeassert s fun t => t.pins = { s.pins with pwrLim := false } ∧
      t.cinch = s.cinch ∧ ∃ r, t.log.flight = s.log.flight ++ [r] ∧ r.code = 0x1304 ∧ r.data = 0)) ∧
  (∀ (tick : Nat) (s : State), tick < 2048 →
    Does (.syncEdge tick) s fun t => t.pins = { s.pins with syncRec := true } ∧
      t.time = (s.atTick tick).time ∧
      (s.time.slew = 0 → t.time.tsc.toNat = max (s.time.tsc.toNat / 2048 * 2048 + tick) s.time.tsc.toNat) ∧
      (s.pins.syncRec = true → t.log = s.log) ∧
      (s.pins.syncRec = false → ∃ r, t.log.flight = s.log.flight ++ [r] ∧ r.code = 0x1401 ∧ r.tsc = t.time.tsc ∧
        r.data = BitVec.ofNat 128 t.time.tsc.toNat))
end

