-- ==== Sys2Proof/Laws/State.lean ====
section
/-! SUPPORT. One lemma per field of `State` per primitive update, each true by `rfl`: an update changes its own field and
no other. The compound lenses unfold to the primitive ones, and reading an entry after writing one is settled by its key. -/

namespace Sys2Proof.Machine

variable (s : State)

/-! ### setCore -/

@[simp] theorem State.setCore_pending (c : Nat) (v : Core) : (s.setCore c v).pending = s.pending := rfl
@[simp] theorem State.setCore_out (c : Nat) (v : Core) : (s.setCore c v).out = s.out := rfl
@[simp] theorem State.setCore_freeCtr (c : Nat) (v : Core) : (s.setCore c v).freeCtr = s.freeCtr := rfl
@[simp] theorem State.setCore_time (c : Nat) (v : Core) : (s.setCore c v).time = s.time := rfl
@[simp] theorem State.setCore_latches (c : Nat) (v : Core) : (s.setCore c v).latches = s.latches := rfl
@[simp] theorem State.setCore_regs (c : Nat) (v : Core) : (s.setCore c v).regs = s.regs := rfl
@[simp] theorem State.setCore_log (c : Nat) (v : Core) : (s.setCore c v).log = s.log := rfl
@[simp] theorem State.setCore_map (c : Nat) (v : Core) : (s.setCore c v).map = s.map := rfl
@[simp] theorem State.setCore_cores (c : Nat) (v : Core) : (s.setCore c v).cores = s.cores.put c v := rfl
@[simp] theorem State.setCore_dies (c : Nat) (v : Core) : (s.setCore c v).dies = s.dies := rfl
@[simp] theorem State.setCore_mems (c : Nat) (v : Core) : (s.setCore c v).mems = s.mems := rfl
@[simp] theorem State.setCore_mem (c : Nat) (v : Core) : (s.setCore c v).mem = s.mem := rfl
@[simp] theorem State.setCore_links (c : Nat) (v : Core) : (s.setCore c v).links = s.links := rfl
@[simp] theorem State.setCore_inbox (c : Nat) (v : Core) : (s.setCore c v).inbox = s.inbox := rfl
@[simp] theorem State.setCore_exchIn (c : Nat) (v : Core) : (s.setCore c v).exchIn = s.exchIn := rfl
@[simp] theorem State.setCore_noticeIn (c : Nat) (v : Core) : (s.setCore c v).noticeIn = s.noticeIn := rfl
@[simp] theorem State.setCore_farUp (c : Nat) (v : Core) : (s.setCore c v).farUp = s.farUp := rfl
@[simp] theorem State.setCore_routeUp (c : Nat) (v : Core) : (s.setCore c v).routeUp = s.routeUp := rfl
@[simp] theorem State.setCore_noticed (c : Nat) (v : Core) : (s.setCore c v).noticed = s.noticed := rfl
@[simp] theorem State.setCore_parts (c : Nat) (v : Core) : (s.setCore c v).parts = s.parts := rfl
@[simp] theorem State.setCore_host (c : Nat) (v : Core) : (s.setCore c v).host = s.host := rfl
@[simp] theorem State.setCore_boot (c : Nat) (v : Core) : (s.setCore c v).boot = s.boot := rfl
@[simp] theorem State.setCore_flash (c : Nat) (v : Core) : (s.setCore c v).flash = s.flash := rfl
@[simp] theorem State.setCore_pins (c : Nat) (v : Core) : (s.setCore c v).pins = s.pins := rfl
@[simp] theorem State.setCore_cinch (c : Nat) (v : Core) : (s.setCore c v).cinch = s.cinch := rfl
@[simp] theorem State.setCore_mf (c : Nat) (v : Core) : (s.setCore c v).mf = s.mf := rfl

/-! ### setDie -/

@[simp] theorem State.setDie_pending (d : Nat) (v : Die) : (s.setDie d v).pending = s.pending := rfl
@[simp] theorem State.setDie_out (d : Nat) (v : Die) : (s.setDie d v).out = s.out := rfl
@[simp] theorem State.setDie_freeCtr (d : Nat) (v : Die) : (s.setDie d v).freeCtr = s.freeCtr := rfl
@[simp] theorem State.setDie_time (d : Nat) (v : Die) : (s.setDie d v).time = s.time := rfl
@[simp] theorem State.setDie_latches (d : Nat) (v : Die) : (s.setDie d v).latches = s.latches := rfl
@[simp] theorem State.setDie_regs (d : Nat) (v : Die) : (s.setDie d v).regs = s.regs := rfl
@[simp] theorem State.setDie_log (d : Nat) (v : Die) : (s.setDie d v).log = s.log := rfl
@[simp] theorem State.setDie_map (d : Nat) (v : Die) : (s.setDie d v).map = s.map := rfl
@[simp] theorem State.setDie_cores (d : Nat) (v : Die) : (s.setDie d v).cores = s.cores := rfl
@[simp] theorem State.setDie_dies (d : Nat) (v : Die) : (s.setDie d v).dies = s.dies.put d v := rfl
@[simp] theorem State.setDie_mems (d : Nat) (v : Die) : (s.setDie d v).mems = s.mems := rfl
@[simp] theorem State.setDie_mem (d : Nat) (v : Die) : (s.setDie d v).mem = s.mem := rfl
@[simp] theorem State.setDie_links (d : Nat) (v : Die) : (s.setDie d v).links = s.links := rfl
@[simp] theorem State.setDie_inbox (d : Nat) (v : Die) : (s.setDie d v).inbox = s.inbox := rfl
@[simp] theorem State.setDie_exchIn (d : Nat) (v : Die) : (s.setDie d v).exchIn = s.exchIn := rfl
@[simp] theorem State.setDie_noticeIn (d : Nat) (v : Die) : (s.setDie d v).noticeIn = s.noticeIn := rfl
@[simp] theorem State.setDie_farUp (d : Nat) (v : Die) : (s.setDie d v).farUp = s.farUp := rfl
@[simp] theorem State.setDie_routeUp (d : Nat) (v : Die) : (s.setDie d v).routeUp = s.routeUp := rfl
@[simp] theorem State.setDie_noticed (d : Nat) (v : Die) : (s.setDie d v).noticed = s.noticed := rfl
@[simp] theorem State.setDie_parts (d : Nat) (v : Die) : (s.setDie d v).parts = s.parts := rfl
@[simp] theorem State.setDie_host (d : Nat) (v : Die) : (s.setDie d v).host = s.host := rfl
@[simp] theorem State.setDie_boot (d : Nat) (v : Die) : (s.setDie d v).boot = s.boot := rfl
@[simp] theorem State.setDie_flash (d : Nat) (v : Die) : (s.setDie d v).flash = s.flash := rfl
@[simp] theorem State.setDie_pins (d : Nat) (v : Die) : (s.setDie d v).pins = s.pins := rfl
@[simp] theorem State.setDie_cinch (d : Nat) (v : Die) : (s.setDie d v).cinch = s.cinch := rfl
@[simp] theorem State.setDie_mf (d : Nat) (v : Die) : (s.setDie d v).mf = s.mf := rfl

/-! ### setMemUnit -/

@[simp] theorem State.setMemUnit_pending (m : Nat) (v : MemUnit) : (s.setMemUnit m v).pending = s.pending := rfl
@[simp] theorem State.setMemUnit_out (m : Nat) (v : MemUnit) : (s.setMemUnit m v).out = s.out := rfl
@[simp] theorem State.setMemUnit_freeCtr (m : Nat) (v : MemUnit) : (s.setMemUnit m v).freeCtr = s.freeCtr := rfl
@[simp] theorem State.setMemUnit_time (m : Nat) (v : MemUnit) : (s.setMemUnit m v).time = s.time := rfl
@[simp] theorem State.setMemUnit_latches (m : Nat) (v : MemUnit) : (s.setMemUnit m v).latches = s.latches := rfl
@[simp] theorem State.setMemUnit_regs (m : Nat) (v : MemUnit) : (s.setMemUnit m v).regs = s.regs := rfl
@[simp] theorem State.setMemUnit_log (m : Nat) (v : MemUnit) : (s.setMemUnit m v).log = s.log := rfl
@[simp] theorem State.setMemUnit_map (m : Nat) (v : MemUnit) : (s.setMemUnit m v).map = s.map := rfl
@[simp] theorem State.setMemUnit_cores (m : Nat) (v : MemUnit) : (s.setMemUnit m v).cores = s.cores := rfl
@[simp] theorem State.setMemUnit_dies (m : Nat) (v : MemUnit) : (s.setMemUnit m v).dies = s.dies := rfl
@[simp] theorem State.setMemUnit_mems (m : Nat) (v : MemUnit) : (s.setMemUnit m v).mems = s.mems.put m v := rfl
@[simp] theorem State.setMemUnit_mem (m : Nat) (v : MemUnit) : (s.setMemUnit m v).mem = s.mem := rfl
@[simp] theorem State.setMemUnit_links (m : Nat) (v : MemUnit) : (s.setMemUnit m v).links = s.links := rfl
@[simp] theorem State.setMemUnit_inbox (m : Nat) (v : MemUnit) : (s.setMemUnit m v).inbox = s.inbox := rfl
@[simp] theorem State.setMemUnit_exchIn (m : Nat) (v : MemUnit) : (s.setMemUnit m v).exchIn = s.exchIn := rfl
@[simp] theorem State.setMemUnit_noticeIn (m : Nat) (v : MemUnit) : (s.setMemUnit m v).noticeIn = s.noticeIn := rfl
@[simp] theorem State.setMemUnit_farUp (m : Nat) (v : MemUnit) : (s.setMemUnit m v).farUp = s.farUp := rfl
@[simp] theorem State.setMemUnit_routeUp (m : Nat) (v : MemUnit) : (s.setMemUnit m v).routeUp = s.routeUp := rfl
@[simp] theorem State.setMemUnit_noticed (m : Nat) (v : MemUnit) : (s.setMemUnit m v).noticed = s.noticed := rfl
@[simp] theorem State.setMemUnit_parts (m : Nat) (v : MemUnit) : (s.setMemUnit m v).parts = s.parts := rfl
@[simp] theorem State.setMemUnit_host (m : Nat) (v : MemUnit) : (s.setMemUnit m v).host = s.host := rfl
@[simp] theorem State.setMemUnit_boot (m : Nat) (v : MemUnit) : (s.setMemUnit m v).boot = s.boot := rfl
@[simp] theorem State.setMemUnit_flash (m : Nat) (v : MemUnit) : (s.setMemUnit m v).flash = s.flash := rfl
@[simp] theorem State.setMemUnit_pins (m : Nat) (v : MemUnit) : (s.setMemUnit m v).pins = s.pins := rfl
@[simp] theorem State.setMemUnit_cinch (m : Nat) (v : MemUnit) : (s.setMemUnit m v).cinch = s.cinch := rfl
@[simp] theorem State.setMemUnit_mf (m : Nat) (v : MemUnit) : (s.setMemUnit m v).mf = s.mf := rfl

/-! ### setLink -/

@[simp] theorem State.setLink_pending (l : Nat) (v : Link) : (s.setLink l v).pending = s.pending := rfl
@[simp] theorem State.setLink_out (l : Nat) (v : Link) : (s.setLink l v).out = s.out := rfl
@[simp] theorem State.setLink_freeCtr (l : Nat) (v : Link) : (s.setLink l v).freeCtr = s.freeCtr := rfl
@[simp] theorem State.setLink_time (l : Nat) (v : Link) : (s.setLink l v).time = s.time := rfl
@[simp] theorem State.setLink_latches (l : Nat) (v : Link) : (s.setLink l v).latches = s.latches := rfl
@[simp] theorem State.setLink_regs (l : Nat) (v : Link) : (s.setLink l v).regs = s.regs := rfl
@[simp] theorem State.setLink_log (l : Nat) (v : Link) : (s.setLink l v).log = s.log := rfl
@[simp] theorem State.setLink_map (l : Nat) (v : Link) : (s.setLink l v).map = s.map := rfl
@[simp] theorem State.setLink_cores (l : Nat) (v : Link) : (s.setLink l v).cores = s.cores := rfl
@[simp] theorem State.setLink_dies (l : Nat) (v : Link) : (s.setLink l v).dies = s.dies := rfl
@[simp] theorem State.setLink_mems (l : Nat) (v : Link) : (s.setLink l v).mems = s.mems := rfl
@[simp] theorem State.setLink_mem (l : Nat) (v : Link) : (s.setLink l v).mem = s.mem := rfl
@[simp] theorem State.setLink_links (l : Nat) (v : Link) : (s.setLink l v).links = s.links.put l v := rfl
@[simp] theorem State.setLink_inbox (l : Nat) (v : Link) : (s.setLink l v).inbox = s.inbox := rfl
@[simp] theorem State.setLink_exchIn (l : Nat) (v : Link) : (s.setLink l v).exchIn = s.exchIn := rfl
@[simp] theorem State.setLink_noticeIn (l : Nat) (v : Link) : (s.setLink l v).noticeIn = s.noticeIn := rfl
@[simp] theorem State.setLink_farUp (l : Nat) (v : Link) : (s.setLink l v).farUp = s.farUp := rfl
@[simp] theorem State.setLink_routeUp (l : Nat) (v : Link) : (s.setLink l v).routeUp = s.routeUp := rfl
@[simp] theorem State.setLink_noticed (l : Nat) (v : Link) : (s.setLink l v).noticed = s.noticed := rfl
@[simp] theorem State.setLink_parts (l : Nat) (v : Link) : (s.setLink l v).parts = s.parts := rfl
@[simp] theorem State.setLink_host (l : Nat) (v : Link) : (s.setLink l v).host = s.host := rfl
@[simp] theorem State.setLink_boot (l : Nat) (v : Link) : (s.setLink l v).boot = s.boot := rfl
@[simp] theorem State.setLink_flash (l : Nat) (v : Link) : (s.setLink l v).flash = s.flash := rfl
@[simp] theorem State.setLink_pins (l : Nat) (v : Link) : (s.setLink l v).pins = s.pins := rfl
@[simp] theorem State.setLink_cinch (l : Nat) (v : Link) : (s.setLink l v).cinch = s.cinch := rfl
@[simp] theorem State.setLink_mf (l : Nat) (v : Link) : (s.setLink l v).mf = s.mf := rfl

/-! ### setPart -/

@[simp] theorem State.setPart_pending (p : Nat) (v : Part) : (s.setPart p v).pending = s.pending := rfl
@[simp] theorem State.setPart_out (p : Nat) (v : Part) : (s.setPart p v).out = s.out := rfl
@[simp] theorem State.setPart_freeCtr (p : Nat) (v : Part) : (s.setPart p v).freeCtr = s.freeCtr := rfl
@[simp] theorem State.setPart_time (p : Nat) (v : Part) : (s.setPart p v).time = s.time := rfl
@[simp] theorem State.setPart_latches (p : Nat) (v : Part) : (s.setPart p v).latches = s.latches := rfl
@[simp] theorem State.setPart_regs (p : Nat) (v : Part) : (s.setPart p v).regs = s.regs := rfl
@[simp] theorem State.setPart_log (p : Nat) (v : Part) : (s.setPart p v).log = s.log := rfl
@[simp] theorem State.setPart_map (p : Nat) (v : Part) : (s.setPart p v).map = s.map := rfl
@[simp] theorem State.setPart_cores (p : Nat) (v : Part) : (s.setPart p v).cores = s.cores := rfl
@[simp] theorem State.setPart_dies (p : Nat) (v : Part) : (s.setPart p v).dies = s.dies := rfl
@[simp] theorem State.setPart_mems (p : Nat) (v : Part) : (s.setPart p v).mems = s.mems := rfl
@[simp] theorem State.setPart_mem (p : Nat) (v : Part) : (s.setPart p v).mem = s.mem := rfl
@[simp] theorem State.setPart_links (p : Nat) (v : Part) : (s.setPart p v).links = s.links := rfl
@[simp] theorem State.setPart_inbox (p : Nat) (v : Part) : (s.setPart p v).inbox = s.inbox := rfl
@[simp] theorem State.setPart_exchIn (p : Nat) (v : Part) : (s.setPart p v).exchIn = s.exchIn := rfl
@[simp] theorem State.setPart_noticeIn (p : Nat) (v : Part) : (s.setPart p v).noticeIn = s.noticeIn := rfl
@[simp] theorem State.setPart_farUp (p : Nat) (v : Part) : (s.setPart p v).farUp = s.farUp := rfl
@[simp] theorem State.setPart_routeUp (p : Nat) (v : Part) : (s.setPart p v).routeUp = s.routeUp := rfl
@[simp] theorem State.setPart_noticed (p : Nat) (v : Part) : (s.setPart p v).noticed = s.noticed := rfl
@[simp] theorem State.setPart_parts (p : Nat) (v : Part) : (s.setPart p v).parts = s.parts.put p v := rfl
@[simp] theorem State.setPart_host (p : Nat) (v : Part) : (s.setPart p v).host = s.host := rfl
@[simp] theorem State.setPart_boot (p : Nat) (v : Part) : (s.setPart p v).boot = s.boot := rfl
@[simp] theorem State.setPart_flash (p : Nat) (v : Part) : (s.setPart p v).flash = s.flash := rfl
@[simp] theorem State.setPart_pins (p : Nat) (v : Part) : (s.setPart p v).pins = s.pins := rfl
@[simp] theorem State.setPart_cinch (p : Nat) (v : Part) : (s.setPart p v).cinch = s.cinch := rfl
@[simp] theorem State.setPart_mf (p : Nat) (v : Part) : (s.setPart p v).mf = s.mf := rfl

/-! ### updMf -/

@[simp] theorem State.updMf_pending (f : Mf → Mf) : (s.updMf f).pending = s.pending := rfl
@[simp] theorem State.updMf_out (f : Mf → Mf) : (s.updMf f).out = s.out := rfl
@[simp] theorem State.updMf_freeCtr (f : Mf → Mf) : (s.updMf f).freeCtr = s.freeCtr := rfl
@[simp] theorem State.updMf_time (f : Mf → Mf) : (s.updMf f).time = s.time := rfl
@[simp] theorem State.updMf_latches (f : Mf → Mf) : (s.updMf f).latches = s.latches := rfl
@[simp] theorem State.updMf_regs (f : Mf → Mf) : (s.updMf f).regs = s.regs := rfl
@[simp] theorem State.updMf_log (f : Mf → Mf) : (s.updMf f).log = s.log := rfl
@[simp] theorem State.updMf_map (f : Mf → Mf) : (s.updMf f).map = s.map := rfl
@[simp] theorem State.updMf_cores (f : Mf → Mf) : (s.updMf f).cores = s.cores := rfl
@[simp] theorem State.updMf_dies (f : Mf → Mf) : (s.updMf f).dies = s.dies := rfl
@[simp] theorem State.updMf_mems (f : Mf → Mf) : (s.updMf f).mems = s.mems := rfl
@[simp] theorem State.updMf_mem (f : Mf → Mf) : (s.updMf f).mem = s.mem := rfl
@[simp] theorem State.updMf_links (f : Mf → Mf) : (s.updMf f).links = s.links := rfl
@[simp] theorem State.updMf_inbox (f : Mf → Mf) : (s.updMf f).inbox = s.inbox := rfl
@[simp] theorem State.updMf_exchIn (f : Mf → Mf) : (s.updMf f).exchIn = s.exchIn := rfl
@[simp] theorem State.updMf_noticeIn (f : Mf → Mf) : (s.updMf f).noticeIn = s.noticeIn := rfl
@[simp] theorem State.updMf_farUp (f : Mf → Mf) : (s.updMf f).farUp = s.farUp := rfl
@[simp] theorem State.updMf_routeUp (f : Mf → Mf) : (s.updMf f).routeUp = s.routeUp := rfl
@[simp] theorem State.updMf_noticed (f : Mf → Mf) : (s.updMf f).noticed = s.noticed := rfl
@[simp] theorem State.updMf_parts (f : Mf → Mf) : (s.updMf f).parts = s.parts := rfl
@[simp] theorem State.updMf_host (f : Mf → Mf) : (s.updMf f).host = s.host := rfl
@[simp] theorem State.updMf_boot (f : Mf → Mf) : (s.updMf f).boot = s.boot := rfl
@[simp] theorem State.updMf_flash (f : Mf → Mf) : (s.updMf f).flash = s.flash := rfl
@[simp] theorem State.updMf_pins (f : Mf → Mf) : (s.updMf f).pins = s.pins := rfl
@[simp] theorem State.updMf_cinch (f : Mf → Mf) : (s.updMf f).cinch = s.cinch := rfl
@[simp] theorem State.updMf_mf (f : Mf → Mf) : (s.updMf f).mf = f s.mf := rfl

/-! ### updHost -/

@[simp] theorem State.updHost_pending (f : HostSide → HostSide) : (s.updHost f).pending = s.pending := rfl
@[simp] theorem State.updHost_out (f : HostSide → HostSide) : (s.updHost f).out = s.out := rfl
@[simp] theorem State.updHost_freeCtr (f : HostSide → HostSide) : (s.updHost f).freeCtr = s.freeCtr := rfl
@[simp] theorem State.updHost_time (f : HostSide → HostSide) : (s.updHost f).time = s.time := rfl
@[simp] theorem State.updHost_latches (f : HostSide → HostSide) : (s.updHost f).latches = s.latches := rfl
@[simp] theorem State.updHost_regs (f : HostSide → HostSide) : (s.updHost f).regs = s.regs := rfl
@[simp] theorem State.updHost_log (f : HostSide → HostSide) : (s.updHost f).log = s.log := rfl
@[simp] theorem State.updHost_map (f : HostSide → HostSide) : (s.updHost f).map = s.map := rfl
@[simp] theorem State.updHost_cores (f : HostSide → HostSide) : (s.updHost f).cores = s.cores := rfl
@[simp] theorem State.updHost_dies (f : HostSide → HostSide) : (s.updHost f).dies = s.dies := rfl
@[simp] theorem State.updHost_mems (f : HostSide → HostSide) : (s.updHost f).mems = s.mems := rfl
@[simp] theorem State.updHost_mem (f : HostSide → HostSide) : (s.updHost f).mem = s.mem := rfl
@[simp] theorem State.updHost_links (f : HostSide → HostSide) : (s.updHost f).links = s.links := rfl
@[simp] theorem State.updHost_inbox (f : HostSide → HostSide) : (s.updHost f).inbox = s.inbox := rfl
@[simp] theorem State.updHost_exchIn (f : HostSide → HostSide) : (s.updHost f).exchIn = s.exchIn := rfl
@[simp] theorem State.updHost_noticeIn (f : HostSide → HostSide) : (s.updHost f).noticeIn = s.noticeIn := rfl
@[simp] theorem State.updHost_farUp (f : HostSide → HostSide) : (s.updHost f).farUp = s.farUp := rfl
@[simp] theorem State.updHost_routeUp (f : HostSide → HostSide) : (s.updHost f).routeUp = s.routeUp := rfl
@[simp] theorem State.updHost_noticed (f : HostSide → HostSide) : (s.updHost f).noticed = s.noticed := rfl
@[simp] theorem State.updHost_parts (f : HostSide → HostSide) : (s.updHost f).parts = s.parts := rfl
@[simp] theorem State.updHost_host (f : HostSide → HostSide) : (s.updHost f).host = f s.host := rfl
@[simp] theorem State.updHost_boot (f : HostSide → HostSide) : (s.updHost f).boot = s.boot := rfl
@[simp] theorem State.updHost_flash (f : HostSide → HostSide) : (s.updHost f).flash = s.flash := rfl
@[simp] theorem State.updHost_pins (f : HostSide → HostSide) : (s.updHost f).pins = s.pins := rfl
@[simp] theorem State.updHost_cinch (f : HostSide → HostSide) : (s.updHost f).cinch = s.cinch := rfl
@[simp] theorem State.updHost_mf (f : HostSide → HostSide) : (s.updHost f).mf = s.mf := rfl

/-! ### updBoot -/

@[simp] theorem State.updBoot_pending (f : Boot → Boot) : (s.updBoot f).pending = s.pending := rfl
@[simp] theorem State.updBoot_out (f : Boot → Boot) : (s.updBoot f).out = s.out := rfl
@[simp] theorem State.updBoot_freeCtr (f : Boot → Boot) : (s.updBoot f).freeCtr = s.freeCtr := rfl
@[simp] theorem State.updBoot_time (f : Boot → Boot) : (s.updBoot f).time = s.time := rfl
@[simp] theorem State.updBoot_latches (f : Boot → Boot) : (s.updBoot f).latches = s.latches := rfl
@[simp] theorem State.updBoot_regs (f : Boot → Boot) : (s.updBoot f).regs = s.regs := rfl
@[simp] theorem State.updBoot_log (f : Boot → Boot) : (s.updBoot f).log = s.log := rfl
@[simp] theorem State.updBoot_map (f : Boot → Boot) : (s.updBoot f).map = s.map := rfl
@[simp] theorem State.updBoot_cores (f : Boot → Boot) : (s.updBoot f).cores = s.cores := rfl
@[simp] theorem State.updBoot_dies (f : Boot → Boot) : (s.updBoot f).dies = s.dies := rfl
@[simp] theorem State.updBoot_mems (f : Boot → Boot) : (s.updBoot f).mems = s.mems := rfl
@[simp] theorem State.updBoot_mem (f : Boot → Boot) : (s.updBoot f).mem = s.mem := rfl
@[simp] theorem State.updBoot_links (f : Boot → Boot) : (s.updBoot f).links = s.links := rfl
@[simp] theorem State.updBoot_inbox (f : Boot → Boot) : (s.updBoot f).inbox = s.inbox := rfl
@[simp] theorem State.updBoot_exchIn (f : Boot → Boot) : (s.updBoot f).exchIn = s.exchIn := rfl
@[simp] theorem State.updBoot_noticeIn (f : Boot → Boot) : (s.updBoot f).noticeIn = s.noticeIn := rfl
@[simp] theorem State.updBoot_farUp (f : Boot → Boot) : (s.updBoot f).farUp = s.farUp := rfl
@[simp] theorem State.updBoot_routeUp (f : Boot → Boot) : (s.updBoot f).routeUp = s.routeUp := rfl
@[simp] theorem State.updBoot_noticed (f : Boot → Boot) : (s.updBoot f).noticed = s.noticed := rfl
@[simp] theorem State.updBoot_parts (f : Boot → Boot) : (s.updBoot f).parts = s.parts := rfl
@[simp] theorem State.updBoot_host (f : Boot → Boot) : (s.updBoot f).host = s.host := rfl
@[simp] theorem State.updBoot_boot (f : Boot → Boot) : (s.updBoot f).boot = f s.boot := rfl
@[simp] theorem State.updBoot_flash (f : Boot → Boot) : (s.updBoot f).flash = s.flash := rfl
@[simp] theorem State.updBoot_pins (f : Boot → Boot) : (s.updBoot f).pins = s.pins := rfl
@[simp] theorem State.updBoot_cinch (f : Boot → Boot) : (s.updBoot f).cinch = s.cinch := rfl
@[simp] theorem State.updBoot_mf (f : Boot → Boot) : (s.updBoot f).mf = s.mf := rfl

/-! ### updFlash -/

@[simp] theorem State.updFlash_pending (f : Flash → Flash) : (s.updFlash f).pending = s.pending := rfl
@[simp] theorem State.updFlash_out (f : Flash → Flash) : (s.updFlash f).out = s.out := rfl
@[simp] theorem State.updFlash_freeCtr (f : Flash → Flash) : (s.updFlash f).freeCtr = s.freeCtr := rfl
@[simp] theorem State.updFlash_time (f : Flash → Flash) : (s.updFlash f).time = s.time := rfl
@[simp] theorem State.updFlash_latches (f : Flash → Flash) : (s.updFlash f).latches = s.latches := rfl
@[simp] theorem State.updFlash_regs (f : Flash → Flash) : (s.updFlash f).regs = s.regs := rfl
@[simp] theorem State.updFlash_log (f : Flash → Flash) : (s.updFlash f).log = s.log := rfl
@[simp] theorem State.updFlash_map (f : Flash → Flash) : (s.updFlash f).map = s.map := rfl
@[simp] theorem State.updFlash_cores (f : Flash → Flash) : (s.updFlash f).cores = s.cores := rfl
@[simp] theorem State.updFlash_dies (f : Flash → Flash) : (s.updFlash f).dies = s.dies := rfl
@[simp] theorem State.updFlash_mems (f : Flash → Flash) : (s.updFlash f).mems = s.mems := rfl
@[simp] theorem State.updFlash_mem (f : Flash → Flash) : (s.updFlash f).mem = s.mem := rfl
@[simp] theorem State.updFlash_links (f : Flash → Flash) : (s.updFlash f).links = s.links := rfl
@[simp] theorem State.updFlash_inbox (f : Flash → Flash) : (s.updFlash f).inbox = s.inbox := rfl
@[simp] theorem State.updFlash_exchIn (f : Flash → Flash) : (s.updFlash f).exchIn = s.exchIn := rfl
@[simp] theorem State.updFlash_noticeIn (f : Flash → Flash) : (s.updFlash f).noticeIn = s.noticeIn := rfl
@[simp] theorem State.updFlash_farUp (f : Flash → Flash) : (s.updFlash f).farUp = s.farUp := rfl
@[simp] theorem State.updFlash_routeUp (f : Flash → Flash) : (s.updFlash f).routeUp = s.routeUp := rfl
@[simp] theorem State.updFlash_noticed (f : Flash → Flash) : (s.updFlash f).noticed = s.noticed := rfl
@[simp] theorem State.updFlash_parts (f : Flash → Flash) : (s.updFlash f).parts = s.parts := rfl
@[simp] theorem State.updFlash_host (f : Flash → Flash) : (s.updFlash f).host = s.host := rfl
@[simp] theorem State.updFlash_boot (f : Flash → Flash) : (s.updFlash f).boot = s.boot := rfl
@[simp] theorem State.updFlash_flash (f : Flash → Flash) : (s.updFlash f).flash = f s.flash := rfl
@[simp] theorem State.updFlash_pins (f : Flash → Flash) : (s.updFlash f).pins = s.pins := rfl
@[simp] theorem State.updFlash_cinch (f : Flash → Flash) : (s.updFlash f).cinch = s.cinch := rfl
@[simp] theorem State.updFlash_mf (f : Flash → Flash) : (s.updFlash f).mf = s.mf := rfl

/-! ### emit -/

@[simp] theorem State.emit_pending (o : Out) : (s.emit o).pending = s.pending := rfl
@[simp] theorem State.emit_out (o : Out) : (s.emit o).out = o :: s.out := rfl
@[simp] theorem State.emit_freeCtr (o : Out) : (s.emit o).freeCtr = s.freeCtr := rfl
@[simp] theorem State.emit_time (o : Out) : (s.emit o).time = s.time := rfl
@[simp] theorem State.emit_latches (o : Out) : (s.emit o).latches = s.latches := rfl
@[simp] theorem State.emit_regs (o : Out) : (s.emit o).regs = s.regs := rfl
@[simp] theorem State.emit_log (o : Out) : (s.emit o).log = s.log := rfl
@[simp] theorem State.emit_map (o : Out) : (s.emit o).map = s.map := rfl
@[simp] theorem State.emit_cores (o : Out) : (s.emit o).cores = s.cores := rfl
@[simp] theorem State.emit_dies (o : Out) : (s.emit o).dies = s.dies := rfl
@[simp] theorem State.emit_mems (o : Out) : (s.emit o).mems = s.mems := rfl
@[simp] theorem State.emit_mem (o : Out) : (s.emit o).mem = s.mem := rfl
@[simp] theorem State.emit_links (o : Out) : (s.emit o).links = s.links := rfl
@[simp] theorem State.emit_inbox (o : Out) : (s.emit o).inbox = s.inbox := rfl
@[simp] theorem State.emit_exchIn (o : Out) : (s.emit o).exchIn = s.exchIn := rfl
@[simp] theorem State.emit_noticeIn (o : Out) : (s.emit o).noticeIn = s.noticeIn := rfl
@[simp] theorem State.emit_farUp (o : Out) : (s.emit o).farUp = s.farUp := rfl
@[simp] theorem State.emit_routeUp (o : Out) : (s.emit o).routeUp = s.routeUp := rfl
@[simp] theorem State.emit_noticed (o : Out) : (s.emit o).noticed = s.noticed := rfl
@[simp] theorem State.emit_parts (o : Out) : (s.emit o).parts = s.parts := rfl
@[simp] theorem State.emit_host (o : Out) : (s.emit o).host = s.host.sends o := rfl
@[simp] theorem State.emit_boot (o : Out) : (s.emit o).boot = s.boot := rfl
@[simp] theorem State.emit_flash (o : Out) : (s.emit o).flash = s.flash := rfl
@[simp] theorem State.emit_pins (o : Out) : (s.emit o).pins = s.pins := rfl
@[simp] theorem State.emit_cinch (o : Out) : (s.emit o).cinch = s.cinch := rfl
@[simp] theorem State.emit_mf (o : Out) : (s.emit o).mf = s.mf := rfl

/-! ### withPending -/

@[simp] theorem State.withPending_pending (q : List Instr) : (s.withPending q).pending = q := rfl
@[simp] theorem State.withPending_out (q : List Instr) : (s.withPending q).out = s.out := rfl
@[simp] theorem State.withPending_freeCtr (q : List Instr) : (s.withPending q).freeCtr = s.freeCtr := rfl
@[simp] theorem State.withPending_time (q : List Instr) : (s.withPending q).time = s.time := rfl
@[simp] theorem State.withPending_latches (q : List Instr) : (s.withPending q).latches = s.latches := rfl
@[simp] theorem State.withPending_regs (q : List Instr) : (s.withPending q).regs = s.regs := rfl
@[simp] theorem State.withPending_log (q : List Instr) : (s.withPending q).log = s.log := rfl
@[simp] theorem State.withPending_map (q : List Instr) : (s.withPending q).map = s.map := rfl
@[simp] theorem State.withPending_cores (q : List Instr) : (s.withPending q).cores = s.cores := rfl
@[simp] theorem State.withPending_dies (q : List Instr) : (s.withPending q).dies = s.dies := rfl
@[simp] theorem State.withPending_mems (q : List Instr) : (s.withPending q).mems = s.mems := rfl
@[simp] theorem State.withPending_mem (q : List Instr) : (s.withPending q).mem = s.mem := rfl
@[simp] theorem State.withPending_links (q : List Instr) : (s.withPending q).links = s.links := rfl
@[simp] theorem State.withPending_inbox (q : List Instr) : (s.withPending q).inbox = s.inbox := rfl
@[simp] theorem State.withPending_exchIn (q : List Instr) : (s.withPending q).exchIn = s.exchIn := rfl
@[simp] theorem State.withPending_noticeIn (q : List Instr) : (s.withPending q).noticeIn = s.noticeIn := rfl
@[simp] theorem State.withPending_farUp (q : List Instr) : (s.withPending q).farUp = s.farUp := rfl
@[simp] theorem State.withPending_routeUp (q : List Instr) : (s.withPending q).routeUp = s.routeUp := rfl
@[simp] theorem State.withPending_noticed (q : List Instr) : (s.withPending q).noticed = s.noticed := rfl
@[simp] theorem State.withPending_parts (q : List Instr) : (s.withPending q).parts = s.parts := rfl
@[simp] theorem State.withPending_host (q : List Instr) : (s.withPending q).host = s.host := rfl
@[simp] theorem State.withPending_boot (q : List Instr) : (s.withPending q).boot = s.boot := rfl
@[simp] theorem State.withPending_flash (q : List Instr) : (s.withPending q).flash = s.flash := rfl
@[simp] theorem State.withPending_pins (q : List Instr) : (s.withPending q).pins = s.pins := rfl
@[simp] theorem State.withPending_cinch (q : List Instr) : (s.withPending q).cinch = s.cinch := rfl
@[simp] theorem State.withPending_mf (q : List Instr) : (s.withPending q).mf = s.mf := rfl

/-! ### setRegWord -/

@[simp] theorem State.setRegWord_pending (a : Nat) (v : Word) : (s.setRegWord a v).pending = s.pending := rfl
@[simp] theorem State.setRegWord_out (a : Nat) (v : Word) : (s.setRegWord a v).out = s.out := rfl
@[simp] theorem State.setRegWord_freeCtr (a : Nat) (v : Word) : (s.setRegWord a v).freeCtr = s.freeCtr := rfl
@[simp] theorem State.setRegWord_time (a : Nat) (v : Word) : (s.setRegWord a v).time = s.time := rfl
@[simp] theorem State.setRegWord_latches (a : Nat) (v : Word) : (s.setRegWord a v).latches = s.latches := rfl
@[simp] theorem State.setRegWord_regs (a : Nat) (v : Word) : (s.setRegWord a v).regs = s.regs.put a v := rfl
@[simp] theorem State.setRegWord_log (a : Nat) (v : Word) : (s.setRegWord a v).log = s.log := rfl
@[simp] theorem State.setRegWord_map (a : Nat) (v : Word) : (s.setRegWord a v).map = s.map := rfl
@[simp] theorem State.setRegWord_cores (a : Nat) (v : Word) : (s.setRegWord a v).cores = s.cores := rfl
@[simp] theorem State.setRegWord_dies (a : Nat) (v : Word) : (s.setRegWord a v).dies = s.dies := rfl
@[simp] theorem State.setRegWord_mems (a : Nat) (v : Word) : (s.setRegWord a v).mems = s.mems := rfl
@[simp] theorem State.setRegWord_mem (a : Nat) (v : Word) : (s.setRegWord a v).mem = s.mem := rfl
@[simp] theorem State.setRegWord_links (a : Nat) (v : Word) : (s.setRegWord a v).links = s.links := rfl
@[simp] theorem State.setRegWord_inbox (a : Nat) (v : Word) : (s.setRegWord a v).inbox = s.inbox := rfl
@[simp] theorem State.setRegWord_exchIn (a : Nat) (v : Word) : (s.setRegWord a v).exchIn = s.exchIn := rfl
@[simp] theorem State.setRegWord_noticeIn (a : Nat) (v : Word) : (s.setRegWord a v).noticeIn = s.noticeIn := rfl
@[simp] theorem State.setRegWord_farUp (a : Nat) (v : Word) : (s.setRegWord a v).farUp = s.farUp := rfl
@[simp] theorem State.setRegWord_routeUp (a : Nat) (v : Word) : (s.setRegWord a v).routeUp = s.routeUp := rfl
@[simp] theorem State.setRegWord_noticed (a : Nat) (v : Word) : (s.setRegWord a v).noticed = s.noticed := rfl
@[simp] theorem State.setRegWord_parts (a : Nat) (v : Word) : (s.setRegWord a v).parts = s.parts := rfl
@[simp] theorem State.setRegWord_host (a : Nat) (v : Word) : (s.setRegWord a v).host = s.host := rfl
@[simp] theorem State.setRegWord_boot (a : Nat) (v : Word) : (s.setRegWord a v).boot = s.boot := rfl
@[simp] theorem State.setRegWord_flash (a : Nat) (v : Word) : (s.setRegWord a v).flash = s.flash := rfl
@[simp] theorem State.setRegWord_pins (a : Nat) (v : Word) : (s.setRegWord a v).pins = s.pins := rfl
@[simp] theorem State.setRegWord_cinch (a : Nat) (v : Word) : (s.setRegWord a v).cinch = s.cinch := rfl
@[simp] theorem State.setRegWord_mf (a : Nat) (v : Word) : (s.setRegWord a v).mf = s.mf := rfl

/-! ### setMemByte -/

@[simp] theorem State.setMemByte_pending (m o : Nat) (v : Byte) : (s.setMemByte m o v).pending = s.pending := rfl
@[simp] theorem State.setMemByte_out (m o : Nat) (v : Byte) : (s.setMemByte m o v).out = s.out := rfl
@[simp] theorem State.setMemByte_freeCtr (m o : Nat) (v : Byte) : (s.setMemByte m o v).freeCtr = s.freeCtr := rfl
@[simp] theorem State.setMemByte_time (m o : Nat) (v : Byte) : (s.setMemByte m o v).time = s.time := rfl
@[simp] theorem State.setMemByte_latches (m o : Nat) (v : Byte) : (s.setMemByte m o v).latches = s.latches := rfl
@[simp] theorem State.setMemByte_regs (m o : Nat) (v : Byte) : (s.setMemByte m o v).regs = s.regs := rfl
@[simp] theorem State.setMemByte_log (m o : Nat) (v : Byte) : (s.setMemByte m o v).log = s.log := rfl
@[simp] theorem State.setMemByte_map (m o : Nat) (v : Byte) : (s.setMemByte m o v).map = s.map := rfl
@[simp] theorem State.setMemByte_cores (m o : Nat) (v : Byte) : (s.setMemByte m o v).cores = s.cores := rfl
@[simp] theorem State.setMemByte_dies (m o : Nat) (v : Byte) : (s.setMemByte m o v).dies = s.dies := rfl
@[simp] theorem State.setMemByte_mems (m o : Nat) (v : Byte) : (s.setMemByte m o v).mems = s.mems := rfl
@[simp] theorem State.setMemByte_mem (m o : Nat) (v : Byte) : (s.setMemByte m o v).mem = Tab.put (α := Byte) s.mem (s.memKey m o) v := rfl
@[simp] theorem State.setMemByte_links (m o : Nat) (v : Byte) : (s.setMemByte m o v).links = s.links := rfl
@[simp] theorem State.setMemByte_inbox (m o : Nat) (v : Byte) : (s.setMemByte m o v).inbox = s.inbox := rfl
@[simp] theorem State.setMemByte_exchIn (m o : Nat) (v : Byte) : (s.setMemByte m o v).exchIn = s.exchIn := rfl
@[simp] theorem State.setMemByte_noticeIn (m o : Nat) (v : Byte) : (s.setMemByte m o v).noticeIn = s.noticeIn := rfl
@[simp] theorem State.setMemByte_farUp (m o : Nat) (v : Byte) : (s.setMemByte m o v).farUp = s.farUp := rfl
@[simp] theorem State.setMemByte_routeUp (m o : Nat) (v : Byte) : (s.setMemByte m o v).routeUp = s.routeUp := rfl
@[simp] theorem State.setMemByte_noticed (m o : Nat) (v : Byte) : (s.setMemByte m o v).noticed = s.noticed := rfl
@[simp] theorem State.setMemByte_parts (m o : Nat) (v : Byte) : (s.setMemByte m o v).parts = s.parts := rfl
@[simp] theorem State.setMemByte_host (m o : Nat) (v : Byte) : (s.setMemByte m o v).host = s.host := rfl
@[simp] theorem State.setMemByte_boot (m o : Nat) (v : Byte) : (s.setMemByte m o v).boot = s.boot := rfl
@[simp] theorem State.setMemByte_flash (m o : Nat) (v : Byte) : (s.setMemByte m o v).flash = s.flash := rfl
@[simp] theorem State.setMemByte_pins (m o : Nat) (v : Byte) : (s.setMemByte m o v).pins = s.pins := rfl
@[simp] theorem State.setMemByte_cinch (m o : Nat) (v : Byte) : (s.setMemByte m o v).cinch = s.cinch := rfl
@[simp] theorem State.setMemByte_mf (m o : Nat) (v : Byte) : (s.setMemByte m o v).mf = s.mf := rfl

/-! ### record -/

@[simp] theorem State.record_pending (u code sev p : Nat) (fs : List (Nat × Nat)) : (s.record u code sev p fs).pending = s.pending := rfl
@[simp] theorem State.record_out (u code sev p : Nat) (fs : List (Nat × Nat)) : (s.record u code sev p fs).out = s.out := rfl
@[simp] theorem State.record_freeCtr (u code sev p : Nat) (fs : List (Nat × Nat)) : (s.record u code sev p fs).freeCtr = s.freeCtr := rfl
@[simp] theorem State.record_time (u code sev p : Nat) (fs : List (Nat × Nat)) : (s.record u code sev p fs).time = s.time := rfl
@[simp] theorem State.record_latches (u code sev p : Nat) (fs : List (Nat × Nat)) : (s.record u code sev p fs).latches = s.latches := rfl
@[simp] theorem State.record_regs (u code sev p : Nat) (fs : List (Nat × Nat)) : (s.record u code sev p fs).regs = s.regs := rfl
@[simp] theorem State.record_log (u code sev p : Nat) (fs : List (Nat × Nat)) : (s.record u code sev p fs).log = { s.log with flight := s.log.flight ++ [⟨s.time.tsc, s.source u, code, sev, p, false, false, payload fs⟩] } := rfl
@[simp] theorem State.record_map (u code sev p : Nat) (fs : List (Nat × Nat)) : (s.record u code sev p fs).map = s.map := rfl
@[simp] theorem State.record_cores (u code sev p : Nat) (fs : List (Nat × Nat)) : (s.record u code sev p fs).cores = s.cores := rfl
@[simp] theorem State.record_dies (u code sev p : Nat) (fs : List (Nat × Nat)) : (s.record u code sev p fs).dies = s.dies := rfl
@[simp] theorem State.record_mems (u code sev p : Nat) (fs : List (Nat × Nat)) : (s.record u code sev p fs).mems = s.mems := rfl
@[simp] theorem State.record_mem (u code sev p : Nat) (fs : List (Nat × Nat)) : (s.record u code sev p fs).mem = s.mem := rfl
@[simp] theorem State.record_links (u code sev p : Nat) (fs : List (Nat × Nat)) : (s.record u code sev p fs).links = s.links := rfl
@[simp] theorem State.record_inbox (u code sev p : Nat) (fs : List (Nat × Nat)) : (s.record u code sev p fs).inbox = s.inbox := rfl
@[simp] theorem State.record_exchIn (u code sev p : Nat) (fs : List (Nat × Nat)) : (s.record u code sev p fs).exchIn = s.exchIn := rfl
@[simp] theorem State.record_noticeIn (u code sev p : Nat) (fs : List (Nat × Nat)) : (s.record u code sev p fs).noticeIn = s.noticeIn := rfl
@[simp] theorem State.record_farUp (u code sev p : Nat) (fs : List (Nat × Nat)) : (s.record u code sev p fs).farUp = s.farUp := rfl
@[simp] theorem State.record_routeUp (u code sev p : Nat) (fs : List (Nat × Nat)) : (s.record u code sev p fs).routeUp = s.routeUp := rfl
@[simp] theorem State.record_noticed (u code sev p : Nat) (fs : List (Nat × Nat)) : (s.record u code sev p fs).noticed = s.noticed := rfl
@[simp] theorem State.record_parts (u code sev p : Nat) (fs : List (Nat × Nat)) : (s.record u code sev p fs).parts = s.parts := rfl
@[simp] theorem State.record_host (u code sev p : Nat) (fs : List (Nat × Nat)) : (s.record u code sev p fs).host = s.host := rfl
@[simp] theorem State.record_boot (u code sev p : Nat) (fs : List (Nat × Nat)) : (s.record u code sev p fs).boot = s.boot := rfl
@[simp] theorem State.record_flash (u code sev p : Nat) (fs : List (Nat × Nat)) : (s.record u code sev p fs).flash = s.flash := rfl
@[simp] theorem State.record_pins (u code sev p : Nat) (fs : List (Nat × Nat)) : (s.record u code sev p fs).pins = s.pins := rfl
@[simp] theorem State.record_cinch (u code sev p : Nat) (fs : List (Nat × Nat)) : (s.record u code sev p fs).cinch = s.cinch := rfl
@[simp] theorem State.record_mf (u code sev p : Nat) (fs : List (Nat × Nat)) : (s.record u code sev p fs).mf = s.mf := rfl

/-! ### Compound lenses -/

@[simp] theorem State.updCore_eq (c : Nat) (f : Core → Core) : s.updCore c f = s.setCore c (f (s.core c)) := rfl
@[simp] theorem State.updDie_eq (d : Nat) (f : Die → Die) : s.updDie d f = s.setDie d (f (s.die d)) := rfl
@[simp] theorem State.updMemUnit_eq (m : Nat) (f : MemUnit → MemUnit) :
    s.updMemUnit m f = s.setMemUnit m (f (s.memUnit m)) := rfl
@[simp] theorem State.updLink_eq (l : Nat) (f : Link → Link) : s.updLink l f = s.setLink l (f (s.link l)) := rfl
@[simp] theorem State.updPart_eq (p : Nat) (f : Part → Part) : s.updPart p f = s.setPart p (f (s.part p)) := rfl
@[simp] theorem State.setBlock_eq (c b : Nat) (v : Block) :
    s.setBlock c b v = s.setCore c { s.core c with blocks := (s.core c).blocks.put b v } := rfl
@[simp] theorem State.setGroup_eq (c g : Nat) (v : Group) :
    s.setGroup c g v = s.setCore c { s.core c with groups := (s.core c).groups.put g v } := rfl
@[simp] theorem State.updBlock_eq (c b : Nat) (f : Block → Block) :
    s.updBlock c b f = s.setCore c { s.core c with blocks := (s.core c).blocks.modify b f } := rfl
@[simp] theorem State.updGroup_eq (c g : Nat) (f : Group → Group) :
    s.updGroup c g f = s.setCore c { s.core c with groups := (s.core c).groups.modify g f } := rfl

end Sys2Proof.Machine
end

