-- ==== Sys2Proof/Laws/Exec.lean ====
section
/-! SUPPORT. One lemma per command: `exec` gives it to its own meaning. -/

namespace Sys2Proof.Machine

theorem exec_beatBoundary (b : BoundaryIn) (s : State) : exec (.beatBoundary b) s = execBeatBoundary b s := rfl
theorem exec_ovfClear (path : Path) (addr : Nat) (s : State) : exec (.ovfClear path addr) s = execOvfClear path addr s := rfl
theorem exec_eventRecord (i : Nat) (s : State) : exec (.eventRecord i) s = execEventRecord i s := rfl
theorem exec_evlogSel (path : Path) (hub : Nat) (val : Word) (s : State) : exec (.evlogSel path hub val) s = execEvlogSel path hub val s := rfl
theorem exec_lowWordRead (path : Path) (addr : Nat) (s : State) : exec (.lowWordRead path addr) s = execLowWordRead path addr s := rfl
theorem exec_registerWrite (path : Path) (addr : Nat) (val : Word) (s : State) : exec (.registerWrite path addr val) s = execRegisterWrite path addr val s := rfl
theorem exec_pkgId (path : Path) (val : Word) (s : State) : exec (.pkgId path val) s = execPkgId path val s := rfl
theorem exec_blockAdmission (part : Nat) (core : Nat) (s : State) : exec (.blockAdmission part core) s = execBlockAdmission part core s := rfl
theorem exec_clusterStart (core : Nat) (slot : Nat) (s : State) : exec (.clusterStart core slot) s = execClusterStart core slot s := rfl
theorem exec_starvationGuard (core : Nat) (grp : Nat) (s : State) : exec (.starvationGuard core grp) s = execStarvationGuard core grp s := rfl
theorem exec_barrierTimeout (core : Nat) (wd : WdKey) (s : State) : exec (.barrierTimeout core wd) s = execBarrierTimeout core wd s := rfl
theorem exec_blockStopRelease (core : Nat) (slot : Nat) (s : State) : exec (.blockStopRelease core slot) s = execBlockStopRelease core slot s := rfl
theorem exec_laneMov (i : Issue) (s : State) : exec (.laneMov i) s = execLaneMov i s := rfl
theorem exec_laneAdd (i : Issue) (s : State) : exec (.laneAdd i) s = execLaneAdd i s := rfl
theorem exec_laneSub (i : Issue) (s : State) : exec (.laneSub i) s = execLaneSub i s := rfl
theorem exec_laneMul (i : Issue) (s : State) : exec (.laneMul i) s = execLaneMul i s := rfl
theorem exec_laneFma (i : Issue) (s : State) : exec (.laneFma i) s = execLaneFma i s := rfl
theorem exec_laneFms (i : Issue) (s : State) : exec (.laneFms i) s = execLaneFms i s := rfl
theorem exec_laneMin (i : Issue) (s : State) : exec (.laneMin i) s = execLaneMin i s := rfl
theorem exec_laneMax (i : Issue) (s : State) : exec (.laneMax i) s = execLaneMax i s := rfl
theorem exec_laneAbs (i : Issue) (s : State) : exec (.laneAbs i) s = execLaneAbs i s := rfl
theorem exec_laneNeg (i : Issue) (s : State) : exec (.laneNeg i) s = execLaneNeg i s := rfl
theorem exec_laneCmp (i : Issue) (s : State) : exec (.laneCmp i) s = execLaneCmp i s := rfl
theorem exec_laneSel (i : Issue) (s : State) : exec (.laneSel i) s = execLaneSel i s := rfl
theorem exec_laneCvt (i : Issue) (s : State) : exec (.laneCvt i) s = execLaneCvt i s := rfl
theorem exec_laneCvtMx (i : Issue) (s : State) : exec (.laneCvtMx i) s = execLaneCvtMx i s := rfl
theorem exec_lanePack (i : Issue) (s : State) : exec (.lanePack i) s = execLanePack i s := rfl
theorem exec_laneUnpack (i : Issue) (s : State) : exec (.laneUnpack i) s = execLaneUnpack i s := rfl
theorem exec_laneIadd (i : Issue) (s : State) : exec (.laneIadd i) s = execLaneIadd i s := rfl
theorem exec_laneIsub (i : Issue) (s : State) : exec (.laneIsub i) s = execLaneIsub i s := rfl
theorem exec_laneImul (i : Issue) (s : State) : exec (.laneImul i) s = execLaneImul i s := rfl
theorem exec_laneImin (i : Issue) (s : State) : exec (.laneImin i) s = execLaneImin i s := rfl
theorem exec_laneImax (i : Issue) (s : State) : exec (.laneImax i) s = execLaneImax i s := rfl
theorem exec_laneIcmp (i : Issue) (s : State) : exec (.laneIcmp i) s = execLaneIcmp i s := rfl
theorem exec_laneAnd (i : Issue) (s : State) : exec (.laneAnd i) s = execLaneAnd i s := rfl
theorem exec_laneOr (i : Issue) (s : State) : exec (.laneOr i) s = execLaneOr i s := rfl
theorem exec_laneXor (i : Issue) (s : State) : exec (.laneXor i) s = execLaneXor i s := rfl
theorem exec_laneNot (i : Issue) (s : State) : exec (.laneNot i) s = execLaneNot i s := rfl
theorem exec_laneShl (i : Issue) (s : State) : exec (.laneShl i) s = execLaneShl i s := rfl
theorem exec_laneShr (i : Issue) (s : State) : exec (.laneShr i) s = execLaneShr i s := rfl
theorem exec_laneSar (i : Issue) (s : State) : exec (.laneSar i) s = execLaneSar i s := rfl
theorem exec_lanePopc (i : Issue) (s : State) : exec (.lanePopc i) s = execLanePopc i s := rfl
theorem exec_laneClz (i : Issue) (s : State) : exec (.laneClz i) s = execLaneClz i s := rfl
theorem exec_laneRcp (i : Issue) (s : State) : exec (.laneRcp i) s = execLaneRcp i s := rfl
theorem exec_laneRsqrt (i : Issue) (s : State) : exec (.laneRsqrt i) s = execLaneRsqrt i s := rfl
theorem exec_laneSqrt (i : Issue) (s : State) : exec (.laneSqrt i) s = execLaneSqrt i s := rfl
theorem exec_laneExp2 (i : Issue) (s : State) : exec (.laneExp2 i) s = execLaneExp2 i s := rfl
theorem exec_laneLog2 (i : Issue) (s : State) : exec (.laneLog2 i) s = execLaneLog2 i s := rfl
theorem exec_laneDiv (i : Issue) (s : State) : exec (.laneDiv i) s = execLaneDiv i s := rfl
theorem exec_laneShfl (i : Issue) (s : State) : exec (.laneShfl i) s = execLaneShfl i s := rfl
theorem exec_laneVote (i : Issue) (s : State) : exec (.laneVote i) s = execLaneVote i s := rfl
theorem exec_laneRed (i : Issue) (s : State) : exec (.laneRed i) s = execLaneRed i s := rfl
theorem exec_laneFlag (i : Issue) (s : State) : exec (.laneFlag i) s = execLaneFlag i s := rfl
theorem exec_laneRng (i : Issue) (s : State) : exec (.laneRng i) s = execLaneRng i s := rfl
theorem exec_laneCmp24 (i : Issue) (s : State) : exec (.laneCmp24 i) s = execLaneCmp24 i s := rfl
theorem exec_lanePick (i : Issue) (s : State) : exec (.lanePick i) s = execLanePick i s := rfl
theorem exec_scalarMov (i : Issue) (s : State) : exec (.scalarMov i) s = execScalarMov i s := rfl
theorem exec_scalarAdd (i : Issue) (s : State) : exec (.scalarAdd i) s = execScalarAdd i s := rfl
theorem exec_scalarSub (i : Issue) (s : State) : exec (.scalarSub i) s = execScalarSub i s := rfl
theorem exec_scalarMul (i : Issue) (s : State) : exec (.scalarMul i) s = execScalarMul i s := rfl
theorem exec_scalarAnd (i : Issue) (s : State) : exec (.scalarAnd i) s = execScalarAnd i s := rfl
theorem exec_scalarOr (i : Issue) (s : State) : exec (.scalarOr i) s = execScalarOr i s := rfl
theorem exec_scalarXor (i : Issue) (s : State) : exec (.scalarXor i) s = execScalarXor i s := rfl
theorem exec_scalarShl (i : Issue) (s : State) : exec (.scalarShl i) s = execScalarShl i s := rfl
theorem exec_scalarShr (i : Issue) (s : State) : exec (.scalarShr i) s = execScalarShr i s := rfl
theorem exec_scalarSar (i : Issue) (s : State) : exec (.scalarSar i) s = execScalarSar i s := rfl
theorem exec_scalarMin (i : Issue) (s : State) : exec (.scalarMin i) s = execScalarMin i s := rfl
theorem exec_scalarMax (i : Issue) (s : State) : exec (.scalarMax i) s = execScalarMax i s := rfl
theorem exec_scalarUmin (i : Issue) (s : State) : exec (.scalarUmin i) s = execScalarUmin i s := rfl
theorem exec_scalarUmax (i : Issue) (s : State) : exec (.scalarUmax i) s = execScalarUmax i s := rfl
theorem exec_scalarCmp (i : Issue) (s : State) : exec (.scalarCmp i) s = execScalarCmp i s := rfl
theorem exec_scalarFma (i : Issue) (s : State) : exec (.scalarFma i) s = execScalarFma i s := rfl
theorem exec_scalarCvt (i : Issue) (s : State) : exec (.scalarCvt i) s = execScalarCvt i s := rfl
theorem exec_rdlane (i : Issue) (s : State) : exec (.rdlane i) s = execRdlane i s := rfl
theorem exec_wrlane (i : Issue) (s : State) : exec (.wrlane i) s = execWrlane i s := rfl
theorem exec_mmaT (i : Issue) (s : State) : exec (.mmaT i) s = execMmaT i s := rfl
theorem exec_mmaS (i : Issue) (s : State) : exec (.mmaS i) s = execMmaS i s := rfl
theorem exec_mmaQ (i : Issue) (s : State) : exec (.mmaQ i) s = execMmaQ i s := rfl
theorem exec_smma (i : Issue) (s : State) : exec (.smma i) s = execSmma i s := rfl
theorem exec_mmaDrain (i : Issue) (s : State) : exec (.mmaDrain i) s = execMmaDrain i s := rfl
theorem exec_arrayTake (core : Nat) (s : State) : exec (.arrayTake core) s = execArrayTake core s := rfl
theorem exec_tileSequencerRead (core : Nat) (s : State) : exec (.tileSequencerRead core) s = execTileSequencerRead core s := rfl
theorem exec_drainRead (core : Nat) (s : State) : exec (.drainRead core) s = execDrainRead core s := rfl
theorem exec_drainOutput (core : Nat) (s : State) : exec (.drainOutput core) s = execDrainOutput core s := rfl
theorem exec_ld (i : Issue) (s : State) : exec (.ld i) s = execLd i s := rfl
theorem exec_st (i : Issue) (s : State) : exec (.st i) s = execSt i s := rfl
theorem exec_ldAcq (i : Issue) (s : State) : exec (.ldAcq i) s = execLdAcq i s := rfl
theorem exec_stRel (i : Issue) (s : State) : exec (.stRel i) s = execStRel i s := rfl
theorem exec_atom (i : Issue) (s : State) : exec (.atom i) s = execAtom i s := rfl
theorem exec_ldS (i : Issue) (s : State) : exec (.ldS i) s = execLdS i s := rfl
theorem exec_prefetch (i : Issue) (s : State) : exec (.prefetch i) s = execPrefetch i s := rfl
theorem exec_bgather (i : Issue) (s : State) : exec (.bgather i) s = execBgather i s := rfl
theorem exec_bmerge (i : Issue) (s : State) : exec (.bmerge i) s = execBmerge i s := rfl
theorem exec_dmaCp (i : Issue) (s : State) : exec (.dmaCp i) s = execDmaCp i s := rfl
theorem exec_dmaFill (i : Issue) (s : State) : exec (.dmaFill i) s = execDmaFill i s := rfl
theorem exec_dmaWait (i : Issue) (s : State) : exec (.dmaWait i) s = execDmaWait i s := rfl
theorem exec_dmaPoll (i : Issue) (s : State) : exec (.dmaPoll i) s = execDmaPoll i s := rfl
theorem exec_nop (i : Issue) (s : State) : exec (.nop i) s = execNop i s := rfl
theorem exec_bra (i : Issue) (s : State) : exec (.bra i) s = execBra i s := rfl
theorem exec_jmp (i : Issue) (s : State) : exec (.jmp i) s = execJmp i s := rfl
theorem exec_call (i : Issue) (s : State) : exec (.call i) s = execCall i s := rfl
theorem exec_exit (i : Issue) (s : State) : exec (.exit i) s = execExit i s := rfl
theorem exec_barG (i : Issue) (s : State) : exec (.barG i) s = execBarG i s := rfl
theorem exec_barB (i : Issue) (s : State) : exec (.barB i) s = execBarB i s := rfl
theorem exec_fence (i : Issue) (s : State) : exec (.fence i) s = execFence i s := rfl
theorem exec_tsc (i : Issue) (tick : Nat) (s : State) : exec (.tsc i tick) s = execTsc i tick s := rfl
theorem exec_beat (i : Issue) (s : State) : exec (.beat i) s = execBeat i s := rfl
theorem exec_wbeat (i : Issue) (s : State) : exec (.wbeat i) s = execWbeat i s := rfl
theorem exec_wbeatRelease (core : Nat) (grp : Nat) (pc : DWord) (s : State) : exec (.wbeatRelease core grp pc) s = execWbeatRelease core grp pc s := rfl
theorem exec_trap (i : Issue) (s : State) : exec (.trap i) s = execTrap i s := rfl
theorem exec_rdpc (i : Issue) (s : State) : exec (.rdpc i) s = execRdpc i s := rfl
theorem exec_bobbinExecute (x : Reads) (s : State) : exec (.bobbinExecute x) s = execBobbinExecute x s := rfl
theorem exec_bobbinComplete (core : Nat) (s : State) : exec (.bobbinComplete core) s = execBobbinComplete core s := rfl
theorem exec_readRequest (src : ReqSrc) (ecc : Ecc) (s : State) : exec (.readRequest src ecc) s = execReadRequest src ecc s := rfl
theorem exec_lineWrite (src : WriteSrc) (ecc : Ecc) (s : State) : exec (.lineWrite src ecc) s = execLineWrite src ecc s := rfl
theorem exec_atomic (src : ReqSrc) (ecc : Ecc) (s : State) : exec (.atomic src ecc) s = execAtomic src ecc s := rfl
theorem exec_readResponse (core : Nat) (entry : Nat) (parityOk : Bool) (s : State) : exec (.readResponse core entry parityOk) s = execReadResponse core entry parityOk s := rfl
theorem exec_writeAcknowledgement (x : AckIn) (s : State) : exec (.writeAcknowledgement x) s = execWriteAcknowledgement x s := rfl
theorem exec_atomicResponse (core : Nat) (x : Answer) (s : State) : exec (.atomicResponse core x) s = execAtomicResponse core x s := rfl
theorem exec_refusal (core : Nat) (x : Answer) (s : State) : exec (.refusal core x) s = execRefusal core x s := rfl
theorem exec_memRetrainDone (stack : Nat) (ok : Bool) (s : State) : exec (.memRetrainDone stack ok) s = execMemRetrainDone stack ok s := rfl
theorem exec_dmaTransfer (core : Nat) (x : DmaStep) (s : State) : exec (.dmaTransfer core x) s = execDmaTransfer core x s := rfl
theorem exec_dmaComplete (core : Nat) (d : Nat) (s : State) : exec (.dmaComplete core d) s = execDmaComplete core d s := rfl
theorem exec_amapRcInval (path : Path) (core : Nat) (val : Word) (s : State) : exec (.amapRcInval path core val) s = execAmapRcInval path core val s := rfl
theorem exec_amapFaultClear (path : Path) (core : Nat) (val : Word) (s : State) : exec (.amapFaultClear path core val) s = execAmapFaultClear path core val s := rfl
theorem exec_ageSeam (core : Nat) (slot : Nat) (s : State) : exec (.ageSeam core slot) s = execAgeSeam core slot s := rfl
theorem exec_seamBegin (core : Nat) (slot : Nat) (s : State) : exec (.seamBegin core slot) s = execSeamBegin core slot s := rfl
theorem exec_seamQuiesced (core : Nat) (slot : Nat) (s : State) : exec (.seamQuiesced core slot) s = execSeamQuiesced core slot s := rfl
theorem exec_seamLogged (core : Nat) (slot : Nat) (s : State) : exec (.seamLogged core slot) s = execSeamLogged core slot s := rfl
theorem exec_seamCommitted (core : Nat) (slot : Nat) (s : State) : exec (.seamCommitted core slot) s = execSeamCommitted core slot s := rfl
theorem exec_seamApplied (core : Nat) (slot : Nat) (s : State) : exec (.seamApplied core slot) s = execSeamApplied core slot s := rfl
theorem exec_clusterCommit (core : Nat) (slot : Nat) (s : State) : exec (.clusterCommit core slot) s = execClusterCommit core slot s := rfl
theorem exec_atomAfterSeam (core : Nat) (slot : Nat) (s : State) : exec (.atomAfterSeam core slot) s = execAtomAfterSeam core slot s := rfl
theorem exec_finalCommit (core : Nat) (slot : Nat) (s : State) : exec (.finalCommit core slot) s = execFinalCommit core slot s := rfl
theorem exec_finalCommitComplete (core : Nat) (slot : Nat) (s : State) : exec (.finalCommitComplete core slot) s = execFinalCommitComplete core slot s := rfl
theorem exec_coreHardwareFault (die : Nat) (phys : Nat) (cls : Nat) (s : State) : exec (.coreHardwareFault die phys cls) s = execCoreHardwareFault die phys cls s := rfl
theorem exec_frontEndStall (core : Nat) (s : State) : exec (.frontEndStall core) s = execFrontEndStall core s := rfl
theorem exec_retirementDecision (checkFails : List Bool) (s : State) : exec (.retirementDecision checkFails) s = execRetirementDecision checkFails s := rfl
theorem exec_blockReplay (core : Nat) (x : Reads) (s : State) : exec (.blockReplay core x) s = execBlockReplay core x s := rfl
theorem exec_blockMoved (core : Nat) (x : Reads) (host : Nat) (s : State) : exec (.blockMoved core x host) s = execBlockMoved core x host s := rfl
theorem exec_completionRecord (part : Nat) (s : State) : exec (.completionRecord part) s = execCompletionRecord part s := rfl
theorem exec_patrolScrub (mem : Nat) (ecc : Ecc) (s : State) : exec (.patrolScrub mem ecc) s = execPatrolScrub mem ecc s := rfl
theorem exec_remapCopyDone (x : Reads) (s : State) : exec (.remapCopyDone x) s = execRemapCopyDone x s := rfl
theorem exec_stackTrip (stack : Nat) (s : State) : exec (.stackTrip stack) s = execStackTrip stack s := rfl
theorem exec_leakyBucketLeak (ch : Channel) (s : State) : exec (.leakyBucketLeak ch) s = execLeakyBucketLeak ch s := rfl
theorem exec_bridgeTransfer (src dst : Nat) (x : HopIn) (s : State) : exec (.bridgeTransfer src dst x) s = execBridgeTransfer src dst x s := rfl
theorem exec_bridgeRetrain (bridge : Nat) (x : FailedWires) (s : State) : exec (.bridgeRetrain bridge x) s = execBridgeRetrain bridge x s := rfl
theorem exec_fabShadowReload (die : Nat) (s : State) : exec (.fabShadowReload die) s = execFabShadowReload die s := rfl
theorem exec_remoteRequestTimeout (core : Nat) (entry : Nat) (s : State) : exec (.remoteRequestTimeout core entry) s = execRemoteRequestTimeout core entry s := rfl
theorem exec_frameFlushTimer (die : Nat) (i : Nat) (s : State) : exec (.frameFlushTimer die i) s = execFrameFlushTimer die i s := rfl
theorem exec_tlFrame (link : Nat) (f : Frame) (s : State) : exec (.tlFrame link f) s = execTlFrame link f s := rfl
theorem exec_notice (link : Nat) (part : Nat) (dstPkg : Nat) (dstPart : Nat) (reason : Nat) (s : State) : exec (.notice link part dstPkg dstPart reason) s = execNotice link part dstPkg dstPart reason s := rfl
theorem exec_tlDetect (link : Nat) (m : Option ModuleIn) (x : DetectIn) (s : State) : exec (.tlDetect link m x) s = execTlDetect link m x s := rfl
theorem exec_tlEqualiseDone (link : Nat) (settings : List Nat) (s : State) : exec (.tlEqualiseDone link settings) s = execTlEqualiseDone link settings s := rfl
theorem exec_tlAlignDone (link : Nat) (errs : List Nat) (s : State) : exec (.tlAlignDone link errs) s = execTlAlignDone link errs s := rfl
theorem exec_tlIdentify (link : Nat) (peerPkg : Nat) (peerLink : Nat) (peerLanes : List Nat) (peerDist : Nat) (s : State) : exec (.tlIdentify link peerPkg peerLink peerLanes peerDist) s = execTlIdentify link peerPkg peerLink peerLanes peerDist s := rfl
theorem exec_tlDelayDone (link : Nat) (trips : List (Nat × Nat)) (s : State) : exec (.tlDelayDone link trips) s = execTlDelayDone link trips s := rfl
theorem exec_tlStateTimeout (link : Nat) (s : State) : exec (.tlStateTimeout link) s = execTlStateTimeout link s := rfl
theorem exec_tlRetrainDone (link : Nat) (ok : Bool) (errs : List Nat) (trips : List (Nat × Nat)) (s : State) : exec (.tlRetrainDone link ok errs trips) s = execTlRetrainDone link ok errs trips s := rfl
theorem exec_tlCtrlEn (path : Path) (link : Nat) (val : Word) (s : State) : exec (.tlCtrlEn path link val) s = execTlCtrlEn path link val s := rfl
theorem exec_tlCtrlRetrain (path : Path) (link : Nat) (val : Word) (s : State) : exec (.tlCtrlRetrain path link val) s = execTlCtrlRetrain path link val s := rfl
theorem exec_fabTopo (path : Path) (die : Nat) (val : Word) (s : State) : exec (.fabTopo path die val) s = execFabTopo path die val s := rfl
theorem exec_cageModuleRemoved (cage : Nat) (s : State) : exec (.cageModuleRemoved cage) s = execCageModuleRemoved cage s := rfl
theorem exec_xplanStart (path : Path) (part : Nat) (val : Word) (s : State) : exec (.xplanStart path part val) s = execXplanStart path part val s := rfl
theorem exec_stepBoundary (part : Nat) (s : State) : exec (.stepBoundary part) s = execStepBoundary part s := rfl
theorem exec_xplanArm (path : Path) (part : Nat) (val : Word) (s : State) : exec (.xplanArm path part val) s = execXplanArm path part val s := rfl
theorem exec_xplanArmed (part : Nat) (s : State) : exec (.xplanArmed part) s = execXplanArmed part s := rfl
theorem exec_xplanDisarm (path : Path) (part : Nat) (val : Word) (s : State) : exec (.xplanDisarm path part val) s = execXplanDisarm path part val s := rfl
theorem exec_exchangeSendBeat (part : Nat) (x : Reads) (s : State) : exec (.exchangeSendBeat part x) s = execExchangeSendBeat part x s := rfl
theorem exec_exchangeDataFrame (part : Nat) (srcPkg : Nat) (b : ExchBody) (s : State) : exec (.exchangeDataFrame part srcPkg b) s = execExchangeDataFrame part srcPkg b s := rfl
theorem exec_exchangeReduceBeat (part : Nat) (x : Reads) (late : List Nat) (s : State) : exec (.exchangeReduceBeat part x late) s = execExchangeReduceBeat part x late s := rfl
theorem exec_exchangeRecvBeat (part : Nat) (x : Reads) (late : List Nat) (s : State) : exec (.exchangeRecvBeat part x late) s = execExchangeRecvBeat part x late s := rfl
theorem exec_checkBeat (part : Nat) (x : Reads) (s : State) : exec (.checkBeat part x) s = execCheckBeat part x s := rfl
theorem exec_healthFreeze (part : Nat) (s : State) : exec (.healthFreeze part) s = execHealthFreeze part s := rfl
theorem exec_healthUpFrame (part : Nat) (srcPkg : Nat) (b : ExchBody) (s : State) : exec (.healthUpFrame part srcPkg b) s = execHealthUpFrame part srcPkg b s := rfl
theorem exec_healthDownSend (part : Nat) (entry : Nat) (s : State) : exec (.healthDownSend part entry) s = execHealthDownSend part entry s := rfl
theorem exec_healthDownFrame (part : Nat) (srcPkg : Nat) (b : ExchBody) (s : State) : exec (.healthDownFrame part srcPkg b) s = execHealthDownFrame part srcPkg b s := rfl
theorem exec_healthDecision (part : Nat) (s : State) : exec (.healthDecision part) s = execHealthDecision part s := rfl
theorem exec_updArm (path : Path) (part : Nat) (val : Word) (s : State) : exec (.updArm path part val) s = execUpdArm path part val s := rfl
theorem exec_updDisarm (path : Path) (part : Nat) (val : Word) (s : State) : exec (.updDisarm path part val) s = execUpdDisarm path part val s := rfl
theorem exec_updRevert (path : Path) (part : Nat) (val : Word) (s : State) : exec (.updRevert path part val) s = execUpdRevert path part val s := rfl
theorem exec_revert (part : Nat) (s : State) : exec (.revert part) s = execRevert part s := rfl
theorem exec_updateLaunch (part : Nat) (s : State) : exec (.updateLaunch part) s = execUpdateLaunch part s := rfl
theorem exec_updateCommit (part : Nat) (s : State) : exec (.updateCommit part) s = execUpdateCommit part s := rfl
theorem exec_ethLinkChange (port : Nat) (up : Bool) (phy : Nat) (fec : Bool) (s : State) : exec (.ethLinkChange port up phy fec) s = execEthLinkChange port up phy fec s := rfl
theorem exec_ethFrame (port : Nat) (f : EthDst) (kind : EthKind) (s : State) : exec (.ethFrame port f kind) s = execEthFrame port f kind s := rfl
theorem exec_rdmaWrite (qpn : Nat) (rkey : Nat) (addr : DWord) (x : Payload) (s : State) : exec (.rdmaWrite qpn rkey addr x) s = execRdmaWrite qpn rkey addr x s := rfl
theorem exec_rdmaRead (qpn : Nat) (rkey : Nat) (addr : DWord) (x : Reads) (s : State) : exec (.rdmaRead qpn rkey addr x) s = execRdmaRead qpn rkey addr x s := rfl
theorem exec_rdmaReadResponse (core : Nat) (entry : Nat) (ok : Bool) (data : Line) (s : State) : exec (.rdmaReadResponse core entry ok data) s = execRdmaReadResponse core entry ok data s := rfl
theorem exec_rdmaAcknowledge (l : ApplyLine) (ok : Bool) (s : State) : exec (.rdmaAcknowledge l ok) s = execRdmaAcknowledge l ok s := rfl
theorem exec_rdmaRetryTimeout (l : ApplyLine) (s : State) : exec (.rdmaRetryTimeout l) s = execRdmaRetryTimeout l s := rfl
theorem exec_hello (port : Nat) (h : Hello) (s : State) : exec (.hello port h) s = execHello port h s := rfl
theorem exec_proof (hs : Nat) (ok : Bool) (s : State) : exec (.proof hs ok) s = execProof hs ok s := rfl
theorem exec_handshakeTimeout (hs : Nat) (s : State) : exec (.handshakeTimeout hs) s = execHandshakeTimeout hs s := rfl
theorem exec_lockExpiry (sc : Scope) (s : State) : exec (.lockExpiry sc) s = execLockExpiry sc s := rfl
theorem exec_sessionIdleTimeout (sess : Nat) (s : State) : exec (.sessionIdleTimeout sess) s = execSessionIdleTimeout sess s := rfl
theorem exec_regread (sess : Nat) (addr : Nat) (width : Nat) (s : State) : exec (.regread sess addr width) s = execRegread sess addr width s := rfl
theorem exec_regwrite (sess : Nat) (addr : Nat) (width : Nat) (val : Word) (s : State) : exec (.regwrite sess addr width val) s = execRegwrite sess addr width val s := rfl
theorem exec_qpCreate (sess : Nat) (x : QpIn) (s : State) : exec (.qpCreate sess x) s = execQpCreate sess x s := rfl
theorem exec_qpDestroy (sess : Nat) (qpn : Nat) (s : State) : exec (.qpDestroy sess qpn) s = execQpDestroy sess qpn s := rfl
theorem exec_keys (sess : Nat) (linkKey : BitVec 256) (s : State) : exec (.keys sess linkKey) s = execKeys sess linkKey s := rfl
theorem exec_peers (sess : Nat) (es : List PeerEntry) (s : State) : exec (.peers sess es) s = execPeers sess es s := rfl
theorem exec_start (sess : Nat) (s : State) : exec (.start sess) s = execStart sess s := rfl
theorem exec_zeroise (sess : Nat) (part : Nat) (s : State) : exec (.zeroise sess part) s = execZeroise sess part s := rfl
theorem exec_memoryScrubDone (part : Nat) (s : State) : exec (.memoryScrubDone part) s = execMemoryScrubDone part s := rfl
theorem exec_attest (sess : Nat) (kind : Nat) (part : Nat) (nonce : BitVec 256) (s : State) : exec (.attest sess kind part nonce) s = execAttest sess kind part nonce s := rfl
theorem exec_assign (sess : Nat) (part : Nat) (c : Cred) (s : State) : exec (.assign sess part c) s = execAssign sess part c s := rfl
theorem exec_owner (sess : Nat) (pub : BitVec 776) (s : State) : exec (.owner sess pub) s = execOwner sess pub s := rfl
theorem exec_close (sess : Nat) (s : State) : exec (.close sess) s = execClose sess s := rfl
theorem exec_evread (sess : Nat) (index : Nat) (count : Nat) (s : State) : exec (.evread sess index count) s = execEvread sess index count s := rfl
theorem exec_release (sess : Nat) (s : State) : exec (.release sess) s = execRelease sess s := rfl
theorem exec_privlaunch (sess : Nat) (part : Nat) (bytes : List Byte) (s : State) : exec (.privlaunch sess part bytes) s = execPrivlaunch sess part bytes s := rfl
theorem exec_partitionStart (part : Nat) (s : State) : exec (.partitionStart part) s = execPartitionStart part s := rfl
theorem exec_partDefine (path : Path) (part : Nat) (val : Word) (s : State) : exec (.partDefine path part val) s = execPartDefine path part val s := rfl
theorem exec_partReset (path : Path) (part : Nat) (val : Word) (s : State) : exec (.partReset path part val) s = execPartReset path part val s := rfl
theorem exec_partitionReset (part : Nat) (s : State) : exec (.partitionReset part) s = execPartitionReset part s := rfl
theorem exec_partRelease (path : Path) (part : Nat) (val : Word) (s : State) : exec (.partRelease path part val) s = execPartRelease path part val s := rfl
theorem exec_cmdtEn (path : Path) (part : Nat) (val : Word) (s : State) : exec (.cmdtEn path part val) s = execCmdtEn path part val s := rfl
theorem exec_cmdtLaunch (x : Reads) (s : State) : exec (.cmdtLaunch x) s = execCmdtLaunch x s := rfl
theorem exec_cmdtWindow (x : Reads) (s : State) : exec (.cmdtWindow x) s = execCmdtWindow x s := rfl
theorem exec_cmdtMark (x : Reads) (s : State) : exec (.cmdtMark x) s = execCmdtMark x s := rfl
theorem exec_cmdtNop (x : Reads) (s : State) : exec (.cmdtNop x) s = execCmdtNop x s := rfl
theorem exec_markComplete (part : Nat) (s : State) : exec (.markComplete part) s = execMarkComplete part s := rfl
theorem exec_packageColdReset (s : State) : exec (.packageColdReset) s = execPackageColdReset s := rfl
theorem exec_resetRelease (straps : BitVec 14) (s : State) : exec (.resetRelease straps) s = execResetRelease straps s := rfl
theorem exec_cantlePllLock (s : State) : exec (.cantlePllLock) s = execCantlePllLock s := rfl
theorem exec_hubSelfTest (hub : Nat) (ok : Bool) (s : State) : exec (.hubSelfTest hub ok) s = execHubSelfTest hub ok s := rfl
theorem exec_fuseRead (h0 : Option FuseIn) (h1 : Option FuseIn) (s : State) : exec (.fuseRead h0 h1) s = execFuseRead h0 h1 s := rfl
theorem exec_imageVerify (img : ImageIn) (s : State) : exec (.imageVerify img) s = execImageVerify img s := rfl
theorem exec_recover (img : ImageIn) (ownerSigOk : Bool) (s : State) : exec (.recover img ownerSigOk) s = execRecover img ownerSigOk s := rfl
theorem exec_firmwareStart (rejected : List (Nat × Nat)) (boardDesc : Option (List Nat)) (descVersion : Nat) (s : State) : exec (.firmwareStart rejected boardDesc descVersion) s = execFirmwareStart rejected boardDesc descVersion s := rfl
theorem exec_pgCAssert (die : Nat) (s : State) : exec (.pgCAssert die) s = execPgCAssert die s := rfl
theorem exec_pgCTimeout (die : Nat) (s : State) : exec (.pgCTimeout die) s = execPgCTimeout die s := rfl
theorem exec_coreFirmwareCheck (die : Nat) (ok : Bool) (s : State) : exec (.coreFirmwareCheck die ok) s = execCoreFirmwareCheck die ok s := rfl
theorem exec_knownAnswerRuns (u : KatUnit) (ok : Bool) (run : Nat) (s : State) : exec (.knownAnswerRuns u ok run) s = execKnownAnswerRuns u ok run s := rfl
theorem exec_hbmTrained (stack : Nat) (identityOk : Bool) (serial : DWord) (saved : SavedIn) (checkOk : Bool) (trainOk : Bool) (hppr : Nat) (pages : List (Nat × Nat)) (s : State) : exec (.hbmTrained stack identityOk serial saved checkOk trainOk hppr pages) s = execHbmTrained stack identityOk serial saved checkOk trainOk hppr pages s := rfl
theorem exec_lpddrTrained (module : Nat) (spd : SpdIn) (saved : SavedIn) (checkOk : Bool) (trainOk : Bool) (s : State) : exec (.lpddrTrained module spd saved checkOk trainOk) s = execLpddrTrained module spd saved checkOk trainOk s := rfl
theorem exec_coreMapBuild (die : Nat) (s : State) : exec (.coreMapBuild die) s = execCoreMapBuild die s := rfl
theorem exec_startPhaseTimeout (phase : Nat) (unit : Nat) (s : State) : exec (.startPhaseTimeout phase unit) s = execStartPhaseTimeout phase unit s := rfl
theorem exec_ready (ms : Nat) (s : State) : exec (.ready ms) s = execReady ms s := rfl
theorem exec_bootDiscard (path : Path) (val : Word) (s : State) : exec (.bootDiscard path val) s = execBootDiscard path val s := rfl
theorem exec_bootNofast (path : Path) (val : Word) (s : State) : exec (.bootNofast path val) s = execBootNofast path val s := rfl
theorem exec_hourTick (s : State) : exec (.hourTick) s = execHourTick s := rfl
theorem exec_pgBoardFall (s : State) : exec (.pgBoardFall) s = execPgBoardFall s := rfl
theorem exec_pgCFall (die : Nat) (s : State) : exec (.pgCFall die) s = execPgCFall die s := rfl
theorem exec_dieReport (die : Nat) (s : State) : exec (.dieReport die) s = execDieReport die s := rfl
theorem exec_dieWedged (die : Nat) (s : State) : exec (.dieWedged die) s = execDieWedged die s := rfl
theorem exec_dieFailed (die : Nat) (cause : Nat) (s : State) : exec (.dieFailed die cause) s = execDieFailed die cause s := rfl
theorem exec_mapRebuild (beats : Nat) (s : State) : exec (.mapRebuild beats) s = execMapRebuild beats s := rfl
theorem exec_thermalTrip (unit : Nat) (temp : Nat) (s : State) : exec (.thermalTrip unit temp) s = execThermalTrip unit temp s := rfl
theorem exec_managementRound (r : RoundIn) (s : State) : exec (.managementRound r) s = execManagementRound r s := rfl
theorem exec_mfLate (op : Nat) (part : Nat) (us : Nat) (s : State) : exec (.mfLate op part us) s = execMfLate op part us s := rfl
theorem exec_cinchSpent (s : State) : exec (.cinchSpent) s = execCinchSpent s := rfl
theorem exec_cinchCap (path : Path) (hub : Nat) (val : Word) (s : State) : exec (.cinchCap path hub val) s = execCinchCap path hub val s := rfl
theorem exec_cinchFast (path : Path) (hub : Nat) (val : Word) (s : State) : exec (.cinchFast path hub val) s = execCinchFast path hub val s := rfl
theorem exec_cinchCtrl (path : Path) (hub : Nat) (val : Word) (s : State) : exec (.cinchCtrl path hub val) s = execCinchCtrl path hub val s := rfl
theorem exec_fastLimitAssert (s : State) : exec (.fastLimitAssert) s = execFastLimitAssert s := rfl
theorem exec_fastLimitDeassert (s : State) : exec (.fastLimitDeassert) s = execFastLimitDeassert s := rfl
theorem exec_syncEdge (tick : Nat) (s : State) : exec (.syncEdge tick) s = execSyncEdge tick s := rfl
theorem exec_testModeUnlock (sigOk : Bool) (clearRetained : Bool) (s : State) : exec (.testModeUnlock sigOk clearRetained) s = execTestModeUnlock sigOk clearRetained s := rfl

end Sys2Proof.Machine
end

