-- ==== Sys2Proof/Laws/Tab.lean ====
section
/-! SUPPORT. Laws of the sorted tables: a read after a write, and that every operation keeps the keys rising. -/

namespace Sys2Proof.Machine

variable {α : Type}

/-! ### Reading after writing -/

@[simp] theorem Tab.find_nil (n : Nat) : Tab.find ([] : Tab α) n = none := rfl

@[simp] theorem Tab.find_put_same (t : Tab α) (n : Nat) (v : α) : (t.put n v).find n = some v := by
  induction t with
  | nil => simp [Tab.put, Tab.find]
  | cons e t ih =>
    obtain ⟨k, w⟩ := e
    simp only [Tab.put]
    split
    · simp [Tab.find]
    · split
      · simp [Tab.find]
      · rename_i h; simp [Tab.find, Ne.symm h, ih]

theorem Tab.find_put_other (t : Tab α) {n m : Nat} (v : α) (h : m ≠ n) : (t.put n v).find m = t.find m := by
  induction t with
  | nil => simp [Tab.put, Tab.find, Ne.symm h]
  | cons e t ih =>
    obtain ⟨k, w⟩ := e
    simp only [Tab.put]
    split
    · simp [Tab.find, Ne.symm h]
    · split
      · rename_i hk; subst hk; simp [Tab.find, Ne.symm h]
      · simp [Tab.find, ih]

theorem Tab.find_put (t : Tab α) (n m : Nat) (v : α) :
    (t.put n v).find m = if m = n then some v else t.find m := by
  by_cases h : m = n
  · subst h; simp
  · simp [h, Tab.find_put_other t v h]

@[simp] theorem Tab.get_put_same (t : Tab α) (n : Nat) (v d : α) : (t.put n v).get n d = v := by
  simp [Tab.get]

theorem Tab.get_put_other (t : Tab α) {n m : Nat} (v d : α) (h : m ≠ n) : (t.put n v).get m d = t.get m d := by
  simp [Tab.get, Tab.find_put_other t v h]

theorem Tab.get_put (t : Tab α) (n m : Nat) (v d : α) :
    (t.put n v).get m d = if m = n then v else t.get m d := by
  by_cases h : m = n
  · subst h; simp
  · simp [h, Tab.get_put_other t v d h]

theorem Tab.find_del_same (t : Tab α) (n : Nat) : (t.del n).find n = none := by
  induction t with
  | nil => rfl
  | cons e t ih =>
    obtain ⟨k, w⟩ := e
    by_cases h : k = n
    · simpa [Tab.del, h] using ih
    · simpa [Tab.del, Tab.find, h] using ih

theorem Tab.find_del_other (t : Tab α) {n m : Nat} (h : m ≠ n) : (t.del n).find m = t.find m := by
  induction t with
  | nil => rfl
  | cons e t ih =>
    obtain ⟨k, w⟩ := e
    by_cases hk : k = n
    · subst hk; simpa [Tab.del, Tab.find, Ne.symm h] using ih
    · by_cases hm : k = m
      · subst hm; simp [Tab.del, Tab.find, hk]
      · simpa [Tab.del, Tab.find, hk, hm] using ih

theorem Tab.find_modify (t : Tab α) (n m : Nat) (f : α → α) :
    (t.modify n f).find m = if m = n then (t.find m).map f else t.find m := by
  induction t with
  | nil => simp [Tab.modify]
  | cons e t ih =>
    obtain ⟨k, w⟩ := e
    have ih' : Tab.find (List.map (fun e : Nat × α => if e.1 = n then (e.1, f e.2) else e) t) m
        = if m = n then (Tab.find t m).map f else Tab.find t m := ih
    by_cases hk : k = n <;> by_cases hm : k = m <;>
      simp_all [Tab.modify, Tab.find]

theorem Tab.find_mapAll (t : Tab α) (m : Nat) (f : α → α) : (t.mapAll f).find m = (t.find m).map f := by
  induction t with
  | nil => rfl
  | cons e t ih =>
    obtain ⟨k, w⟩ := e
    by_cases hm : k = m
    · simp [Tab.mapAll, Tab.find, hm]
    · simpa [Tab.mapAll, Tab.find, hm] using ih

/-! ### Keys rise -/

theorem Tab.sorted_iff (t : Tab α) : t.sorted = true ↔ (t.map Prod.fst).Pairwise (· < ·) := by
  induction t with
  | nil => simp [Tab.sorted]
  | cons a t ih =>
    cases t with
    | nil => simp [Tab.sorted]
    | cons b t =>
      simp only [Tab.sorted, Bool.and_eq_true, decide_eq_true_eq, ih, List.map_cons, List.pairwise_cons]
      constructor
      · rintro ⟨hab, hb, ht⟩
        refine ⟨?_, hb, ht⟩
        intro x hx
        rcases List.mem_cons.1 hx with rfl | hx
        · exact hab
        · exact Nat.lt_trans hab (hb x hx)
      · rintro ⟨ha, hb, ht⟩
        exact ⟨ha _ (List.mem_cons_self ..), hb, ht⟩

theorem Tab.mem_put (t : Tab α) (n : Nat) (v : α) {k : Nat} (h : k ∈ (t.put n v).map Prod.fst) :
    k = n ∨ k ∈ t.map Prod.fst := by
  induction t with
  | nil => simpa [Tab.put] using h
  | cons a t ih =>
    obtain ⟨b, w⟩ := a
    simp only [Tab.put] at h
    split at h
    · simpa using h
    · split at h
      · simp at h ⊢; tauto
      · simp only [List.map_cons, List.mem_cons] at h ⊢
        rcases h with h | h
        · exact .inr (.inl h)
        · rcases ih h with h | h
          · exact .inl h
          · exact .inr (.inr h)

theorem Tab.sorted_put (t : Tab α) (n : Nat) (v : α) (h : t.sorted = true) : (t.put n v).sorted = true := by
  rw [Tab.sorted_iff] at h ⊢
  induction t with
  | nil => simp [Tab.put]
  | cons a t ih =>
    obtain ⟨b, w⟩ := a
    simp only [List.map_cons, List.pairwise_cons] at h
    simp only [Tab.put]
    split
    · rename_i hn
      simp only [List.map_cons, List.pairwise_cons, List.mem_cons]
      refine ⟨?_, h⟩
      rintro x (rfl | hx)
      · exact hn
      · exact Nat.lt_trans hn (h.1 x hx)
    · split
      · rename_i _ hn
        subst hn
        simpa using h
      · rename_i h1 h2
        simp only [List.map_cons, List.pairwise_cons]
        refine ⟨?_, ih h.2⟩
        intro x hx
        rcases Tab.mem_put t n v hx with rfl | hx
        · omega
        · exact h.1 x hx

theorem Tab.sorted_filter (t : Tab α) (p : Nat × α → Bool) (h : t.sorted = true) :
    Tab.sorted (t.filter p) = true := by
  rw [Tab.sorted_iff] at h ⊢
  exact (h.sublist ((List.filter_sublist (l := t) (p := p)).map Prod.fst))

theorem Tab.sorted_del (t : Tab α) (n : Nat) (h : t.sorted = true) : (t.del n).sorted = true :=
  Tab.sorted_filter t _ h

/-! ### Entries of the state's tables -/

section
variable (s : State)

@[simp] theorem State.core_setCore (c : Nat) (v : Core) : (s.setCore c v).core c = v := by simp [State.core]
theorem State.core_setCore_other {c d : Nat} (v : Core) (h : d ≠ c) : (s.setCore c v).core d = s.core d := by
  simp [State.core, Tab.get_put_other _ v _ h]
@[simp] theorem State.die_setDie (d : Nat) (v : Die) : (s.setDie d v).die d = v := by simp [State.die]
theorem State.die_setDie_other {c d : Nat} (v : Die) (h : d ≠ c) : (s.setDie c v).die d = s.die d := by
  simp [State.die, Tab.get_put_other _ v _ h]
@[simp] theorem State.memUnit_setMemUnit (m : Nat) (v : MemUnit) : (s.setMemUnit m v).memUnit m = v := by
  simp [State.memUnit]
theorem State.memUnit_setMemUnit_other {c d : Nat} (v : MemUnit) (h : d ≠ c) :
    (s.setMemUnit c v).memUnit d = s.memUnit d := by
  simp [State.memUnit, Tab.get_put_other _ v _ h]
@[simp] theorem State.link_setLink (l : Nat) (v : Link) : (s.setLink l v).link l = v := by simp [State.link]
theorem State.link_setLink_other {c d : Nat} (v : Link) (h : d ≠ c) : (s.setLink c v).link d = s.link d := by
  simp [State.link, Tab.get_put_other _ v _ h]
@[simp] theorem State.part_setPart (p : Nat) (v : Part) : (s.setPart p v).part p = v := by simp [State.part]
theorem State.part_setPart_other {c d : Nat} (v : Part) (h : d ≠ c) : (s.setPart c v).part d = s.part d := by
  simp [State.part, Tab.get_put_other _ v _ h]
@[simp] theorem State.regWord_setRegWord (a : Nat) (v : Word) : (s.setRegWord a v).regWord a = v := by
  simp [State.regWord]
theorem State.regWord_setRegWord_other {a b : Nat} (v : Word) (h : b ≠ a) :
    (s.setRegWord a v).regWord b = s.regWord b := by
  simp [State.regWord, Tab.get_put_other _ v _ h]

end

end Sys2Proof.Machine
end

