-- ==== Sys2Proof/Laws/Issue.lean ====
section
/-! SUPPORT. What an issue command does: an instruction that is found and runs is given to its row's own effect. -/

namespace Sys2Proof.Machine

@[simp] theorem need_true {s : State} {k : Res} : need s true k = k := rfl
@[simp] theorem need_false {s : State} {k : Res} : need s false k = .next s := rfl
@[simp] theorem needSome_some {α : Type} {s : State} {a : α} {k : α → Res} : needSome s (some a) k = k a := rfl
@[simp] theorem needSome_none {α : Type} {s : State} {k : α → Res} : needSome s none k = .next s := rfl
theorem needUnit_lt {w : String} {n b : Nat} {k : Res} (h : n < b) : needUnit w n b k = k := by simp [needUnit, h]
theorem need_of {s : State} {b : Bool} {k : Res} (h : b = true) : need s b k = k := by simp [h]

/-- What `issuing` finds, field by field. -/
theorem State.issuing_some {s : State} {i : Issue} {x : Iss} (h : s.issuing i = some x) :
    i.core < 1280 ∧ i.grp < 32 ∧ s.group i.core i.grp = some x.grp ∧ s.block i.core x.grp.bslot = some x.blk ∧
    (s.physOf i.core).isSome ∧ x.blk.st = .running ∧ x.blk.stopped = false ∧ x.blk.phase = .run ∧ x.blk.trig = none ∧
    x.grp.hold = .none ∧ i.core ∉ s.cinch.gated ∧ x.grp.guardDue = false ∧ x.grp.issuePc = some x.pc ∧
    x = { core := i.core, gslot := i.grp, bslot := x.grp.bslot, blk := x.blk, grp := x.grp, pc := x.pc,
          path := x.grp.pathAt x.pc, w0 := i.w0, w1 := i.w1,
          smmaEn := s.reg (.core i.core 2) 4 % 2 == 1, ecc := i.ecc } := by
  unfold State.issuing at h
  split at h
  · cases h
  · rename_i g hg
    split at h
    · rename_i b pc hb hpc
      split at h
      · rename_i hc
        cases h
        obtain ⟨h1, h2, h3, h4, h5, h6, h7, h8, h9, h10⟩ := hc
        exact ⟨h1, h2, hg, hb, h3, h4, h5, h6, h7, h8, h9, h10, hpc, rfl⟩
      · cases h
    · cases h

theorem State.issuing_core {s : State} {i : Issue} {x : Iss} (h : s.issuing i = some x) : x.core = i.core := by
  obtain ⟨_, _, _, _, _, _, _, _, _, _, _, _, _, hx⟩ := State.issuing_some h
  rw [hx]

theorem State.issuing_group {s : State} {i : Issue} {x : Iss} (h : s.issuing i = some x) :
    s.group x.core x.gslot = some x.grp := by
  obtain ⟨_, _, hg, _, _, _, _, _, _, _, _, _, _, hx⟩ := State.issuing_some h
  rw [hx]; exact hg

theorem State.issuing_block {s : State} {i : Issue} {x : Iss} (h : s.issuing i = some x) :
    s.block x.core x.bslot = some x.blk := by
  obtain ⟨_, _, _, hb, _, _, _, _, _, _, _, _, _, hx⟩ := State.issuing_some h
  rw [hx]; exact hb

theorem withIssue_of_issuing {s : State} {i : Issue} {x : Iss} (h : s.issuing i = some x) (k : Iss → Res) :
    withIssue i s k = k x := by
  obtain ⟨h1, h2, h3, h4, h5, h6, h7, h8, h9, h10, h11, h12, h13, hx⟩ := State.issuing_some h
  rw [hx] at *
  simp [withIssue, needUnit, h1, h2, h3, h4, h5, h6, h7, h8, h9, h10, h11, h12, h13]

/-! ### The fetch -/

theorem State.cores_count (s : State) (b : Blk) (o n : Nat) : (s.count b o n).cores = s.cores := by
  unfold State.count
  simp only
  split
  · rfl
  · split <;> rfl

theorem State.cores_decisionDue (s : State) (n : Nat) (p : Pending) : (s.decisionDue n p).cores = s.cores := by
  unfold State.decisionDue
  split <;> rfl

theorem State.cores_setLevel (s : State) (ch : Channel) (v : Nat) : (s.setLevel ch v).cores = s.cores := by
  cases ch <;> rfl

theorem State.cores_bump (s : State) (ch : Channel) : (s.bump ch).cores = s.cores := by
  unfold State.bump
  simp only
  split
  · rfl
  · split
    · exact State.cores_setLevel ..
    · cases ch <;> simp only [State.cores_decisionDue] <;> exact State.cores_setLevel s _ _

theorem State.cores_corrected (s : State) (m o : Nat) : (s.corrected m o).cores = s.cores := by
  unfold State.corrected
  simp only
  split <;> rw [State.cores_bump, State.cores_count] <;> rfl

theorem State.cores_retries (s : State) (m o n : Nat) : (s.retries m o n).cores = s.cores := by
  induction n generalizing s with
  | zero => rfl
  | succ n ih => rw [State.retries, ih, State.cores_bump, State.cores_count]

theorem State.cores_pooled (s : State) (m : Nat) : (s.pooled m).cores = s.cores := by
  unfold State.pooled
  simp only [State.cores_count]
  rfl

/-- A read of a line that is answered with its bytes leaves every core as it was. -/
theorem State.cores_poolRead (s : State) (m o : Nat) (e : Ecc) {d : Line} (h : (s.poolRead m o e).ans = some (d, false)) :
    (s.poolRead m o e).st.cores = s.cores := by
  have hr : (s.homeRead m o e).ans = some (d, false) := by
    unfold State.poolRead at h
    simp only at h
    split at h <;> exact h
  have hc : (s.homeRead m o e).st.cores = s.cores := by
    unfold State.homeRead at hr ⊢
    simp only at hr ⊢
    split
    · rfl
    · split
      · rename_i h1 h2; simp [h1, h2] at hr
      · cases e with
        | clean => rfl
        | corrected => exact State.cores_corrected ..
        | uncorrectable => rename_i h1 h2; simp [h1, h2] at hr
        | retried n =>
          simp only
          split <;> split <;> first | rfl | exact State.cores_retries ..
  unfold State.poolRead
  simp only [hr, Option.isSome_some, if_true, State.cores_pooled, hc]

@[simp] theorem Core.rcFill_groups (k : Core) (l : RcLine) : (k.rcFill l).groups = k.groups := by
  cases k; simp only [Core.rcFill]
@[simp] theorem Core.rcFill_blocks (k : Core) (l : RcLine) : (k.rcFill l).blocks = k.blocks := by
  cases k; simp only [Core.rcFill]

/-- Groups and blocks of a core are untouched. -/
def SameWork (c : Nat) (s t : State) : Prop :=
  (t.core c).groups = (s.core c).groups ∧ (t.core c).blocks = (s.core c).blocks

theorem SameWork.of_cores {c : Nat} {s t : State} (h : t.cores = s.cores) : SameWork c s t := by
  simp [SameWork, State.core, h]

theorem SameWork.trans {c : Nat} {s t u : State} (h : SameWork c s t) (k : SameWork c t u) : SameWork c s u :=
  ⟨k.1.trans h.1, k.2.trans h.2⟩

theorem Iss.fetchLine_work (x : Iss) (s : State) (l : DWord) (h : (x.fetchLine s l).2 = .done) :
    SameWork x.core s (x.fetchLine s l).1 := by
  unfold Iss.fetchLine at h ⊢
  split
  · exact SameWork.of_cores (State.cores_count ..)
  · rename_i hh
    simp only [hh] at h
    cases hm : s.home x.blk.part l with
    | none => exact SameWork.of_cores rfl
    | some e =>
      obtain ⟨m, o⟩ := e
      simp only [hm] at h ⊢
      split
      · rename_i hl; simp [hl] at h
      · rename_i hl
        cases hr : (s.poolRead m o x.ecc).ans with
        | none => simp [hl, hr] at h
        | some e =>
          obtain ⟨d, p⟩ := e
          cases p with
          | true => simp [hl, hr] at h
          | false =>
            have hc := State.cores_poolRead s m o x.ecc hr
            simp only
            split
            · refine SameWork.trans (SameWork.of_cores ((State.cores_count _ (.core x.core 7) 0x18 1).trans hc)) ?_
              simp only [SameWork, State.updCore_eq, State.core_setCore, Core.rcFill_groups, Core.rcFill_blocks, and_self]
            · exact SameWork.of_cores hc

theorem Iss.fetchAll_work (x : Iss) (ls : List DWord) (s : State) (h : (x.fetchAll s ls).2 = .done) :
    SameWork x.core s (x.fetchAll s ls).1 := by
  induction ls generalizing s with
  | nil => exact SameWork.of_cores rfl
  | cons l ls ih =>
    unfold Iss.fetchAll at h ⊢
    have hl := x.fetchLine_work s l
    generalize x.fetchLine s l = r at h hl ⊢
    obtain ⟨t, f⟩ := r
    cases f <;> simp_all
    exact SameWork.trans hl (ih t h)

/-- The instruction's group and block as a state holds them. -/
structure Iss.At (x : Iss) (s : State) : Prop where
  group : s.group x.core x.gslot = some x.grp
  block : s.block x.core x.bslot = some x.blk

/-- After the fetch the instruction's group and block are as they were found. -/
theorem State.issuing_at {s : State} {i : Issue} {x : Iss} (h : s.issuing i = some x) (hf : x.fetched s = true) :
    x.At (x.after s) := by
  simp only [Iss.fetched, Bool.and_eq_true, beq_iff_eq] at hf
  obtain ⟨hg, hb⟩ := x.fetchAll_work x.lines s hf.2
  have h1 := State.issuing_group h
  have h2 := State.issuing_block h
  simp only [State.group, State.block] at h1 h2
  constructor <;> simp only [State.group, State.block, Iss.after, Iss.fetch, hg, hb, h1, h2]

/-- An issue command whose instruction is found, is fetched and runs has its row's effect. -/
theorem issueRow_of_runs {s : State} {i : Issue} {x : Iss} {sh : Shape} (h : s.issuing i = some x)
    (hf : x.fetched s = true) (hr : x.runs sh (x.after s) = true) (body : Iss → State → Res) :
    issueRow sh i s body = body x (x.after s) := by
  unfold issueRow
  rw [withIssue_of_issuing h]
  simp only [Iss.fetched, Bool.and_eq_true, Option.isNone_iff_eq_none, beq_iff_eq] at hf
  have he : x.fetch s = (x.after s, .done) := Prod.ext rfl hf.2
  simp only [Iss.runs, Bool.and_eq_true, Option.isNone_iff_eq_none, Bool.not_eq_true', beq_iff_eq] at hr
  obtain ⟨⟨⟨⟨⟨⟨hc, ho⟩, hh⟩, hl⟩, hs⟩, hrg⟩, hw⟩ := hr
  simp [hf.1, he, hc, ho, hh, hl, hs, hrg, hw]

end Sys2Proof.Machine
end

