-- ==== Sys2Proof/Laws/Threads.lean ====
section
/-! SUPPORT. Threads of a group: a read after an update, the advance of a path, and the effects of a lane instruction. -/

namespace Sys2Proof.Machine

/-! ### One thread -/

theorem Thread.reg_setReg (t : Thread) (n m : Nat) (v : Word) :
    (t.setReg n v).reg m = if m = n then v else t.reg m := by
  simp [Thread.reg, Thread.setReg, Tab.get_put]

@[simp] theorem Thread.setReg_preds (t : Thread) (n : Nat) (v : Word) : (t.setReg n v).preds = t.preds := rfl
@[simp] theorem Thread.setReg_flags (t : Thread) (n : Nat) (v : Word) : (t.setReg n v).flags = t.flags := rfl
@[simp] theorem Thread.setReg_pc (t : Thread) (n : Nat) (v : Word) : (t.setReg n v).pc = t.pc := rfl
@[simp] theorem Thread.setReg_exited (t : Thread) (n : Nat) (v : Word) : (t.setReg n v).exited = t.exited := rfl
@[simp] theorem Thread.setReg_wait (t : Thread) (n : Nat) (v : Word) : (t.setReg n v).wait = t.wait := rfl

/-- Writes of registers one after the other: the last one to a register stands. -/
theorem Thread.setRegs_reg (l : List (Nat × Word)) (t : Thread) (r : Nat) :
    (l.foldl (fun t e => t.setReg e.1 e.2) t).reg r = (l.reverse.lookup r).getD (t.reg r) := by
  induction l using List.reverseRecOn generalizing t with
  | nil => simp
  | append_singleton l e ih =>
    obtain ⟨n, v⟩ := e
    simp only [List.foldl_append, List.foldl_cons, List.foldl_nil, Thread.reg_setReg, List.reverse_append,
      List.reverse_cons, List.reverse_nil, List.nil_append, List.singleton_append, List.lookup_cons]
    by_cases h : r = n
    · simp [h]
    · simp [h, beq_false_of_ne h, ih]

theorem Thread.setRegs_rest (l : List (Nat × Word)) (t : Thread) :
    (l.foldl (fun t e => t.setReg e.1 e.2) t) =
      { t with g := (l.foldl (fun t e => t.setReg e.1 e.2) t).g, wrote := (l.foldl (fun t e => t.setReg e.1 e.2) t).wrote } := by
  induction l using List.reverseRecOn with
  | nil => rfl
  | append_singleton l e ih =>
    simp only [List.foldl_append, List.foldl_cons, List.foldl_nil]
    conv_lhs => rw [ih]
    rw [ih]
    rfl

theorem Thread.apply_took (t : Thread) (e : TEff) : (t.apply e).took t e ∧ (t.apply e).pc = t.pc := by
  unfold Thread.apply Thread.took
  constructor
  · refine ⟨?_, ?_, ?_, ?_, ?_⟩
    · intro r
      rw [Thread.setRegs_reg]
      cases h : e.pred with
      | none => rfl
      | some p => simp only [Thread.setPred]; split <;> rfl
    all_goals
      rw [Thread.setRegs_rest]
      cases h : e.pred with
      | none => rfl
      | some p => simp only [Thread.setPred]; split <;> rfl
  · rw [Thread.setRegs_rest]
    cases h : e.pred with
    | none => rfl
    | some p => simp only [Thread.setPred]; split <;> rfl

theorem Thread.same_refl (t : Thread) : t.same t := ⟨fun _ => rfl, rfl, rfl, rfl, rfl⟩

/-! ### Threads of a group -/

theorem putThread_getD (l : List Thread) (n m : Nat) (v : Thread) :
    (putThread l n v).getD m (Thread.fresh 0) = if m = n then v else l.getD m (Thread.fresh 0) := by
  induction l generalizing n m with
  | nil =>
    induction n generalizing m with
    | zero => cases m <;> simp [putThread]
    | succ n ih =>
      cases m with
      | zero => simp [putThread]
      | succ m => simpa [putThread] using ih m
  | cons a l ih =>
    cases n with
    | zero => cases m <;> simp [putThread]
    | succ n =>
      cases m with
      | zero => simp [putThread]
      | succ m => simpa [putThread] using ih n m

theorem Group.thread_updThread (g : Group) (t u : Nat) (f : Thread → Thread) :
    (g.updThread t f).thread u = if u = t then f (g.thread t) else g.thread u := by
  unfold Group.updThread
  exact putThread_getD _ _ _ _

@[simp] theorem Group.updThread_s (g : Group) (t : Nat) (f : Thread → Thread) : (g.updThread t f).s = g.s := rfl
@[simp] theorem Group.updThread_hold (g : Group) (t : Nat) (f : Thread → Thread) : (g.updThread t f).hold = g.hold := rfl
@[simp] theorem Group.updThread_bslot (g : Group) (t : Nat) (f : Thread → Thread) : (g.updThread t f).bslot = g.bslot := rfl
@[simp] theorem Group.updThread_gidx (g : Group) (t : Nat) (f : Thread → Thread) : (g.updThread t f).gidx = g.gidx := rfl
@[simp] theorem Group.updThread_gWait (g : Group) (t : Nat) (f : Thread → Thread) : (g.updThread t f).gWait = g.gWait := rfl
@[simp] theorem Group.updThread_sWait (g : Group) (t : Nat) (f : Thread → Thread) : (g.updThread t f).sWait = g.sWait := rfl

theorem Group.updThread_rest (a g : Group) (h : a = { g with threads := a.threads }) (t : Nat) (f : Thread → Thread) :
    a.updThread t f = { g with threads := (a.updThread t f).threads } := by
  cases a; cases g
  simp_all [Group.updThread]

/-- What a fold of thread updates leaves alone, and what it does to each thread. -/
theorem Group.foldl_updThread (ts : List Nat) (hn : ts.Nodup) (f : Nat → Thread → Thread) (g : Group) :
    (∀ u, (ts.foldl (fun k t => k.updThread t (f t)) g).thread u = if u ∈ ts then f u (g.thread u) else g.thread u) ∧
    ts.foldl (fun k t => k.updThread t (f t)) g =
      { g with threads := (ts.foldl (fun k t => k.updThread t (f t)) g).threads } := by
  induction ts using List.reverseRecOn with
  | nil => simp
  | append_singleton ts t ih =>
    have hn' := List.nodup_append.1 hn
    obtain ⟨ih1, ih2⟩ := ih hn'.1
    have ht : t ∉ ts := fun h => (hn'.2.2 t h t (by simp)) rfl
    simp only [List.foldl_append, List.foldl_cons, List.foldl_nil]
    constructor
    · intro u
      rw [Group.thread_updThread, ih1 t, ih1 u]
      by_cases hu : u = t
      · subst hu; simp [ht]
      · simp [hu]
    · exact Group.updThread_rest _ g ih2 t _

/-- Setting the address of a path's threads. -/
theorem Group.foldl_setPc (ts : List Nat) (g : Group) (pc : Nat → DWord) :
    (∀ u, (ts.foldl (fun k t => k.updThread t fun th => { th with pc := pc t }) g).thread u =
      if u ∈ ts then { g.thread u with pc := pc u } else g.thread u) ∧
    ts.foldl (fun k t => k.updThread t fun th => { th with pc := pc t }) g =
      { g with threads := (ts.foldl (fun k t => k.updThread t fun th => { th with pc := pc t }) g).threads } := by
  induction ts using List.reverseRecOn with
  | nil => simp
  | append_singleton ts t ih =>
    obtain ⟨ih1, ih2⟩ := ih
    simp only [List.foldl_append, List.foldl_cons, List.foldl_nil]
    constructor
    · intro u
      rw [Group.thread_updThread, ih1 t, ih1 u]
      by_cases hu : u = t
      · subst hu; by_cases h : u ∈ ts <;> simp [h]
      · simp [hu]
    · exact Group.updThread_rest _ g ih2 t _

theorem Group.alive_nodup (g : Group) : g.alive.Nodup := List.Nodup.filter _ List.nodup_range
theorem Group.pathAt_nodup (g : Group) (pc : DWord) : (g.pathAt pc).Nodup := List.Nodup.filter _ g.alive_nodup

theorem State.issuing_path_nodup {s : State} {i : Issue} {x : Iss} (h : s.issuing i = some x) : x.path.Nodup := by
  obtain ⟨_, _, _, _, _, _, _, _, _, _, _, _, _, hx⟩ := State.issuing_some h
  rw [hx]; exact Group.pathAt_nodup _ _

theorem State.issuing_acting_nodup {s : State} {i : Issue} {x : Iss} (h : s.issuing i = some x) : x.acting.Nodup :=
  List.Nodup.filter _ (State.issuing_path_nodup h)

/-- After the advance the path's threads are at the next instruction and nothing else of a thread has changed. -/
theorem Iss.advanceTo_thread (x : Iss) (g : Group) (n : DWord) (u : Nat) :
    (x.advanceTo g n).thread u = if u ∈ x.path then { g.thread u with pc := n } else g.thread u :=
  (Group.foldl_setPc x.path g fun _ => n).1 u

theorem Iss.advanceTo_rest (x : Iss) (g : Group) (n : DWord) :
    (x.advanceTo g n).s = g.s ∧ (x.advanceTo g n).hold = g.hold ∧ (x.advanceTo g n).bslot = g.bslot ∧
    (x.advanceTo g n).gidx = g.gidx ∧ (x.advanceTo g n).gWait = g.gWait ∧ (x.advanceTo g n).sWait = g.sWait := by
  have h := (Group.foldl_setPc x.path g fun _ => n).2
  unfold Iss.advanceTo Group.account
  refine ⟨?_, ?_, ?_, ?_, ?_, ?_⟩ <;> (show _ = _; rw [h])

theorem Group.apply_thread (g : Group) (ts : List Nat) (hn : ts.Nodup) (eff : Nat → TEff) (u : Nat) :
    (g.apply (ts.map fun t => (t, eff t))).thread u =
      if u ∈ ts then (g.thread u).apply (eff u) else g.thread u := by
  unfold Group.apply
  rw [List.foldl_map]
  exact (Group.foldl_updThread ts hn (fun t th => th.apply (eff t)) g).1 u

theorem Group.apply_rest (g : Group) (ts : List Nat) (hn : ts.Nodup) (eff : Nat → TEff) :
    g.apply (ts.map fun t => (t, eff t)) = { g with threads := (g.apply (ts.map fun t => (t, eff t))).threads } := by
  unfold Group.apply
  rw [List.foldl_map]
  exact (Group.foldl_updThread ts hn (fun t th => th.apply (eff t)) g).2

end Sys2Proof.Machine
end

