-- ==== Sys2Proof/Laws/Frame.lean ====
section
/-! SUPPORT. Frames compose, and each small operation of an instruction stays within its frame. -/

namespace Sys2Proof.Machine

variable {x : Iss} {subs : List Nat} {s t u : State}

theorem State.recordsAdded_refl (s : State) : s.recordsAdded s := ⟨List.prefix_refl _, rfl⟩

theorem State.recordsAdded.trans (h : s.recordsAdded t) (k : t.recordsAdded u) : s.recordsAdded u := by
  refine ⟨h.1.trans k.1, ?_⟩
  rw [k.2, h.2]

theorem OnlyCore.refl (c : Nat) (subs : List Nat) (s : State) : OnlyCore c subs s s :=
  ⟨rfl, fun _ _ => rfl, fun _ _ => rfl, s.recordsAdded_refl⟩

theorem OnlyCore.trans {c : Nat} (h : OnlyCore c subs s t) (k : OnlyCore c subs t u) : OnlyCore c subs s u := by
  refine ⟨?_, fun d hd => ?_, fun a ha => ?_, h.log.trans k.log⟩
  · rw [k.rest, h.rest]
  · rw [k.cores d hd, h.cores d hd]
  · rw [k.regs a ha, h.regs a ha]

theorem OnlyGroup.refl (x : Iss) (subs : List Nat) (s : State) : OnlyGroup x subs s s :=
  ⟨OnlyCore.refl _ _ _, fun _ _ => rfl, fun _ _ => rfl, rfl⟩

theorem OnlyGroup.trans (h : OnlyGroup x subs s t) (k : OnlyGroup x subs t u) : OnlyGroup x subs s u := by
  refine ⟨h.core.trans k.core, fun g hg => ?_, fun b hb => ?_, ?_⟩
  · rw [k.groups g hg, h.groups g hg]
  · rw [k.blocks b hb, h.blocks b hb]
  · rw [k.rest, h.rest]

/-! ### Registers and records -/

theorem State.core_setRegWord (a : Nat) (v : Word) (c : Nat) : (s.setRegWord a v).core c = s.core c := rfl

theorem OnlyCore.setRegWord {c : Nat} {a : Nat} (h : inSubs c subs a = true) (v : Word) :
    OnlyCore c subs s (s.setRegWord a v) := by
  refine ⟨rfl, fun _ _ => rfl, fun b hb => ?_, s.recordsAdded_refl⟩
  refine State.regWord_setRegWord_other s v ?_
  rintro rfl
  simp [h] at hb

theorem OnlyCore.record {c : Nat} (un code sev p : Nat) (fs : List (Nat × Nat)) :
    OnlyCore c subs s (s.record un code sev p fs) :=
  ⟨rfl, fun _ _ => rfl, fun _ _ => rfl, ⟨List.prefix_append _ _, rfl⟩⟩

theorem OnlyGroup.ofCore (h : OnlyCore x.core subs s t) (hc : t.core x.core = s.core x.core) :
    OnlyGroup x subs s t := by
  refine ⟨h, fun g _ => ?_, fun b _ => ?_, ?_⟩
  · simp [State.group, hc]
  · simp [State.block, hc]
  · rw [hc]

theorem inSubs_of {c sub : Nat} {subs : List Nat} {o : Nat} (hs : sub ∈ subs) (ho : o < 0x100) :
    inSubs c subs ((Blk.core c sub).base + o) = true := by
  simp only [inSubs, List.any_eq_true, Bool.and_eq_true, decide_eq_true_eq]
  exact ⟨sub, hs, by omega, by omega⟩

theorem OnlyCore.setReg {c sub o : Nat} (hs : sub ∈ subs) (ho : o < 0x100) (v : Nat) :
    OnlyCore c subs s (s.setReg (.core c sub) o v) := OnlyCore.setRegWord (inSubs_of hs ho) _

theorem OnlyCore.setReg64 {c sub o : Nat} (hs : sub ∈ subs) (ho : o + 4 < 0x100) (v : Nat) :
    OnlyCore c subs s (s.setReg64 (.core c sub) o v) :=
  (OnlyCore.setReg hs (by omega) _).trans (OnlyCore.setReg hs ho _)

theorem State.core_setReg64 (b : Blk) (o v c : Nat) : (s.setReg64 b o v).core c = s.core c := rfl

theorem OnlyCore.count {c sub o : Nat} (hs : sub ∈ subs) (ho : o + 4 < 0x100) (n : Nat) :
    OnlyCore c subs s (s.count (.core c sub) o n) := by
  unfold State.count
  simp only
  split
  · exact OnlyCore.refl _ _ _
  · split
    · exact OnlyCore.setReg64 hs ho _
    · exact (OnlyCore.setReg64 hs ho _).trans (OnlyCore.record ..)

theorem State.core_count (b : Blk) (o n c : Nat) : (s.count b o n).core c = s.core c := by
  unfold State.count
  simp only
  split
  · rfl
  · split <;> rfl

theorem OnlyGroup.count {sub o : Nat} (hs : sub ∈ subs) (ho : o + 4 < 0x100) (n : Nat) :
    OnlyGroup x subs s (s.count (.core x.core sub) o n) :=
  OnlyGroup.ofCore (OnlyCore.count hs ho n) (State.core_count ..)

theorem OnlyGroup.orReg {sub o : Nat} (hs : sub ∈ subs) (ho : o < 0x100) (v : Nat) :
    OnlyGroup x subs s (s.orReg (.core x.core sub) o v) :=
  OnlyGroup.ofCore (OnlyCore.setReg hs ho _) rfl

/-! ### Groups and blocks -/

theorem OnlyCore.setCore (c : Nat) (v : Core) : OnlyCore c subs s (s.setCore c v) :=
  ⟨rfl, fun _ hk => State.core_setCore_other s v hk, fun _ _ => rfl, s.recordsAdded_refl⟩

theorem State.group_setGroup (c g k : Nat) (v : Group) :
    (s.setGroup c g v).group c k = if k = g then some v else s.group c k := by
  simp [State.group, Tab.find_put]

theorem State.block_setGroup (c g b : Nat) (v : Group) : (s.setGroup c g v).block c b = s.block c b := by
  simp [State.block]

theorem State.block_updBlock (c b k : Nat) (f : Block → Block) :
    (s.updBlock c b f).block c k = if k = b then (s.block c k).map f else s.block c k := by
  simp [State.block, Tab.find_modify]

theorem State.group_updBlock (c b g : Nat) (f : Block → Block) : (s.updBlock c b f).group c g = s.group c g := by
  simp [State.group]

theorem OnlyGroup.setGroup (v : Group) : OnlyGroup x subs s (s.setGroup x.core x.gslot v) := by
  refine ⟨OnlyCore.setCore _ _, fun g hg => ?_, fun b _ => State.block_setGroup .., ?_⟩
  · simp [State.group_setGroup, hg, -State.setGroup_eq]
  · simp

theorem OnlyGroup.updBlock (f : Block → Block) : OnlyGroup x subs s (s.updBlock x.core x.bslot f) := by
  refine ⟨OnlyCore.setCore _ _, fun g _ => State.group_updBlock .., fun b hb => ?_, ?_⟩
  · simp [State.block_updBlock, hb, -State.updBlock_eq]
  · simp

theorem OnlyGroup.landReports {b : Nat} (hb : b = x.bslot) (h5 : 5 ∈ subs) (es : List (Nat × TEff)) :
    OnlyGroup x subs s (s.landReports x.core b es) := by
  subst hb
  unfold State.landReports
  simp only
  have h1 : OnlyGroup x subs s
      (if reportBits es = 0 then s else s.orReg (.core x.core 5) 0 (reportBits es)) := by
    split
    · exact OnlyGroup.refl _ _ _
    · exact OnlyGroup.orReg h5 (by decide) _
  split
  · exact (h1.trans (OnlyGroup.updBlock _)).trans (OnlyGroup.count h5 (by decide) _)
  · exact h1

end Sys2Proof.Machine
end

