-- ==== Sys2Proof/Laws/Lane.lean ====
section
/-! SUPPORT. What every lane and scalar instruction does once it runs. -/

namespace Sys2Proof.Machine

variable {x : Iss} {s : State} {i : Issue}

/-! ### Registers beside counters -/

theorem State.regWord_count (b : Blk) (o n a : Nat) (h : a ≠ b.base + o) (h' : a ≠ b.base + (o + 4)) :
    (s.count b o n).regWord a = s.regWord a := by
  unfold State.count
  simp only
  split
  · rfl
  · split
    · show ((s.setReg b o _).setReg b (o + 4) _).regWord a = _
      rw [State.setReg, State.regWord_setRegWord_other _ _ h', State.setReg, State.regWord_setRegWord_other _ _ h]
    · show ((s.setReg b o _).setReg b (o + 4) _).regWord a = _
      rw [State.setReg, State.regWord_setRegWord_other _ _ h', State.setReg, State.regWord_setRegWord_other _ _ h]

theorem State.reg_count_core (c sub o n c' sub' o' : Nat) (h : (Blk.core c' sub').base + o' ≠ (Blk.core c sub).base + o)
    (h' : (Blk.core c' sub').base + o' ≠ (Blk.core c sub).base + (o + 4)) :
    (s.count (.core c sub) o n).reg (.core c' sub') o' = s.reg (.core c' sub') o' := by
  unfold State.reg
  rw [State.regWord_count _ _ _ _ h h']

theorem State.reg_lt (b : Blk) (o : Nat) : s.reg b o < 2 ^ 32 := (s.regWord (b.base + o)).isLt

theorem State.reg_orReg (b : Blk) (o v : Nat) (hv : v < 2 ^ 32) : (s.orReg b o v).reg b o = s.reg b o ||| v := by
  unfold State.orReg State.setReg
  have h : s.reg b o ||| v < 2 ^ 32 := Nat.or_lt_two_pow (State.reg_lt b o) hv
  show ((s.setRegWord (b.base + o) _).regWord (b.base + o)).toNat = _
  rw [State.regWord_setRegWord, BitVec.toNat_ofNat, Nat.mod_eq_of_lt h]

theorem reportBits_lt (es : List (Nat × TEff)) : reportBits es < 2 ^ 32 := by
  unfold reportBits
  suffices h : ∀ (l : List (Nat × TEff)) (a : Nat), a < 2 ^ 32 →
      l.foldl (fun a e => a ||| (e.2.report % 2 ^ 11) ||| (if e.2.lnf then fLNF else 0)) a < 2 ^ 32 from
    h es 0 (by decide)
  intro l
  induction l with
  | nil => intro a ha; exact ha
  | cons e l ih =>
    intro a ha
    refine ih _ (Nat.or_lt_two_pow (Nat.or_lt_two_pow ha ?_) ?_)
    · exact Nat.lt_of_lt_of_le (Nat.mod_lt _ (by decide)) (by decide)
    · split <;> decide

/-! ### Landing reports -/

theorem State.reg_landReports (c b : Nat) (es : List (Nat × TEff)) :
    (s.landReports c b es).reg (.core c 5) 0 = s.reg (.core c 5) 0 ||| reportBits es := by
  have h1 : (if reportBits es = 0 then s else s.orReg (.core c 5) 0 (reportBits es)).reg (.core c 5) 0 =
      s.reg (.core c 5) 0 ||| reportBits es := by
    split
    · rename_i h; simp [h]
    · exact State.reg_orReg _ _ _ (reportBits_lt es)
  unfold State.landReports
  simp only
  split
  · rw [State.reg_count_core _ _ _ _ _ _ _ (by omega) (by omega)]
    exact h1
  · exact h1

theorem State.group_landReports (c b g : Nat) (es : List (Nat × TEff)) :
    (s.landReports c b es).group c g = s.group c g := by
  unfold State.landReports
  simp only
  split
  · unfold State.group
    rw [State.core_count]
    show ((State.updBlock _ c b _).core c).groups.find g = _
    split <;> simp [State.orReg, State.setReg, State.core_setRegWord]
  · split <;> rfl

theorem State.block_landReports (c b : Nat) (es : List (Nat × TEff)) {k : Block} (hk : s.block c b = some k) :
    (s.landReports c b es).block c b = some { k with lnf := k.lnf || anyLnf es } := by
  have h1 : (if reportBits es = 0 then s else s.orReg (.core c 5) 0 (reportBits es)).block c b = some k := by
    split <;> exact hk
  unfold State.landReports
  simp only
  split
  · rename_i h
    unfold State.block
    rw [State.core_count]
    show (State.updBlock _ c b _).block c b = _
    rw [State.block_updBlock, h1]
    simp [h]
  · rename_i h
    rw [h1]
    simp [h]

/-! ### A lane instruction that runs -/

/-- The state before the group advances: counters and reports have landed. -/
theorem Iss.runLane_core (wide : Bool) (es : List (Nat × TEff)) :
    ∃ t, x.runLane s wide es = x.commit (t.landReports x.core x.bslot es) (x.grp.apply es) ∧
      t.cores = s.cores ∧ OnlyGroup x [5, 6] s t ∧ t.reg (.core x.core 5) 0 = s.reg (.core x.core 5) 0 := by
  refine ⟨_, rfl, ?_, ?_, ?_⟩
  · split <;> split <;> simp [State.cores_count]
  · have h0 : OnlyGroup x [5, 6] s (s.count (.core x.core 5) 0x10 1) := OnlyGroup.count (by decide) (by decide) _
    have h1 : OnlyGroup x [5, 6] s (if wide = true then (s.count (.core x.core 5) 0x10 1).count (.core x.core 5) 0x18 1
        else s.count (.core x.core 5) 0x10 1) := by
      split
      · exact h0.trans (OnlyGroup.count (by decide) (by decide) _)
      · exact h0
    split
    · exact h1.trans (OnlyGroup.count (by decide) (by decide) _)
    · exact h1
  · have hb : ∀ (sub o : Nat) (hs : sub = 5 ∨ sub = 6) (ho : 0 < o ∧ o < 0x80) (q : State),
        (q.count (.core x.core sub) o 1).reg (.core x.core 5) 0 = q.reg (.core x.core 5) 0 := by
      intro sub o hs ho q
      refine State.reg_count_core _ _ _ _ _ _ _ ?_ ?_ <;> simp only [Blk.base] <;> omega
    split <;> split <;> simp [hb]

theorem Iss.runLane_done (h : x.At s) (wide : Bool) (who : List Nat) (hn : who.Nodup) (eff : Nat → TEff) :
    LaneDoneBy x [5, 6] who eff s (x.runLane s wide (who.map fun t => (t, eff t))) := by
  obtain ⟨t, ht, hc, hf, hr⟩ := Iss.runLane_core (x := x) (s := s) wide (who.map fun t => (t, eff t))
  rw [ht]
  have hblk : t.block x.core x.bslot = some x.blk := by
    have := h.block
    simpa [State.block, State.core, hc] using this
  refine ⟨⟨x.advance (x.grp.apply (who.map fun t => (t, eff t))), ?_, ?_, ?_, ?_, ?_, ?_⟩, ?_, ?_, ?_⟩
  · unfold Iss.commit
    rw [State.group_setGroup, if_pos rfl]
  · intro th
    unfold Iss.advance
    rw [Iss.advanceTo_thread, Group.apply_thread _ _ hn]
    split
    · rfl
    · split
      · exact (Thread.apply_took _ _).2
      · rfl
  · intro r
    have := (Iss.advanceTo_rest x (x.grp.apply (who.map fun t => (t, eff t))) x.next).1
    unfold Iss.advance Group.sreg
    rw [this, Group.apply_rest _ _ hn]
  · unfold Iss.advance
    rw [(Iss.advanceTo_rest x _ x.next).2.1, Group.apply_rest _ _ hn]
  · intro th ha
    unfold Iss.advance
    rw [Iss.advanceTo_thread, Group.apply_thread _ _ hn, if_pos ha]
    split <;> exact (Thread.apply_took _ _).1
  · intro th ha
    unfold Iss.advance
    rw [Iss.advanceTo_thread, Group.apply_thread _ _ hn, if_neg ha]
    split <;> exact ⟨fun _ => rfl, rfl, rfl, rfl, rfl⟩
  · unfold Iss.commit
    rw [State.block_setGroup, State.block_landReports _ _ _ hblk]
    simp [anyLnf, List.any_map, Function.comp_def]
  · show ((t.landReports x.core x.bslot _).reg (.core x.core 5) 0) = _
    rw [State.reg_landReports, hr]
  · exact (hf.trans (OnlyGroup.landReports rfl (by decide) _)).trans (OnlyGroup.setGroup _)

/-- A lane row whose threads act one by one, when its instruction runs. -/
theorem laneRow_done {h : LaneSh} (hi : s.issuing i = some x) (hf : x.fetched s = true)
    (hr : x.runs h.shape (x.after s) = true) (eff : Iss → Nat → TEff) :
    ∃ t, laneRow h i s eff = .next t ∧ LaneDone x [5, 6] (eff x) (x.after s) t :=
  ⟨_, issueRow_of_runs hi hf hr _, Iss.runLane_done (State.issuing_at hi hf) _ _ (State.issuing_acting_nodup hi) _⟩

end Sys2Proof.Machine
end

