-- ==== Sys2Proof/Laws/Memory.lean ====
section
/-! SUPPORT. Memory: a read after a write, and that every operation that writes bytes keeps the canonical form of a memory,
of a scratchpad and of the register words. -/

namespace Sys2Proof.Machine

variable {s : State}

/-! ### Read after write -/

theorem State.memKey_setMemByte (m o n p : Nat) (v : Byte) : (s.setMemByte m o v).memKey n p = s.memKey n p := rfl

theorem State.memByte_setMemByte_same (m o : Nat) (v : Byte) : (s.setMemByte m o v).memByte m o = v := by
  simp only [State.memByte, State.memKey_setMemByte]
  simp only [State.setMemByte, Tab.find_put_same, Option.getD_some]

theorem State.memByte_setMemByte_other (m o n p : Nat) (v : Byte) (h : s.memKey n p ≠ s.memKey m o) :
    (s.setMemByte m o v).memByte n p = s.memByte n p := by
  simp only [State.memByte, State.memKey_setMemByte]
  simp only [State.setMemByte, Tab.find_put_other _ _ h]
  rfl

theorem spadByte_spadPut_same (l : List Host.Cell) (o : Nat) (v : Byte) : spadByte (spadPut l o v) o = v := by
  unfold spadByte spadPut
  split
  · rename_i h
    simp [Tab.find_del_same, h]
  · simp

theorem spadByte_spadPut_other (l : List Host.Cell) (o n : Nat) (v : Byte) (h : n ≠ o) :
    spadByte (spadPut l o v) n = spadByte l n := by
  unfold spadByte spadPut
  split
  · rw [Tab.find_del_other _ h]
  · rw [Tab.find_put_other _ _ h]

/-! ### Scratchpads keep their form -/

theorem Tab.mem_put_value {α : Type} (t : Tab α) (n : Nat) (v : α) {e : Nat × α} (h : e ∈ t.put n v) :
    e = (n, v) ∨ e ∈ t := by
  induction t with
  | nil => simpa [Tab.put] using h
  | cons a t ih =>
    obtain ⟨k, w⟩ := a
    simp only [Tab.put] at h
    split at h
    · rcases List.mem_cons.mp h with h | h
      · exact .inl h
      · exact .inr h
    · split at h
      · rcases List.mem_cons.mp h with h | h
        · exact .inl h
        · exact .inr (List.mem_cons_of_mem _ h)
      · rcases List.mem_cons.mp h with h | h
        · exact .inr (h ▸ List.mem_cons_self)
        · exact (ih h).imp id (List.mem_cons_of_mem _)

theorem Spad.wf_nil : Spad.wf [] = true := rfl

theorem Spad.wf_spadPut (l : List Host.Cell) (o : Nat) (v : Byte) (h : Spad.wf l = true) : Spad.wf (spadPut l o v) = true := by
  simp only [Spad.wf, Bool.and_eq_true, List.all_eq_true, bne_iff_ne] at h ⊢
  unfold spadPut
  split
  · exact ⟨Tab.sorted_del _ _ h.1, fun e m => h.2 e (List.mem_filter.mp m).1⟩
  · rename_i hv
    refine ⟨Tab.sorted_put _ _ _ h.1, fun e m => ?_⟩
    rcases Tab.mem_put_value _ _ _ m with rfl | m
    · exact hv
    · exact h.2 e m

theorem Spad.wf_spadWrite (l : List Host.Cell) (o : Nat) (vs : List Byte) (h : Spad.wf l = true) :
    Spad.wf (spadWrite l o vs) = true := by
  induction vs generalizing l o with
  | nil => exact h
  | cons v vs ih => exact ih _ _ (Spad.wf_spadPut _ _ _ h)

/-! ### Memory and register words keep their form -/

/-- A state with the same memory and register words keeps the invariant. -/
theorem State.Inv.of_eq {t : State} (h : s.Inv) (hm : t.mem = s.mem) (hr : t.regs = s.regs) : t.Inv := by
  unfold State.Inv at *
  rw [hm, hr]
  exact h

theorem State.Inv.setRegWord (h : s.Inv) (a : Nat) (v : Word) : (s.setRegWord a v).Inv := ⟨h.1, Tab.sorted_put _ _ _ h.2⟩

theorem State.Inv.setReg (h : s.Inv) (b : Blk) (o v : Nat) : (s.setReg b o v).Inv := h.setRegWord _ _

theorem State.Inv.setReg64 (h : s.Inv) (b : Blk) (o v : Nat) : (s.setReg64 b o v).Inv := (h.setReg _ _ _).setReg _ _ _

theorem State.Inv.record (h : s.Inv) (u code sev p : Nat) (fs : List (Nat × Nat)) : (s.record u code sev p fs).Inv :=
  h.of_eq rfl rfl

theorem State.Inv.count (h : s.Inv) (b : Blk) (o n : Nat) : (s.count b o n).Inv := by
  unfold State.count
  dsimp only
  split
  · exact h
  · split
    · exact h.setReg64 _ _ _
    · exact (h.setReg64 _ _ _).record _ _ _ _ _

theorem State.Inv.updMemUnit (h : s.Inv) (m : Nat) (f : MemUnit → MemUnit) : (s.updMemUnit m f).Inv := h.of_eq rfl rfl

theorem State.Inv.setMemByte (h : s.Inv) (m o : Nat) (v : Byte) : (s.setMemByte m o v).Inv := ⟨Tab.sorted_put _ _ _ h.1, h.2⟩

/-- A fold of steps that keep the invariant keeps it. -/
theorem State.Inv.foldl {α : Type} {f : State → α → State} (hf : ∀ t a, t.Inv → (f t a).Inv) (l : List α) :
    ∀ s : State, s.Inv → (l.foldl f s).Inv := by
  induction l with
  | nil => exact fun _ h => h
  | cons a l ih => exact fun s h => ih _ (hf s a h)

theorem State.Inv.setMemLine (h : s.Inv) (m o : Nat) (d : Line) (k : DWord) : (s.setMemLine m o d k).Inv :=
  State.Inv.foldl (fun _ _ ht => ht.setMemByte _ _ _) _ _ h

theorem State.Inv.setPartBytes (p a : Nat) (vs : List Byte) : ∀ s : State, s.Inv → (s.setPartBytes p a vs).Inv := by
  induction vs generalizing a with
  | nil => exact fun _ h => h
  | cons v vs ih =>
    intro s h
    unfold State.setPartBytes
    refine ih _ _ ?_
    split
    · exact h.setMemByte _ _ _
    · exact h

theorem State.Inv.dropWrite (h : s.Inv) (m o : Nat) : (s.dropWrite m o).Inv := by
  unfold State.dropWrite
  dsimp only
  split
  · exact h
  · refine State.Inv.record ?_ _ _ _ _ _
    split
    · exact h.updMemUnit _ _
    · exact h

theorem State.Inv.lineUpdate (h : s.Inv) (m o : Nat) (d : Line) (k : DWord) : (s.lineUpdate m o d k).Inv := by
  unfold State.lineUpdate
  dsimp only
  split
  · exact h.dropWrite _ _
  · split
    · exact h.setMemLine _ _ _ _
    · split
      · exact (h.updMemUnit _ _).setMemLine _ _ _ _
      · exact h.dropWrite _ _

theorem State.Inv.homeAtomic (h : s.Inv) (m o aop size : Nat) (op cmp : DWord) (l : Line) :
    (s.homeAtomic m o aop size op cmp l).2.Inv := (h.lineUpdate _ _ _ _).count _ _ _

theorem State.Inv.pooled (h : s.Inv) (m : Nat) : (s.pooled m).Inv := by
  have h0 : s.drawWord.2.Inv := ⟨h.1, h.2⟩
  exact (h0.count _ _ _).count _ _ _

theorem State.Inv.hubLine (h : s.Inv) (p : Nat) (a : DWord) (d : Line) (k : DWord) : (s.hubLine p a d k).Inv := by
  unfold State.hubLine
  split
  · exact h
  · split
    · exact (h.lineUpdate _ _ _ _).pooled _
    · exact h

theorem State.Inv.hubStore (h : s.Inv) (p : Nat) (a : DWord) (v : List Byte) : (s.hubStore p a v).Inv :=
  State.Inv.foldl (fun _ _ ht => ht.hubLine _ _ _ _) _ _ h

theorem State.Inv.forget (h : s.Inv) (d : Nat) : (s.forget d).Inv := ⟨Tab.sorted_filter _ _ h.1, h.2⟩

theorem State.Inv.resetPartRegs (h : s.Inv) (p : Nat) : (s.resetPartRegs p).Inv := ⟨h.1, Tab.sorted_filter _ _ h.2⟩

/-- The copy of a remapped page: bytes put at the spare page, those of the old page dropped (R268). -/
theorem Memory.wf_puts (f : Nat → Nat) (g : Nat → Byte) (l : List Nat) (m : List Host.Cell) (h : Memory.wf m = true) :
    Memory.wf (l.foldl (fun m i => Tab.put (α := Byte) m (f i) (g i)) m) = true := by
  induction l generalizing m with
  | nil => exact h
  | cons a l ih => exact ih _ (Tab.sorted_put _ _ _ h)

theorem Memory.wf_filter (m : List Host.Cell) (p : Host.Cell → Bool) (h : Memory.wf m = true) : Memory.wf (m.filter p) = true :=
  Tab.sorted_filter _ _ h

theorem State.Inv.cold (f : Flash) (q : List Instr) (o : List Out) (n : Nat) : (State.cold f q o n).Inv := ⟨rfl, rfl⟩

end Sys2Proof.Machine
end

