-- ==== Sys2Proof/Laws/PerInstr.lean ====
section
/-! SUPPORT. The per-command family `Bounded`: every unit that a well-formed command names is one of the package's. -/

namespace Sys2Proof

/-! ### The units that operands name, each with its bound -/

def Issue.units (i : Issue) : List (Nat × Nat) := [(i.core, 1280), (i.grp, 32)]

def Path.units : Path → List (Nat × Nat)
  | .session _ => []
  | .priv c => [(c, 1280)]

def ReqSrc.units : ReqSrc → List (Nat × Nat)
  | .ni c _ => [(c, 1280)]
  | .inbox _ => []

def ApplyLine.units (l : ApplyLine) : List (Nat × Nat) := [(l.core, 1280), (l.slot, 16)]

def WriteSrc.units : WriteSrc → List (Nat × Nat)
  | .apply l => l.units
  | .inbox _ => []

def WdKey.units : WdKey → List (Nat × Nat)
  | .barG g id => [(g, 32), (id, 16)]
  | .barB b id => [(b, 16), (id, 16)]
  | .wbeat g _ _ => [(g, 32)]

def Channel.units : Channel → List (Nat × Nat)
  | .lane l k => [(l, 64), (k, 4)]
  | .pseudo m p => [(m, 16), (p, 32)]
  | .lpx m c => [(m, 8), (c, 8)]
  | .phys d i => [(d, 8), (i, 168)]
  | .reservation p d => [(p, 8), (d, 8)]

def Scope.units : Scope → List (Nat × Nat)
  | .package => []
  | .partition p => [(p, 8)]

def KatUnit.units : KatUnit → List (Nat × Nat)
  | .core d p => [(d, 8), (p, 168)]
  | .way d w => [(d, 8), (w, 32)]
  | .die d => [(d, 8)]
  | .hub h b => [(h, 2), (b, 32)]
  | .done => []

def BoundaryIn.units (b : BoundaryIn) : List (Nat × Nat) :=
  b.coreEst.map (fun e => (e.1, 8)) ++ b.cmdtLate.map fun p => (p, 8)

def RoundIn.units (r : RoundIn) : List (Nat × Nat) :=
  r.stackTemp.map (fun e => (e.1, 16)) ++ r.lpxTemp.map (fun e => (e.1, 8)) ++ r.cages.map (fun e => (e.1, 69)) ++
    r.busFail.map (fun e => (e.1, 2)) ++ r.cantleFail.map (fun e => (e.1, 2)) ++ r.cantleFail.map (fun e => (e.2, 4)) ++
    r.hubFail.map fun h => (h, 2)

/-- Units of a start phase's time-out (R388). -/
def phaseUnits (phase unit : Nat) : List (Nat × Nat) :=
  match phase with
  | 0 | 1 | 2 => [(unit, 2)]
  | 5 => [(unit, 8)]
  | 6 => [(unit / 256, 8), (unit % 256, 168)]
  | 7 => [(unit, 16)]
  | 8 => [(unit, 8)]
  | 9 => [(unit, 64)]
  | _ => []

end Sys2Proof

namespace Sys2Proof.Laws.Bounded

open Sys2Proof

/-- The units that a command names, each with its bound. -/
def units : Instr → List (Nat × Nat)
  | .beatBoundary b => b.units
  | .ovfClear path _ | .lowWordRead path _ | .registerWrite path _ _ | .pkgId path _ | .bootDiscard path _
    | .bootNofast path _ => path.units
  | .eventRecord _ | .retirementDecision _ | .rdmaWrite _ _ _ _ | .rdmaRead _ _ _ _ | .proof _ _
    | .handshakeTimeout _ | .sessionIdleTimeout _ | .regread _ _ _ | .regwrite _ _ _ _ | .qpDestroy _ _
    | .keys _ _ | .peers _ _ | .start _ | .owner _ _ | .close _ | .evread _ _ _ | .release _ | .packageColdReset
    | .resetRelease _ | .cantlePllLock | .fuseRead _ _ | .imageVerify _ | .recover _ _ | .firmwareStart _ _ _
    | .ready _ | .hourTick | .pgBoardFall | .mapRebuild _ | .cinchSpent | .fastLimitAssert | .fastLimitDeassert
    | .syncEdge _ | .testModeUnlock _ _ => []
  | .evlogSel path hub _ | .cinchCap path hub _ | .cinchFast path hub _ | .cinchCtrl path hub _ =>
    path.units ++ [(hub, 2)]
  | .blockAdmission part core => [(part, 8), (core, 1280)]
  | .clusterStart core slot | .blockStopRelease core slot | .ageSeam core slot | .seamBegin core slot
    | .seamQuiesced core slot | .seamLogged core slot | .seamCommitted core slot | .seamApplied core slot
    | .clusterCommit core slot | .atomAfterSeam core slot | .finalCommit core slot
    | .finalCommitComplete core slot | .blockReplay core ⟨slot, _⟩ => [(core, 1280), (slot, 16)]
  | .starvationGuard core grp | .wbeatRelease core grp _ => [(core, 1280), (grp, 32)]
  | .barrierTimeout core wd => [(core, 1280)] ++ wd.units
  | .laneMov i | .laneAdd i | .laneSub i | .laneMul i | .laneFma i | .laneFms i | .laneMin i | .laneMax i
    | .laneAbs i | .laneNeg i | .laneCmp i | .laneSel i | .laneCvt i | .laneCvtMx i | .lanePack i
    | .laneUnpack i | .laneIadd i | .laneIsub i | .laneImul i | .laneImin i | .laneImax i | .laneIcmp i
    | .laneAnd i | .laneOr i | .laneXor i | .laneNot i | .laneShl i | .laneShr i | .laneSar i | .lanePopc i
    | .laneClz i | .laneRcp i | .laneRsqrt i | .laneSqrt i | .laneExp2 i | .laneLog2 i | .laneDiv i
    | .laneShfl i | .laneVote i | .laneRed i | .laneFlag i | .laneRng i | .laneCmp24 i | .lanePick i
    | .scalarMov i | .scalarAdd i | .scalarSub i | .scalarMul i | .scalarAnd i | .scalarOr i | .scalarXor i
    | .scalarShl i | .scalarShr i | .scalarSar i | .scalarMin i | .scalarMax i | .scalarUmin i | .scalarUmax i
    | .scalarCmp i | .scalarFma i | .scalarCvt i | .rdlane i | .wrlane i | .mmaT i | .mmaS i | .mmaQ i | .smma i
    | .mmaDrain i | .ld i | .st i | .ldAcq i | .stRel i | .atom i | .ldS i | .prefetch i | .bgather i
    | .bmerge i | .dmaCp i | .dmaFill i | .dmaWait i | .dmaPoll i | .nop i | .bra i | .jmp i | .call i | .exit i
    | .barG i | .barB i | .fence i | .tsc i _ | .beat i | .wbeat i | .trap i | .rdpc i => i.units
  | .arrayTake core | .tileSequencerRead core | .drainRead core | .drainOutput core | .bobbinExecute ⟨core, _⟩
    | .bobbinComplete core | .readResponse core _ _ | .atomicResponse core _ | .refusal core _
    | .dmaTransfer core _ | .dmaComplete core _ | .frontEndStall core | .remoteRequestTimeout core _
    | .rdmaReadResponse core _ _ _ => [(core, 1280)]
  | .readRequest src _ | .lineWrite src _ | .atomic src _ => src.units
  | .writeAcknowledgement ⟨l, _⟩ | .rdmaAcknowledge l _ | .rdmaRetryTimeout l => l.units
  | .memRetrainDone stack _ | .remapCopyDone ⟨stack, _⟩ | .stackTrip stack | .hbmTrained stack _ _ _ _ _ _ _ =>
    [(stack, 16)]
  | .amapRcInval path core _ | .amapFaultClear path core _ => path.units ++ [(core, 1280)]
  | .coreHardwareFault die phys _ => [(die, 8), (phys, 168)]
  | .blockMoved core ⟨slot, _⟩ host => [(core, 1280), (slot, 16), (host, 1280)]
  | .completionRecord part | .stepBoundary part | .xplanArmed part | .exchangeSendBeat part _
    | .exchangeDataFrame part _ _ | .checkBeat part _ | .healthFreeze part | .healthUpFrame part _ _
    | .healthDownSend part _ | .healthDownFrame part _ _ | .healthDecision part | .revert part
    | .updateLaunch part | .updateCommit part | .memoryScrubDone part | .partitionStart part
    | .partitionReset part | .cmdtLaunch ⟨part, _⟩ | .cmdtWindow ⟨part, _⟩ | .cmdtMark ⟨part, _⟩ | .cmdtNop ⟨part, _⟩
    | .markComplete part => [(part, 8)]
  | .patrolScrub mem _ => [(mem, 24)]
  | .leakyBucketLeak ch => ch.units
  | .bridgeTransfer src dst _ => [(src, 26), (dst, 26)]
  | .bridgeRetrain bridge _ => [(bridge, 35)]
  | .fabShadowReload die | .frameFlushTimer die _ | .qpCreate _ ⟨die, _, _⟩ | .pgCAssert die | .pgCTimeout die
    | .coreFirmwareCheck die _ | .coreMapBuild die | .pgCFall die | .dieReport die | .dieWedged die
    | .dieFailed die _ => [(die, 8)]
  | .tlFrame link _ | .tlDetect link _ _ | .tlEqualiseDone link _ | .tlAlignDone link _
    | .tlIdentify link _ _ _ _ | .tlDelayDone link _ | .tlStateTimeout link | .tlRetrainDone link _ _ _ =>
    [(link, 64)]
  | .notice link part _ dstPart _ => [(link, 64), (part, 16), (dstPart, 16)]
  | .tlCtrlEn path link _ | .tlCtrlRetrain path link _ => path.units ++ [(link, 64)]
  | .fabTopo path die _ => path.units ++ [(die, 8)]
  | .cageModuleRemoved cage => [(cage, 69)]
  | .xplanStart path part _ | .xplanArm path part _ | .xplanDisarm path part _ | .updArm path part _
    | .updDisarm path part _ | .updRevert path part _ | .partDefine path part _ | .partReset path part _
    | .partRelease path part _ | .cmdtEn path part _ => path.units ++ [(part, 8)]
  | .exchangeReduceBeat part _ late | .exchangeRecvBeat part _ late => [(part, 8)] ++ late.map fun d => (d, 8)
  | .ethLinkChange port _ _ _ | .ethFrame port _ _ | .hello port _ => [(port, 5)]
  | .lockExpiry sc => sc.units
  | .zeroise _ part | .attest _ _ part _ | .assign _ part _ | .privlaunch _ part _ | .mfLate _ part _ => [(part, 16)]
  | .hubSelfTest hub _ => [(hub, 2)]
  | .knownAnswerRuns u _ _ => u.units
  | .lpddrTrained module _ _ _ _ => [(module, 8)]
  | .startPhaseTimeout phase unit => phaseUnits phase unit
  | .thermalTrip unit _ => [(unit, 10)]
  | .managementRound r => r.units

/-- A well-formed command names units of the package only. -/
def Statement (i : Instr) : Prop := i.wf = true → ∀ u, u ∈ units i → u.1 < u.2

/-! ### One lemma per shape of operands -/

/-- The units of a list are within their bounds. -/
abbrev Within (us : List (Nat × Nat)) : Prop := ∀ u, u ∈ us → u.1 < u.2

theorem of_empty (_ : true = true) : Within [] := nofun

theorem of_one {n b : Nat} (h : decide (n < b) = true) : Within [(n, b)] := by simpa using h

theorem join {us vs : List (Nat × Nat)} (h : Within us) (k : Within vs) : Within (us ++ vs) := fun u m =>
  (List.mem_append.mp m).elim (h u) (k u)

theorem of_two {n b m c : Nat} (h : (decide (n < b) && decide (m < c)) = true) : Within [(n, b), (m, c)] :=
  have h := Bool.and_eq_true_iff.mp h
  join (of_one h.1) (of_one h.2)

theorem of_three {n b m c k d : Nat} (h : (decide (n < b) && decide (m < c) && decide (k < d)) = true) :
    Within [(n, b), (m, c), (k, d)] :=
  have h := Bool.and_eq_true_iff.mp h
  join (of_two h.1) (of_one h.2)

theorem of_listed {α : Type} {l : List α} {f : α → Nat} {b : Nat} (h : l.all (fun e => decide (f e < b)) = true) :
    Within (l.map fun e => (f e, b)) := by simpa [Within] using h

theorem of_issue (i : Issue) (h : i.wf = true) : Within i.units := of_two h

theorem of_path (p : Path) (h : p.wf = true) : Within p.units := by
  cases p with
  | session n => exact of_empty h
  | priv c => exact of_one h

theorem of_req_src (r : ReqSrc) (h : r.wf = true) : Within r.units := by
  cases r with
  | ni c e => exact of_one h
  | inbox i => exact of_empty h

theorem of_apply_line (l : ApplyLine) (h : l.wf = true) : Within l.units := of_two h

theorem of_write_src (w : WriteSrc) (h : w.wf = true) : Within w.units := by
  cases w with
  | apply l => exact of_two h
  | inbox i => exact of_empty h

theorem of_wd (w : WdKey) (h : w.wf = true) : Within w.units := by
  cases w with
  | barG g id => exact of_two h
  | barB b id => exact of_two h
  | wbeat g pc => exact of_one h

theorem of_channel (c : Channel) (h : c.wf = true) : Within c.units := by cases c <;> exact of_two h

theorem of_scope (sc : Scope) (h : sc.wf = true) : Within sc.units := by
  cases sc with
  | package => exact of_empty h
  | partition p => exact of_one h

theorem of_kat_unit (u : KatUnit) (h : u.wf = true) : Within u.units := by
  cases u with
  | core d p => exact of_two h
  | way d w => exact of_two h
  | die d => exact of_one h
  | hub b c => exact of_two h
  | done => exact of_empty h

theorem of_boundary (b : BoundaryIn) (h : b.wf = true) : Within b.units :=
  have h := Bool.and_eq_true_iff.mp (Bool.and_eq_true_iff.mp h).1
  join (of_listed h.1) (of_listed h.2)

theorem of_round (r : RoundIn) (h : r.wf = true) : Within r.units := by
  simp only [RoundIn.wf, Bool.and_eq_true] at h
  obtain ⟨⟨⟨⟨⟨a, b⟩, c⟩, d⟩, e⟩, f⟩ := h
  have e1 : r.cantleFail.all (fun x => decide (x.1 < 2)) = true :=
    List.all_eq_true.mpr fun x m => (Bool.and_eq_true_iff.mp (List.all_eq_true.mp e x m)).1
  have e2 : r.cantleFail.all (fun x => decide (x.2 < 4)) = true :=
    List.all_eq_true.mpr fun x m => (Bool.and_eq_true_iff.mp (List.all_eq_true.mp e x m)).2
  exact join (join (join (join (join (join (of_listed a) (of_listed b)) (of_listed c)) (of_listed d)) (of_listed e1))
    (of_listed e2)) (of_listed f)

theorem of_phases (phase unit : Nat) (h : phaseUnitOk phase unit = true) : Within (phaseUnits phase unit) :=
  match phase, h with
  | 0, h | 1, h | 2, h | 5, h | 7, h | 8, h | 9, h => of_one h
  | 6, h => of_two h
  | 3, _ | 4, _ | _ + 10, _ => of_empty rfl

theorem of_path_one (p : Path) {n b : Nat} (h : (p.wf && decide (n < b)) = true) : Within (p.units ++ [(n, b)]) :=
  have h := Bool.and_eq_true_iff.mp h
  join (of_path p h.1) (of_one h.2)

theorem of_one_wd (w : WdKey) {n b : Nat} (h : (decide (n < b) && w.wf) = true) : Within ([(n, b)] ++ w.units) :=
  have h := Bool.and_eq_true_iff.mp h
  join (of_one h.1) (of_wd w h.2)

theorem of_one_dies (l : List Nat) {n b : Nat} (h : (decide (n < b) && l.all dieOk) = true) :
    Within ([(n, b)] ++ l.map fun d => (d, 8)) :=
  have h := Bool.and_eq_true_iff.mp h
  join (of_one h.1) (of_listed (f := id) h.2)

/-! ### One lemma per command -/

theorem beatBoundary (b : BoundaryIn) : Statement (.beatBoundary b) := of_boundary b
theorem ovfClear (path : Path) (addr : Nat) : Statement (.ovfClear path addr) := of_path path
theorem eventRecord (i : Nat) : Statement (.eventRecord i) := of_empty
theorem evlogSel (path : Path) (hub : Nat) (val : Word) : Statement (.evlogSel path hub val) := of_path_one path
theorem lowWordRead (path : Path) (addr : Nat) : Statement (.lowWordRead path addr) := of_path path
theorem registerWrite (path : Path) (addr : Nat) (val : Word) : Statement (.registerWrite path addr val) := of_path path
theorem pkgId (path : Path) (val : Word) : Statement (.pkgId path val) := of_path path
theorem blockAdmission (part : Nat) (core : Nat) : Statement (.blockAdmission part core) := of_two
theorem clusterStart (core : Nat) (slot : Nat) : Statement (.clusterStart core slot) := of_two
theorem starvationGuard (core : Nat) (grp : Nat) : Statement (.starvationGuard core grp) := of_two
theorem barrierTimeout (core : Nat) (wd : WdKey) : Statement (.barrierTimeout core wd) := of_one_wd wd
theorem blockStopRelease (core : Nat) (slot : Nat) : Statement (.blockStopRelease core slot) := of_two
theorem laneMov (i : Issue) : Statement (.laneMov i) := of_issue i
theorem laneAdd (i : Issue) : Statement (.laneAdd i) := of_issue i
theorem laneSub (i : Issue) : Statement (.laneSub i) := of_issue i
theorem laneMul (i : Issue) : Statement (.laneMul i) := of_issue i
theorem laneFma (i : Issue) : Statement (.laneFma i) := of_issue i
theorem laneFms (i : Issue) : Statement (.laneFms i) := of_issue i
theorem laneMin (i : Issue) : Statement (.laneMin i) := of_issue i
theorem laneMax (i : Issue) : Statement (.laneMax i) := of_issue i
theorem laneAbs (i : Issue) : Statement (.laneAbs i) := of_issue i
theorem laneNeg (i : Issue) : Statement (.laneNeg i) := of_issue i
theorem laneCmp (i : Issue) : Statement (.laneCmp i) := of_issue i
theorem laneSel (i : Issue) : Statement (.laneSel i) := of_issue i
theorem laneCvt (i : Issue) : Statement (.laneCvt i) := of_issue i
theorem laneCvtMx (i : Issue) : Statement (.laneCvtMx i) := of_issue i
theorem lanePack (i : Issue) : Statement (.lanePack i) := of_issue i
theorem laneUnpack (i : Issue) : Statement (.laneUnpack i) := of_issue i
theorem laneIadd (i : Issue) : Statement (.laneIadd i) := of_issue i
theorem laneIsub (i : Issue) : Statement (.laneIsub i) := of_issue i
theorem laneImul (i : Issue) : Statement (.laneImul i) := of_issue i
theorem laneImin (i : Issue) : Statement (.laneImin i) := of_issue i
theorem laneImax (i : Issue) : Statement (.laneImax i) := of_issue i
theorem laneIcmp (i : Issue) : Statement (.laneIcmp i) := of_issue i
theorem laneAnd (i : Issue) : Statement (.laneAnd i) := of_issue i
theorem laneOr (i : Issue) : Statement (.laneOr i) := of_issue i
theorem laneXor (i : Issue) : Statement (.laneXor i) := of_issue i
theorem laneNot (i : Issue) : Statement (.laneNot i) := of_issue i
theorem laneShl (i : Issue) : Statement (.laneShl i) := of_issue i
theorem laneShr (i : Issue) : Statement (.laneShr i) := of_issue i
theorem laneSar (i : Issue) : Statement (.laneSar i) := of_issue i
theorem lanePopc (i : Issue) : Statement (.lanePopc i) := of_issue i
theorem laneClz (i : Issue) : Statement (.laneClz i) := of_issue i
theorem laneRcp (i : Issue) : Statement (.laneRcp i) := of_issue i
theorem laneRsqrt (i : Issue) : Statement (.laneRsqrt i) := of_issue i
theorem laneSqrt (i : Issue) : Statement (.laneSqrt i) := of_issue i
theorem laneExp2 (i : Issue) : Statement (.laneExp2 i) := of_issue i
theorem laneLog2 (i : Issue) : Statement (.laneLog2 i) := of_issue i
theorem laneDiv (i : Issue) : Statement (.laneDiv i) := of_issue i
theorem laneShfl (i : Issue) : Statement (.laneShfl i) := of_issue i
theorem laneVote (i : Issue) : Statement (.laneVote i) := of_issue i
theorem laneRed (i : Issue) : Statement (.laneRed i) := of_issue i
theorem laneFlag (i : Issue) : Statement (.laneFlag i) := of_issue i
theorem laneRng (i : Issue) : Statement (.laneRng i) := of_issue i
theorem laneCmp24 (i : Issue) : Statement (.laneCmp24 i) := of_issue i
theorem lanePick (i : Issue) : Statement (.lanePick i) := of_issue i
theorem scalarMov (i : Issue) : Statement (.scalarMov i) := of_issue i
theorem scalarAdd (i : Issue) : Statement (.scalarAdd i) := of_issue i
theorem scalarSub (i : Issue) : Statement (.scalarSub i) := of_issue i
theorem scalarMul (i : Issue) : Statement (.scalarMul i) := of_issue i
theorem scalarAnd (i : Issue) : Statement (.scalarAnd i) := of_issue i
theorem scalarOr (i : Issue) : Statement (.scalarOr i) := of_issue i
theorem scalarXor (i : Issue) : Statement (.scalarXor i) := of_issue i
theorem scalarShl (i : Issue) : Statement (.scalarShl i) := of_issue i
theorem scalarShr (i : Issue) : Statement (.scalarShr i) := of_issue i
theorem scalarSar (i : Issue) : Statement (.scalarSar i) := of_issue i
theorem scalarMin (i : Issue) : Statement (.scalarMin i) := of_issue i
theorem scalarMax (i : Issue) : Statement (.scalarMax i) := of_issue i
theorem scalarUmin (i : Issue) : Statement (.scalarUmin i) := of_issue i
theorem scalarUmax (i : Issue) : Statement (.scalarUmax i) := of_issue i
theorem scalarCmp (i : Issue) : Statement (.scalarCmp i) := of_issue i
theorem scalarFma (i : Issue) : Statement (.scalarFma i) := of_issue i
theorem scalarCvt (i : Issue) : Statement (.scalarCvt i) := of_issue i
theorem rdlane (i : Issue) : Statement (.rdlane i) := of_issue i
theorem wrlane (i : Issue) : Statement (.wrlane i) := of_issue i
theorem mmaT (i : Issue) : Statement (.mmaT i) := of_issue i
theorem mmaS (i : Issue) : Statement (.mmaS i) := of_issue i
theorem mmaQ (i : Issue) : Statement (.mmaQ i) := of_issue i
theorem smma (i : Issue) : Statement (.smma i) := of_issue i
theorem mmaDrain (i : Issue) : Statement (.mmaDrain i) := of_issue i
theorem arrayTake (core : Nat) : Statement (.arrayTake core) := of_one
theorem tileSequencerRead (core : Nat) : Statement (.tileSequencerRead core) := of_one
theorem drainRead (core : Nat) : Statement (.drainRead core) := of_one
theorem drainOutput (core : Nat) : Statement (.drainOutput core) := of_one
theorem ld (i : Issue) : Statement (.ld i) := of_issue i
theorem st (i : Issue) : Statement (.st i) := of_issue i
theorem ldAcq (i : Issue) : Statement (.ldAcq i) := of_issue i
theorem stRel (i : Issue) : Statement (.stRel i) := of_issue i
theorem atom (i : Issue) : Statement (.atom i) := of_issue i
theorem ldS (i : Issue) : Statement (.ldS i) := of_issue i
theorem prefetch (i : Issue) : Statement (.prefetch i) := of_issue i
theorem bgather (i : Issue) : Statement (.bgather i) := of_issue i
theorem bmerge (i : Issue) : Statement (.bmerge i) := of_issue i
theorem dmaCp (i : Issue) : Statement (.dmaCp i) := of_issue i
theorem dmaFill (i : Issue) : Statement (.dmaFill i) := of_issue i
theorem dmaWait (i : Issue) : Statement (.dmaWait i) := of_issue i
theorem dmaPoll (i : Issue) : Statement (.dmaPoll i) := of_issue i
theorem nop (i : Issue) : Statement (.nop i) := of_issue i
theorem bra (i : Issue) : Statement (.bra i) := of_issue i
theorem jmp (i : Issue) : Statement (.jmp i) := of_issue i
theorem call (i : Issue) : Statement (.call i) := of_issue i
theorem exit (i : Issue) : Statement (.exit i) := of_issue i
theorem barG (i : Issue) : Statement (.barG i) := of_issue i
theorem barB (i : Issue) : Statement (.barB i) := of_issue i
theorem fence (i : Issue) : Statement (.fence i) := of_issue i
theorem tsc (i : Issue) (tick : Nat) : Statement (.tsc i tick) := of_issue i
theorem beat (i : Issue) : Statement (.beat i) := of_issue i
theorem wbeat (i : Issue) : Statement (.wbeat i) := of_issue i
theorem wbeatRelease (core : Nat) (grp : Nat) (pc : DWord) : Statement (.wbeatRelease core grp pc) := of_two
theorem trap (i : Issue) : Statement (.trap i) := of_issue i
theorem rdpc (i : Issue) : Statement (.rdpc i) := of_issue i
theorem bobbinExecute (x : Reads) : Statement (.bobbinExecute x) := of_one
theorem bobbinComplete (core : Nat) : Statement (.bobbinComplete core) := of_one
theorem readRequest (src : ReqSrc) (ecc : Ecc) : Statement (.readRequest src ecc) := of_req_src src
theorem lineWrite (src : WriteSrc) (ecc : Ecc) : Statement (.lineWrite src ecc) := of_write_src src
theorem atomic (src : ReqSrc) (ecc : Ecc) : Statement (.atomic src ecc) := of_req_src src
theorem readResponse (core : Nat) (entry : Nat) (parityOk : Bool) : Statement (.readResponse core entry parityOk) := of_one
theorem writeAcknowledgement (x : AckIn) : Statement (.writeAcknowledgement x) := of_apply_line x.l
theorem atomicResponse (core : Nat) (x : Answer) : Statement (.atomicResponse core x) := of_one
theorem refusal (core : Nat) (x : Answer) : Statement (.refusal core x) := of_one
theorem memRetrainDone (stack : Nat) (ok : Bool) : Statement (.memRetrainDone stack ok) := of_one
theorem dmaTransfer (core : Nat) (x : DmaStep) : Statement (.dmaTransfer core x) := of_one
theorem dmaComplete (core : Nat) (d : Nat) : Statement (.dmaComplete core d) := of_one
theorem amapRcInval (path : Path) (core : Nat) (val : Word) : Statement (.amapRcInval path core val) := of_path_one path
theorem amapFaultClear (path : Path) (core : Nat) (val : Word) : Statement (.amapFaultClear path core val) := of_path_one path
theorem ageSeam (core : Nat) (slot : Nat) : Statement (.ageSeam core slot) := of_two
theorem seamBegin (core : Nat) (slot : Nat) : Statement (.seamBegin core slot) := of_two
theorem seamQuiesced (core : Nat) (slot : Nat) : Statement (.seamQuiesced core slot) := of_two
theorem seamLogged (core : Nat) (slot : Nat) : Statement (.seamLogged core slot) := of_two
theorem seamCommitted (core : Nat) (slot : Nat) : Statement (.seamCommitted core slot) := of_two
theorem seamApplied (core : Nat) (slot : Nat) : Statement (.seamApplied core slot) := of_two
theorem clusterCommit (core : Nat) (slot : Nat) : Statement (.clusterCommit core slot) := of_two
theorem atomAfterSeam (core : Nat) (slot : Nat) : Statement (.atomAfterSeam core slot) := of_two
theorem finalCommit (core : Nat) (slot : Nat) : Statement (.finalCommit core slot) := of_two
theorem finalCommitComplete (core : Nat) (slot : Nat) : Statement (.finalCommitComplete core slot) := of_two
theorem coreHardwareFault (die : Nat) (phys : Nat) (cls : Nat) : Statement (.coreHardwareFault die phys cls) := of_two
theorem frontEndStall (core : Nat) : Statement (.frontEndStall core) := of_one
theorem retirementDecision (checkFails : List Bool) : Statement (.retirementDecision checkFails) := of_empty
theorem blockReplay (core : Nat) (x : Reads) : Statement (.blockReplay core x) := of_two
theorem blockMoved (core : Nat) (x : Reads) (host : Nat) : Statement (.blockMoved core x host) := of_three
theorem completionRecord (part : Nat) : Statement (.completionRecord part) := of_one
theorem patrolScrub (mem : Nat) (ecc : Ecc) : Statement (.patrolScrub mem ecc) := of_one
theorem remapCopyDone (x : Reads) : Statement (.remapCopyDone x) := of_one
theorem stackTrip (stack : Nat) : Statement (.stackTrip stack) := of_one
theorem leakyBucketLeak (ch : Channel) : Statement (.leakyBucketLeak ch) := of_channel ch
theorem bridgeTransfer (src dst : Nat) (x : HopIn) : Statement (.bridgeTransfer src dst x) := of_two
theorem bridgeRetrain (bridge : Nat) (x : FailedWires) : Statement (.bridgeRetrain bridge x) := of_one
theorem fabShadowReload (die : Nat) : Statement (.fabShadowReload die) := of_one
theorem remoteRequestTimeout (core : Nat) (entry : Nat) : Statement (.remoteRequestTimeout core entry) := of_one
theorem frameFlushTimer (die : Nat) (i : Nat) : Statement (.frameFlushTimer die i) := of_one
theorem tlFrame (link : Nat) (f : Frame) : Statement (.tlFrame link f) := of_one
theorem notice (link : Nat) (part : Nat) (dstPkg : Nat) (dstPart : Nat) (reason : Nat) : Statement (.notice link part dstPkg dstPart reason) := of_three
theorem tlDetect (link : Nat) (m : Option ModuleIn) (x : DetectIn) : Statement (.tlDetect link m x) := of_one
theorem tlEqualiseDone (link : Nat) (settings : List Nat) : Statement (.tlEqualiseDone link settings) := of_one
theorem tlAlignDone (link : Nat) (errs : List Nat) : Statement (.tlAlignDone link errs) := of_one
theorem tlIdentify (link : Nat) (peerPkg : Nat) (peerLink : Nat) (peerLanes : List Nat) (peerDist : Nat) : Statement (.tlIdentify link peerPkg peerLink peerLanes peerDist) := of_one
theorem tlDelayDone (link : Nat) (trips : List (Nat × Nat)) : Statement (.tlDelayDone link trips) := of_one
theorem tlStateTimeout (link : Nat) : Statement (.tlStateTimeout link) := of_one
theorem tlRetrainDone (link : Nat) (ok : Bool) (errs : List Nat) (trips : List (Nat × Nat)) : Statement (.tlRetrainDone link ok errs trips) := of_one
theorem tlCtrlEn (path : Path) (link : Nat) (val : Word) : Statement (.tlCtrlEn path link val) := of_path_one path
theorem tlCtrlRetrain (path : Path) (link : Nat) (val : Word) : Statement (.tlCtrlRetrain path link val) := of_path_one path
theorem fabTopo (path : Path) (die : Nat) (val : Word) : Statement (.fabTopo path die val) := of_path_one path
theorem cageModuleRemoved (cage : Nat) : Statement (.cageModuleRemoved cage) := of_one
theorem xplanStart (path : Path) (part : Nat) (val : Word) : Statement (.xplanStart path part val) := of_path_one path
theorem stepBoundary (part : Nat) : Statement (.stepBoundary part) := of_one
theorem xplanArm (path : Path) (part : Nat) (val : Word) : Statement (.xplanArm path part val) := of_path_one path
theorem xplanArmed (part : Nat) : Statement (.xplanArmed part) := of_one
theorem xplanDisarm (path : Path) (part : Nat) (val : Word) : Statement (.xplanDisarm path part val) := of_path_one path
theorem exchangeSendBeat (part : Nat) (x : Reads) : Statement (.exchangeSendBeat part x) := of_one
theorem exchangeDataFrame (part : Nat) (srcPkg : Nat) (b : ExchBody) : Statement (.exchangeDataFrame part srcPkg b) := of_one
theorem exchangeReduceBeat (part : Nat) (x : Reads) (late : List Nat) : Statement (.exchangeReduceBeat part x late) := of_one_dies late
theorem exchangeRecvBeat (part : Nat) (x : Reads) (late : List Nat) : Statement (.exchangeRecvBeat part x late) := of_one_dies late
theorem checkBeat (part : Nat) (x : Reads) : Statement (.checkBeat part x) := of_one
theorem healthFreeze (part : Nat) : Statement (.healthFreeze part) := of_one
theorem healthUpFrame (part : Nat) (srcPkg : Nat) (b : ExchBody) : Statement (.healthUpFrame part srcPkg b) := of_one
theorem healthDownSend (part : Nat) (entry : Nat) : Statement (.healthDownSend part entry) := of_one
theorem healthDownFrame (part : Nat) (srcPkg : Nat) (b : ExchBody) : Statement (.healthDownFrame part srcPkg b) := of_one
theorem healthDecision (part : Nat) : Statement (.healthDecision part) := of_one
theorem updArm (path : Path) (part : Nat) (val : Word) : Statement (.updArm path part val) := of_path_one path
theorem updDisarm (path : Path) (part : Nat) (val : Word) : Statement (.updDisarm path part val) := of_path_one path
theorem updRevert (path : Path) (part : Nat) (val : Word) : Statement (.updRevert path part val) := of_path_one path
theorem revert (part : Nat) : Statement (.revert part) := of_one
theorem updateLaunch (part : Nat) : Statement (.updateLaunch part) := of_one
theorem updateCommit (part : Nat) : Statement (.updateCommit part) := of_one
theorem ethLinkChange (port : Nat) (up : Bool) (phy : Nat) (fec : Bool) : Statement (.ethLinkChange port up phy fec) := of_one
theorem ethFrame (port : Nat) (f : EthDst) (kind : EthKind) : Statement (.ethFrame port f kind) := of_one
theorem rdmaWrite (qpn : Nat) (rkey : Nat) (addr : DWord) (x : Payload) : Statement (.rdmaWrite qpn rkey addr x) := of_empty
theorem rdmaRead (qpn : Nat) (rkey : Nat) (addr : DWord) (x : Reads) : Statement (.rdmaRead qpn rkey addr x) := of_empty
theorem rdmaReadResponse (core : Nat) (entry : Nat) (ok : Bool) (data : Line) : Statement (.rdmaReadResponse core entry ok data) := of_one
theorem rdmaAcknowledge (l : ApplyLine) (ok : Bool) : Statement (.rdmaAcknowledge l ok) := of_apply_line l
theorem rdmaRetryTimeout (l : ApplyLine) : Statement (.rdmaRetryTimeout l) := of_apply_line l
theorem hello (port : Nat) (h : Hello) : Statement (.hello port h) := of_one
theorem proof (hs : Nat) (ok : Bool) : Statement (.proof hs ok) := of_empty
theorem handshakeTimeout (hs : Nat) : Statement (.handshakeTimeout hs) := of_empty
theorem lockExpiry (sc : Scope) : Statement (.lockExpiry sc) := of_scope sc
theorem sessionIdleTimeout (sess : Nat) : Statement (.sessionIdleTimeout sess) := of_empty
theorem regread (sess : Nat) (addr : Nat) (width : Nat) : Statement (.regread sess addr width) := of_empty
theorem regwrite (sess : Nat) (addr : Nat) (width : Nat) (val : Word) : Statement (.regwrite sess addr width val) := of_empty
theorem qpCreate (sess : Nat) (x : QpIn) : Statement (.qpCreate sess x) := of_one
theorem qpDestroy (sess : Nat) (qpn : Nat) : Statement (.qpDestroy sess qpn) := of_empty
theorem keys (sess : Nat) (linkKey : BitVec 256) : Statement (.keys sess linkKey) := of_empty
theorem peers (sess : Nat) (es : List PeerEntry) : Statement (.peers sess es) := of_empty
theorem start (sess : Nat) : Statement (.start sess) := of_empty
theorem zeroise (sess : Nat) (part : Nat) : Statement (.zeroise sess part) := of_one
theorem memoryScrubDone (part : Nat) : Statement (.memoryScrubDone part) := of_one
theorem attest (sess : Nat) (kind : Nat) (part : Nat) (nonce : BitVec 256) : Statement (.attest sess kind part nonce) := of_one
theorem assign (sess : Nat) (part : Nat) (c : Cred) : Statement (.assign sess part c) := of_one
theorem owner (sess : Nat) (pub : BitVec 776) : Statement (.owner sess pub) := of_empty
theorem close (sess : Nat) : Statement (.close sess) := of_empty
theorem evread (sess : Nat) (index : Nat) (count : Nat) : Statement (.evread sess index count) := of_empty
theorem release (sess : Nat) : Statement (.release sess) := of_empty
theorem privlaunch (sess : Nat) (part : Nat) (bytes : List Byte) : Statement (.privlaunch sess part bytes) := of_one
theorem partitionStart (part : Nat) : Statement (.partitionStart part) := of_one
theorem partDefine (path : Path) (part : Nat) (val : Word) : Statement (.partDefine path part val) := of_path_one path
theorem partReset (path : Path) (part : Nat) (val : Word) : Statement (.partReset path part val) := of_path_one path
theorem partitionReset (part : Nat) : Statement (.partitionReset part) := of_one
theorem partRelease (path : Path) (part : Nat) (val : Word) : Statement (.partRelease path part val) := of_path_one path
theorem cmdtEn (path : Path) (part : Nat) (val : Word) : Statement (.cmdtEn path part val) := of_path_one path
theorem cmdtLaunch (x : Reads) : Statement (.cmdtLaunch x) := of_one
theorem cmdtWindow (x : Reads) : Statement (.cmdtWindow x) := of_one
theorem cmdtMark (x : Reads) : Statement (.cmdtMark x) := of_one
theorem cmdtNop (x : Reads) : Statement (.cmdtNop x) := of_one
theorem markComplete (part : Nat) : Statement (.markComplete part) := of_one
theorem packageColdReset : Statement .packageColdReset := of_empty
theorem resetRelease (straps : BitVec 14) : Statement (.resetRelease straps) := of_empty
theorem cantlePllLock : Statement .cantlePllLock := of_empty
theorem hubSelfTest (hub : Nat) (ok : Bool) : Statement (.hubSelfTest hub ok) := of_one
theorem fuseRead (h0 : Option FuseIn) (h1 : Option FuseIn) : Statement (.fuseRead h0 h1) := of_empty
theorem imageVerify (img : ImageIn) : Statement (.imageVerify img) := of_empty
theorem recover (img : ImageIn) (ownerSigOk : Bool) : Statement (.recover img ownerSigOk) := of_empty
theorem firmwareStart (rejected : List (Nat × Nat)) (boardDesc : Option (List Nat)) (descVersion : Nat) : Statement (.firmwareStart rejected boardDesc descVersion) := of_empty
theorem pgCAssert (die : Nat) : Statement (.pgCAssert die) := of_one
theorem pgCTimeout (die : Nat) : Statement (.pgCTimeout die) := of_one
theorem coreFirmwareCheck (die : Nat) (ok : Bool) : Statement (.coreFirmwareCheck die ok) := of_one
theorem knownAnswerRuns (u : KatUnit) (ok : Bool) (run : Nat) : Statement (.knownAnswerRuns u ok run) := of_kat_unit u
theorem hbmTrained (stack : Nat) (identityOk : Bool) (serial : DWord) (saved : SavedIn) (checkOk : Bool) (trainOk : Bool) (hppr : Nat) (pages : List (Nat × Nat)) : Statement (.hbmTrained stack identityOk serial saved checkOk trainOk hppr pages) := of_one
theorem lpddrTrained (module : Nat) (spd : SpdIn) (saved : SavedIn) (checkOk : Bool) (trainOk : Bool) : Statement (.lpddrTrained module spd saved checkOk trainOk) := of_one
theorem coreMapBuild (die : Nat) : Statement (.coreMapBuild die) := of_one
theorem startPhaseTimeout (phase : Nat) (unit : Nat) : Statement (.startPhaseTimeout phase unit) := of_phases phase unit
theorem ready (ms : Nat) : Statement (.ready ms) := of_empty
theorem bootDiscard (path : Path) (val : Word) : Statement (.bootDiscard path val) := of_path path
theorem bootNofast (path : Path) (val : Word) : Statement (.bootNofast path val) := of_path path
theorem hourTick : Statement .hourTick := of_empty
theorem pgBoardFall : Statement .pgBoardFall := of_empty
theorem pgCFall (die : Nat) : Statement (.pgCFall die) := of_one
theorem dieReport (die : Nat) : Statement (.dieReport die) := of_one
theorem dieWedged (die : Nat) : Statement (.dieWedged die) := of_one
theorem dieFailed (die : Nat) (cause : Nat) : Statement (.dieFailed die cause) := of_one
theorem mapRebuild (beats : Nat) : Statement (.mapRebuild beats) := of_empty
theorem thermalTrip (unit : Nat) (temp : Nat) : Statement (.thermalTrip unit temp) := of_one
theorem managementRound (r : RoundIn) : Statement (.managementRound r) := of_round r
theorem mfLate (op : Nat) (part : Nat) (us : Nat) : Statement (.mfLate op part us) := of_one
theorem cinchSpent : Statement .cinchSpent := of_empty
theorem cinchCap (path : Path) (hub : Nat) (val : Word) : Statement (.cinchCap path hub val) := of_path_one path
theorem cinchFast (path : Path) (hub : Nat) (val : Word) : Statement (.cinchFast path hub val) := of_path_one path
theorem cinchCtrl (path : Path) (hub : Nat) (val : Word) : Statement (.cinchCtrl path hub val) := of_path_one path
theorem fastLimitAssert : Statement .fastLimitAssert := of_empty
theorem fastLimitDeassert : Statement .fastLimitDeassert := of_empty
theorem syncEdge (tick : Nat) : Statement (.syncEdge tick) := of_empty
theorem testModeUnlock (sigOk : Bool) (clearRetained : Bool) : Statement (.testModeUnlock sigOk clearRetained) := of_empty

end Sys2Proof.Laws.Bounded
end

