-- ==== Sys2Proof/Laws/Scalar.lean ====
section
/-! SUPPORT. What every instruction that changes s registers only does once it runs, and how a program fault ends a block. -/

namespace Sys2Proof.Machine

variable {x : Iss} {s : State} {i : Issue}

theorem OnlyGroup.subset {a b : List Nat} {t : State} (h : OnlyGroup x a s t) (hs : ∀ k ∈ a, k ∈ b) :
    OnlyGroup x b s t := by
  refine ⟨⟨h.core.rest, h.core.cores, fun q hq => h.core.regs q ?_, h.core.log⟩, h.groups, h.blocks, h.rest⟩
  simp only [inSubs, List.any_eq_false] at hq ⊢
  exact fun k hk => hq k (hs k hk)

/-- A group whose threads are as before advances. -/
theorem Iss.advance_scalar (g : Group) (hg : g.threads = x.grp.threads) (hh : g.hold = x.grp.hold) :
    x.wentOn (x.advance g) ∧ (∀ r, (x.advance g).sreg r = g.sreg r) ∧ (x.advance g).hold = x.grp.hold ∧
    ∀ th, ((x.advance g).thread th).same (x.grp.thread th) := by
  have ht : ∀ th, g.thread th = x.grp.thread th := fun th => by simp [Group.thread, hg]
  refine ⟨fun th => ?_, fun r => ?_, ?_, fun th => ?_⟩
  · unfold Iss.advance
    rw [Iss.advanceTo_thread, ht]
    split <;> rfl
  · unfold Iss.advance Group.sreg
    rw [(Iss.advanceTo_rest x _ x.next).1]
  · unfold Iss.advance
    rw [(Iss.advanceTo_rest x _ x.next).2.1, hh]
  · unfold Iss.advance
    rw [Iss.advanceTo_thread, ht]
    split <;> exact ⟨fun _ => rfl, rfl, rfl, rfl, rfl⟩

/-- An instruction that changes s registers only. -/
theorem Iss.commit_scalar (hi : x.At s) (subs : List Nat) (g : Group) (hg : g.threads = x.grp.threads)
    (hh : g.hold = x.grp.hold) : ScalarDone x subs g.sreg s (x.commit s g) := by
  obtain ⟨h1, h2, h3, h4⟩ := Iss.advance_scalar g hg hh
  refine ⟨⟨x.advance g, ?_, h1, h2, h3, h4⟩, ?_, OnlyGroup.setGroup _⟩
  · unfold Iss.commit; rw [State.group_setGroup, if_pos rfl]
  · unfold Iss.commit; rw [State.block_setGroup]; exact hi.block

theorem scalarRow_frame {h : ScalarSh} (hi : s.issuing i = some x) (hf : x.fetched s = true)
    (hr : x.runs h.shape (x.after s) = true) (eff : Iss → Group → Group) :
    ∃ t, scalarRow h i s eff = .next t ∧
      t.group x.core x.gslot = some (x.advance (if x.acts then eff x x.grp else x.grp)) ∧
      t.block x.core x.bslot = some x.blk ∧ OnlyGroup x [6] (x.after s) t := by
  unfold scalarRow
  rw [issueRow_of_runs hi hf hr]
  refine ⟨_, rfl, ?_, ?_, ?_⟩
  · unfold Iss.commit; rw [State.group_setGroup, if_pos rfl]
  · unfold Iss.commit; rw [State.block_setGroup]
    have := (State.issuing_at hi hf).block
    unfold State.block at this ⊢
    split <;> simpa [State.core_count] using this
  · unfold Iss.commit
    refine OnlyGroup.trans ?_ (OnlyGroup.setGroup _)
    have h0 : OnlyGroup x [6] (x.after s) ((x.after s).count (.core x.core 6) 0x10 1) := OnlyGroup.count (by decide) (by decide) _
    split
    · exact h0.trans (OnlyGroup.count (by decide) (by decide) _)
    · exact h0

/-- A scalar row that writes s[DST] (R79, R198). -/
theorem scalarRow_done {h : ScalarSh} (hi : s.issuing i = some x) (hf : x.fetched s = true)
    (hr : x.runs h.shape (x.after s) = true) (v : Iss → DWord) :
    ∃ t, scalarRow h i s (fun x g => g.setSreg x.sDst (v x)) = .next t ∧ ScalarDone x [6] (x.wroteS (v x)) (x.after s) t := by
  obtain ⟨t, ht, hg, hb, ho⟩ := scalarRow_frame hi hf hr (fun x g => g.setSreg x.sDst (v x))
  obtain ⟨h1, h2, h3, h4⟩ := Iss.advance_scalar (x := x) (if x.acts then x.grp.setSreg x.sDst (v x) else x.grp)
    (by split <;> rfl) (by split <;> rfl)
  refine ⟨t, ht, ⟨_, hg, h1, fun r => ?_, h3, h4⟩, hb, ho⟩
  rw [h2]
  unfold Iss.wroteS
  split
  · simp [Group.setSreg, Tab.get_put, Group.sreg, *]
  · simp [*]

end Sys2Proof.Machine
end

