-- ==== Sys2Proof/Tests/Slice0.lean ====
section
/-! SUPPORT. Tests: a smoke test of every check of well-formedness, small tests of single steps, and for every statement
that has hypotheses a witness of each of its clauses: a concrete state and operands that meet them together. -/

namespace Sys2Proof.Tests

open Sys2Proof Sys2Proof.Machine

/-! ### Small states -/

/-- A block of one group on core 0, from the first grant of partition 0. -/
def tDesc : Desc := ⟨0, 0, 7, 0, 0, 0, 0, 1, 64, 1, 1, 0, 0, 0x1000, 0, false, 0⟩

def tBlock : Block := ⟨tDesc, .running, [0], [0, 1], [0], [], [], [], .run, none, 0, 0,
  0, 0, 0, none, 0, false, false, [], none, none, none, 0, 0, false, false, false, [], [], [], false, false⟩

/-- A group of 32 threads at address 0, each with its number in g1 and the bits of 1.0 in g2. -/
def tGroup : Group := ⟨0, 0, [(1, 0x40), (3, 5)],
  (List.range 32).map fun n => { Thread.fresh 0 with g := [(1, BitVec.ofNat 32 n), (2, 0x3F80_0000)] }, [], [], .none, 0, 0,
  [], none⟩

/-- Core 0, with the line of address 0 in its read cache. -/
def tCore : Core := { Core.fresh with blocks := [(0, tBlock)], groups := [(0, tGroup)], rc := [⟨0, 0, 0x1234⟩], nextFill := 1 }

def tStack : MemUnit := { MemUnit.fresh with present := true, settled := true, trained := true, insvc := true }

def tDie : Die := { Die.fresh with
  pwrEn := true, powered := true, fwOk := true, testsDone := true, mapBuilt := true, keyed := true }

def tLaunch : Launch := ⟨7, 4, 1, 1, 1, 64, 1, 1, false, false, false, false, 255, 0, 0, 0x1000, 0, 0, false⟩

def tGrant : Grant := ⟨0, tLaunch, 0, .table 0, 1, 1, 0, false, false, none, 0, 0, false, 0, 0⟩

/-- A running partition on die 0, with the 126 GB of its stack 0. -/
def tPart : Part := { Part.fresh with
  st := .running, keys := true, peersIn := true, hbmSet := [0], hbmSize := 126 * 0x4000_0000, grants := [tGrant]
  owed := [.grant 0], nextUid := 1 }

/-- A ready part with partition 0 running one block on core 0, at beat 4. -/
def tRun : State := { State.reset with
  time := { Time.fresh with tsc := 8192 }
  map := [(0, ⟨some 0, false⟩)], cores := [(0, tCore)], dies := [(0, tDie)], mems := [(0, tStack)], parts := [(0, tPart)]
  boot := { Boot.fresh with rstN := true, pll := true, phase := .ready, firmware := true, katDone := true, ready := true
                            hub0 := { Hub.fresh with tested := true, cantle := 0xF }
                            hub1 := { Hub.fresh with tested := true, cantle := 0xF } } }

def tWith (g : Group) : State := { tRun with cores := [(0, { tCore with groups := [(0, g)] })] }
def tBlk (f : Block → Block) : State := { tRun with cores := [(0, { tCore with blocks := [(0, f tBlock)] })] }
def tOn (f : Core → Core) : State := { tRun with cores := [(0, f tCore)] }
def tP (f : Part → Part) : State := { tRun with parts := [(0, f tPart)] }

/-- The instruction that an issue on core 0 finds is fetched and has a property, in the state after its fetch. -/
def finds (s : State) (w0 w1 : DWord) (p : Iss → State → Bool) : Bool :=
  match s.issuing ⟨0, 0, w0, w1, .clean⟩ with
  | some x => x.fetched s && p x (x.after s)
  | none => false

/-- What exec answers is a next state with a property. -/
def goes (c : Instr) (s : State) (p : State → Bool) : Bool :=
  match exec c s with
  | .next t => p t
  | _ => false

/-! ### Well-formedness: an ill-formed term for each check, and a term at the check's bound -/

theorem smoke_cores : Instr.wf (.arrayTake 1280) = false ∧ Instr.wf (.nop ⟨1280, 0, 0, 0, .clean⟩) = false ∧
    Instr.wf (.registerWrite (.priv 1280) 0 0) = false ∧ Instr.wf (.readRequest (.ni 1280 0) .clean) = false ∧
    Instr.wf (.lineWrite (.apply ⟨1280, 0, 0⟩) .clean) = false ∧ Instr.wf (.blockMoved 0 ⟨0, []⟩ 1280) = false ∧
    Instr.wf (.blockMoved 1279 ⟨15, []⟩ 1279) = true := by decide

theorem smoke_groups_and_slots : Instr.wf (.nop ⟨0, 32, 0, 0, .clean⟩) = false ∧ Instr.wf (.seamBegin 0 16) = false ∧
    Instr.wf (.barrierTimeout 0 (.barG 0 16)) = false ∧ Instr.wf (.barrierTimeout 0 (.barB 16 0)) = false ∧
    Instr.wf (.barrierTimeout 0 (.wbeat 32 0 0)) = false ∧ Instr.wf (.rdmaRetryTimeout ⟨0, 16, 0⟩) = false ∧
    Instr.wf (.nop ⟨1279, 31, 0, 0, .clean⟩) = true ∧ Instr.wf (.barrierTimeout 1279 (.barB 15 15)) = true := by decide

theorem smoke_partitions : Instr.wf (.cmdtNop ⟨8, []⟩) = false ∧ Instr.wf (.lockExpiry (.partition 8)) = false ∧
    Instr.wf (.zeroise 0 16) = false ∧ Instr.wf (.notice 0 16 0 0 0) = false ∧
    Instr.wf (.beatBoundary ⟨0, 0, 0, 0, 0, false, [(8, 0)], ⟨[], [], 0, [], []⟩, []⟩) = false ∧
    Instr.wf (.beatBoundary ⟨0, 0, 0, 0, 0, false, [], ⟨[], [], 0, [], []⟩, [8]⟩) = false ∧
    EnergyIn.wf ⟨[⟨8, 0, 0, 0⟩], [], 0, [], []⟩ = false ∧ EnergyIn.wf ⟨[], [⟨8, 0, 0, 0⟩], 0, [], []⟩ = false ∧
    EnergyIn.wf ⟨[], [], 0, [(8, 0, 0)], []⟩ = false ∧ EnergyIn.wf ⟨[], [], 0, [], [(1280, 0)]⟩ = false ∧
    Instr.wf (.beatBoundary ⟨0, 0, 0, 0, 0, false, [(7, 0)], ⟨[⟨7, 0, 0, 0⟩], [], 0, [(7, 0, 0)], [(1279, 0)]⟩, [7]⟩) = true ∧ Instr.wf (.cmdtNop ⟨7, []⟩) = true := by decide

theorem smoke_dies : Instr.wf (.dieReport 8) = false ∧ Instr.wf (.coreHardwareFault 0 168 1) = false ∧
    Instr.wf (.exchangeReduceBeat 0 ⟨0, []⟩ [8]) = false ∧ Instr.wf (.thermalTrip 10 0) = false ∧
    Instr.wf (.startPhaseTimeout 6 168) = false ∧ Instr.wf (.startPhaseTimeout 0 2) = false ∧
    Instr.wf (.coreHardwareFault 7 167 1) = true ∧ Instr.wf (.startPhaseTimeout 6 (7 * 256 + 167)) = true := by decide

theorem smoke_links : Instr.wf (.tlDelayDone 64 []) = false ∧ Instr.wf (.bridgeRetrain 35 ⟨0, 0⟩) = false ∧
    Instr.wf (.bridgeTransfer 0 26 ⟨0, true⟩) = false ∧ Instr.wf (.bridgeTransfer 25 9 ⟨0, true⟩) = true ∧ Instr.wf (.bridgeRetrain 34 ⟨0, 0⟩) = true ∧ Instr.wf (.cageModuleRemoved 69) = false ∧
    Instr.wf (.ethLinkChange 5 false 0 false) = false ∧ Instr.wf (.evlogSel (.session 0) 2 0) = false ∧
    Instr.wf (.cageModuleRemoved 68) = true := by decide

theorem smoke_memories : Instr.wf (.patrolScrub 24 .clean) = false ∧ Instr.wf (.stackTrip 16) = false ∧
    Instr.wf (.lpddrTrained 8 ⟨false, false, false, false, 0, 0, [], 0, 0⟩ ⟨false, 0, []⟩ false false) = false ∧
    Instr.wf (.patrolScrub 23 .clean) = true := by decide

theorem smoke_channels : Instr.wf (.leakyBucketLeak (.lane 0 4)) = false ∧ Instr.wf (.leakyBucketLeak (.pseudo 0 32)) = false ∧
    Instr.wf (.leakyBucketLeak (.lpx 0 8)) = false ∧ Instr.wf (.leakyBucketLeak (.phys 0 168)) = false ∧
    Instr.wf (.leakyBucketLeak (.reservation 0 8)) = false ∧ Instr.wf (.leakyBucketLeak (.pseudo 15 31)) = true := by decide

theorem smoke_runs_and_rounds : Instr.wf (.knownAnswerRuns (.core 0 168) true 0) = false ∧
    Instr.wf (.knownAnswerRuns (.way 8 0) true 0) = false ∧ Instr.wf (.knownAnswerRuns (.die 8) true 0) = false ∧
    Instr.wf (.knownAnswerRuns (.hub 2 0) true 0) = false ∧
    Instr.wf (.managementRound ⟨[(16, 0)], [], [], [], 0, 0, 0, 0, [], [], [], [], false⟩) = false ∧
    Instr.wf (.managementRound ⟨[], [(8, 0, false)], [], [], 0, 0, 0, 0, [], [], [], [], false⟩) = false ∧
    Instr.wf (.managementRound ⟨[], [], [], [(2, 0)], 0, 0, 0, 0, [], [], [], [], false⟩) = false ∧
    Instr.wf (.managementRound ⟨[], [], [], [], 0, 0, 0, 0, [], [(0, 4)], [], [], false⟩) = false ∧
    Instr.wf (.managementRound ⟨[], [], [], [], 0, 0, 0, 0, [], [], [2], [], false⟩) = false ∧
    Instr.wf (.managementRound ⟨[(15, 0)], [], [], [(1, 4)], 0, 0, 0, 0, [], [(1, 3)], [1], [], false⟩) = true := by decide

/-! ### Issue commands: a legal word of every row -/

/-- A legal word, and its extension word or 0, of each row of `issueRows` in its order. -/
def tWords : List (Nat × Nat) :=
  [(0x0, 0x0), (0x400000000000, 0x0), (0x800000000000, 0x0),
   (0xC00000000000, 0x0), (0x1000000000000, 0x0), (0x401400000000000, 0x0),
   (0x401800000000000, 0x0), (0x401C00000000000, 0x0), (0x2000000000000, 0x0),
   (0x2400000000000, 0x0), (0x402800000000000, 0x0), (0x402C00000000000, 0x0),
   (0x3000000000000, 0x0), (0x3484000001010, 0x0), (0x3800004000400, 0x0),
   (0x3C00700000400, 0x0), (0x4000000000000, 0x0), (0x4400000000000, 0x0),
   (0x404800000000000, 0x0), (0x4C00241002000, 0x0), (0x405000000000000, 0x0),
   (0x405400000000000, 0x0), (0x405800000000000, 0x0), (0x405C00000000000, 0x0)] ++
  [(0x40600000440C000, 0x0), (0x6400000000000, 0x0), (0x406800000000000, 0x0),
   (0x406C00000000000, 0x0), (0x407000000000000, 0x0), (0x7400000000000, 0x0),
   (0x7800000000000, 0x0), (0x8000000000000, 0x0), (0x8400000000000, 0x0),
   (0x8800000000000, 0x0), (0x8C00000000000, 0x0), (0x9000000000000, 0x0),
   (0x9400000000000, 0x0), (0x40A010010004000, 0x0), (0xA400000000000, 0x0),
   (0xA800000000000, 0x0), (0xAC00000000000, 0x0), (0xC020000002000, 0x0),
   (0xC400000000400, 0x0), (0xC800000000000, 0x0), (0x1800000000000000, 0xF040001000008800),
   (0x1800400000000000, 0xF000201009400180), (0x1800800000000000, 0xF0A10040040C2600), (0x1400C00002080200, 0x0)] ++
  [(0x1001000000000000, 0x0), (0x1001400000000000, 0x0), (0x1001800000000000, 0x0),
   (0x1001C00000000000, 0x0), (0x1002000000000000, 0x0), (0x1402400000000000, 0x0),
   (0x1402800000000000, 0x0), (0x1402C00000000000, 0x0), (0x1403041010001000, 0x0),
   (0x1403400000000000, 0x0), (0x1403800000000000, 0x0), (0x1003E04902000000, 0x0),
   (0x1004000000000000, 0x0), (0x1004400000000000, 0x0), (0x1004800000000000, 0x0),
   (0x2000000000000000, 0x0), (0x2800400000000000, 0xF000000000000000), (0x2000800000000000, 0x0),
   (0x2000C00000000000, 0x0), (0x2001000000000000, 0x0), (0x3000000000000000, 0x0),
   (0x3000400000000000, 0x0), (0x3000800000000000, 0x0), (0x3000C00000000000, 0x0)] ++
  [(0x3001000200400000, 0x0), (0x3001400000620000, 0x0), (0x3001800000000000, 0x0),
   (0x3802000000000000, 0xF001000411008C10), (0x3802400000000000, 0xF001002000082C40), (0x4800000000000000, 0xF820380000402C10),
   (0x4800400000000000, 0xF200000040002004), (0x4000800000000000, 0x0), (0x4000C00000000000, 0x0),
   (0x5000000000000000, 0x0), (0x5400400000000000, 0x0), (0x5000800000000000, 0x0),
   (0x5400C00200002800, 0x0), (0x5001400000000000, 0x0), (0x6000000000000000, 0x0),
   (0x6000400000000000, 0x0), (0x6000800000000000, 0x0), (0x7000400000000000, 0x0),
   (0x7000800000000000, 0x0), (0x7000C00000000000, 0x0), (0x7001000000000000, 0x0)]

/-- Premises of the statements over `issueRows` and of every `Completes`: each row's word is found and runs. -/
theorem witness_issue_rows :
    (issueRows.zip tWords).length = 93 ∧ ∀ r, r ∈ issueRows.zip tWords →
      finds tRun (BitVec.ofNat 64 r.2.1) (BitVec.ofNat 64 r.2.2) (fun x s => x.runs r.1.2 s) = true := by decide +kernel
/-! ### The machine as a whole -/

theorem witness_step_runs_front :
    ({ tRun with pending := [.fastLimitAssert, .hourTick] } : State).pending = .fastLimitAssert :: [.hourTick] := rfl

theorem witness_step_keeps_inv : tRun.Inv ∧ ∃ t, step { tRun with pending := [.fastLimitAssert] } = .next t :=
  ⟨⟨by decide, by decide⟩, _, rfl⟩

theorem witness_exec_keeps_queue : ∃ t, exec .packageColdReset { tRun with pending := [.hourTick] } = .next t := ⟨_, rfl⟩

theorem witness_well_formed : Instr.wf (.arrayTake 1279) = true := by decide

/-! ### Management registers -/

/-- Session 1 is the package's, session 2 partition 0's. -/
def tHost : HostSide := { HostSide.fresh with
  sessions := [(1, ⟨.package, false, 4, 0, false, 0, [], [], 0, 0⟩), (2, ⟨.partition 0, false, 0, 9, false, 0, [], [], 0, 0⟩)], nextSess := 3 }
def tS : State := { tRun with host := tHost, parts := [(0, { tPart with session := some 2 })] }
/-- The same with the low word of XPLAN_START of partition 0 held for session 1. -/
def tHeld : State := { tS with latches := [⟨.session 1, none, some (0x4_002C, 5)⟩] }

/-- A register of a block that is no core's is writable on a path. -/
theorem writable_of {s : State} {p : Path} {a : Nat} {b : Blk} {o : Nat} {r : Reg}
    (h : (s.opens p false && !s.moveDue a && a % 4 == 0 && locate a == some (b, o) && regAt a == some r && !r.perf && !s.outOfReach p a &&
      s.mayWrite p b) = true) (hb : ∀ c sub, b ≠ .core c sub) : s.writable p a b o r := by
  simp only [Bool.and_eq_true, beq_iff_eq, Bool.not_eq_true'] at h
  exact ⟨h.1.1.1.1.1.1.1, h.1.1.1.1.1.1.2, h.1.1.1.1.1.2, h.1.1.1.1.2, h.1.1.1.2, h.1.1.2, h.1.2, h.2, fun c sub e => absurd e (hb c sub)⟩

theorem witness_register_writes :
    (∃ b o r, tS.writable (.session 1) 0x1008 b o r ∧ tS.plainAt b o = true ∧ r.half = 0 ∧
      (tS.latch (.session 1)).wr = none) ∧
    (0x1008 % 4 = 0) ∧ (tS.opens (.session 2) false = true ∧ (2 ≠ 4 ∨ 0x1008 % 4 ≠ 0)) ∧
    (tS.opens (.session 2) false = true ∧ (4 ≠ 4 ∨ 0x1009 % 4 ≠ 0)) :=
  ⟨⟨.time, 8, (regAt 0x1008).get (by decide +kernel), writable_of (by decide +kernel) nofun, by decide +kernel, by decide +kernel,
    by decide +kernel⟩, by decide, by decide +kernel, by decide +kernel⟩

theorem witness_64_bit_writes :
    (∃ b o r, tS.writable (.session 2) 0x4_0028 b o r ∧ r.half = 1) ∧
    (∃ b o r q, tHeld.writable (.session 1) 0x4_002C b o r ∧ (tHeld.plainAt b o = true ∨ ∃ p, b = .xplan p ∧ o = 0x2C) ∧
      r.half = 2 ∧ r.rw = 0xFFFF_FFFF ∧ 4 ≤ 0x4_002C ∧ regAt (0x4_002C - 4) = some q ∧ q.rw = 0xFFFF_FFFF ∧ r.w1c = 0 ∧
      q.w1c = 0 ∧ (tHeld.latch (.session 1)).wr = some (0x4_002C, 5)) ∧
    ((tHeld.latch (.session 1)).wr = some (0x4_002C, 5) ∧ 0x1008 ≠ 0x4_002C ∧ tHeld.opens (.session 1) false = true ∧
      tHeld.moveDue 0x1008 = false ∧ goes (.registerWrite (.session 1) 0x1008 3) tHeld (fun _ => true) = true) ∧
    (tHeld.opens (.session 1) true = true ∧ tHeld.moveDue 0x1008 = false ∧
      goes (.regread 1 0x1008 4) tHeld (fun _ => true) = true) ∧
    ((regAt 0x1000).any (fun r => r.half == 1) = true ∧ tHeld.moveDue 0x1000 = false ∧
      goes (.lowWordRead (.session 1) 0x1000) tHeld (fun _ => true) = true) ∧
    (∃ b o r, tS.writable (.session 1) 0x4_002C b o r ∧ r.half = 2 ∧ ∀ w, (tS.latch (.session 1)).wr ≠ some (0x4_002C, w)) :=
  ⟨⟨.xplan 0, 0x28, (regAt 0x4_0028).get (by decide +kernel), writable_of (by decide +kernel) nofun, by decide +kernel⟩,
    ⟨.xplan 0, 0x2C, (regAt 0x4_002C).get (by decide +kernel), (regAt 0x4_0028).get (by decide +kernel),
      writable_of (by decide +kernel) nofun, .inr ⟨0, rfl, rfl⟩, by decide +kernel⟩,
    by decide +kernel, by decide +kernel, by decide +kernel,
    ⟨.xplan 0, 0x2C, (regAt 0x4_002C).get (by decide +kernel), writable_of (by decide +kernel) nofun, by decide +kernel,
      fun w h => by simp [State.latch, tS, tRun, State.reset, State.cold] at h⟩⟩

theorem witness_register_reads :
    (tS.opens (.session 1) true = true ∧ (regAt 0x1000).any (fun r => r.half == 1) = true ∧
      tS.moveDue 0x1000 = false ∧ tS.outOfReach (.session 1) 0x1000 = false) ∧
    (tS.opens (.session 2) true = true ∧ (regAt 0x4_1028).any (fun r => r.half == 1) = true ∧ tS.moveDue 0x4_1028 = false ∧
      tS.outOfReach (.session 2) 0x4_1028 = true) ∧
    (tS.opens (.session 2) true = true ∧ tS.moveDue 0x10 = false ∧ 0x10 % 4 = 0 ∧ tS.outOfReach (.session 2) 0x10 = false ∧
      (regAt 0x10).any (fun r => r.half == 1) = false) ∧
    (0x4_1000 % 4 = 0 ∧ tS.moveDue 0x4_1000 = false ∧ tS.outOfReach (.session 2) 0x4_1000 = true) ∧
    (tS.opens (.session 2) true = true ∧ (8 ≠ 4 ∨ 0x10 % 4 ≠ 0)) := by decide +kernel

theorem witness_package_id :
    (tS.opens (.session 1) false = true ∧ tS.mayWrite (.session 1) .pkg = true ∧ (tS.regWord 0x10).getLsbD 31 = false) ∧
    (let s := { tS with regs := [(0x10, 0xC000_0005)] }
     s.opens (.session 2) false = true ∧ (s.regWord 0x10).getLsbD 31 = true) ∧
    goes (.partitionReset 0) (tP fun q => { q with st := .resetting, resetPend := some 4 }) (fun _ => true) = true := by
  decide +kernel

theorem witness_special_writes :
    (tS.opens (.session 1) false = true ∧ 0xA014 % 4 = 0 ∧ locate 0xA014 = some (.mf, 0x14) ∧
      (regAt 0xA014).any (fun r => r.perf && r.half == 2) = true ∧ Blk.mf.base + 0x14 = 0xA014 ∧
      tS.outOfReach (.session 1) 0xA014 = false ∧ tS.moveDue 0xA014 = false ∧ tS.mayWrite (.session 1) .mf = true) ∧
    (1 < 2 ∧ tS.outOfReach (.session 1) 0x400C = false) ∧
    ((2 : Word).getLsbD 1 = true ∧ tS.outOfReach (.session 2) (Blk.core 0 7).base = false ∧
      tS.moveDue (Blk.core 0 7).base = false ∧ (tS.physOf 0).isSome = true) ∧
    ((0x8000_0000 : Word).getLsbD 31 = true ∧ tS.outOfReach (.session 2) ((Blk.core 0 7).base + 4) = false ∧
      tS.moveDue ((Blk.core 0 7).base + 4) = false) := by
  decide +kernel

def tRec (beat : Nat) : Rec := ⟨BitVec.ofNat 64 (2048 * beat), 0, 0x1304, 0, 0xF, false, false, 0⟩

theorem witness_beats_and_records :
    tRun.boot.pll = true ∧
    (let s := { tRun with log := { Log.fresh with flight := [tRec 3, tRec 2] } }
     s.log.flight[0]? = some (tRec 3) ∧ s.recHeld (tRec 3) = false ∧ s.time.tsc.toNat / 2048 < (tRec 3).beat + 2 ∧
     s.log.flight[1]? = some (tRec 2) ∧ s.recHeld (tRec 2) = false ∧ (tRec 2).beat + 2 ≤ s.time.tsc.toNat / 2048) := by
  decide +kernel

/-! ### Thread groups -/

theorem witness_block_admission : 0 < 8 ∧ 0 < 1280 ∧ (tRun.part 0).nextGrant = some tGrant ∧
    (tRun.part 0).afterHeld tGrant = false ∧ tRun.qualifies (tGrant.desc 0 0) 0 = true ∧
    (tRun.displacedOn 0).all (fun b => !tRun.qualifies b.2.2.desc 0) = true ∧ 0 ∉ tRun.cinch.gated ∧
    ((tRun.core 0).room (tGrant.desc 0 0)).isSome = true := by decide +kernel

/-- A cluster of two blocks on cores 0 and 1. -/
def tPair (f : Block → Block) : State := { tRun with
  map := [(0, ⟨some 0, false⟩), (1, ⟨some 1, false⟩)]
  cores := [0, 1].map fun n => (n, { tCore with blocks := [(0, f { tBlock with
    desc := { tDesc with csize := 2, crank := n, lin := n, home := n } })] }) }

theorem witness_group_events :
    (let s := tPair fun b => { b with st := .admitted }
     (s.block 0 0).any (fun b => b.st == .admitted && (s.mates 0 0).length == b.desc.csize) = true ∧
     s.allBlocks (s.liveMates 0 0) (fun _ _ k => k.st == .admitted && !k.stopped) = true) ∧
    (let g := { tGroup with
       consec := guardLimit, waited := [(8, 4096)], threads := Thread.fresh 0 :: List.replicate 31 (Thread.fresh 8) }
     (tWith g).group 0 0 = some g ∧ g.guardDue = true) ∧
    (let w : Wd := ⟨.barG 0 15, 4096, 0⟩
     let b := { tBlock with wds := [w] }
     let s := tBlk fun _ => b
     (0, b) ∈ (s.core 0).blocks ∧ s.block 0 0 = some b ∧ b.st = .running ∧ w ∈ b.wds ∧ b.wdLimit ≤ w.count ∧
     ∀ e, e ∈ (s.core 0).blocks → ∀ v, v ∈ e.2.wds → v.key = w.key → e = (0, b) ∧ v = w) ∧
    (let s := tPair fun b => { b with st := .stopping }
     (s.block 0 0).any (fun b => b.st == .stopping) = true ∧ s.allBlocks (s.mates 0 0) (fun _ _ k => k.settled) = true) := by
  decide +kernel

/-! ### Issue commands -/

/-- The n-th legal word. -/
def tW (n : Nat) : DWord × DWord :=
  match tWords[n]? with
  | some w => (BitVec.ofNat 64 w.1, BitVec.ofNat 64 w.2)
  | none => (0, 0)

/-- The n-th word is found and has a property. -/
def findsW (n : Nat) (s : State) (p : Iss → State → Bool) : Bool := finds s (tW n).1 (tW n).2 p

/-- Each row's word with PNEG and predicate 0 breaks R71. -/
theorem witness_illegal_instructions : ∀ r, r ∈ issueRows.zip tWords →
    finds tRun (BitVec.ofNat 64 (r.2.1 ||| 2 ^ 57)) (BitVec.ofNat 64 r.2.2) (fun x _ =>
      x.cls == r.1.2.cls && x.opc == r.1.2.opc && !(x.headerOk && r.1.2.legal x && (r.1.2.gs x).all spanOk)) = true := by
  decide +kernel

/-- In a block of no registers, each word that names one is out of range. -/
theorem witness_registers_beyond :
    let s := tBlk fun b => { b with desc := { b.desc with rpt := 0 } }
    ∀ r, r ∈ issueRows.zip tWords → finds s (BitVec.ofNat 64 r.2.1) (BitVec.ofNat 64 r.2.2) (fun x _ =>
      x.cls == r.1.2.cls && x.opc == r.1.2.opc && (x.headerOk && r.1.2.legal x && (r.1.2.gs x).all spanOk) &&
      ((r.1.2.gs x).all (fun p => p.2 == 0) || (rangeReg x.blk.desc.rpt (r.1.2.gs x)).isSome)) = true := by decide +kernel

/-- With a load under way for every register, each word that names one waits; wbeat waits for beat 5 in beat 4. -/
theorem witness_instructions_wait :
    (let s := tWith { tGroup with gWait := [⟨0, BitVec.allOnes 32, 0, 64⟩], sWait := (List.range 64).map fun n => (0, n) }
     ∀ r, r ∈ issueRows.zip tWords → finds s (BitVec.ofNat 64 r.2.1) (BitVec.ofNat 64 r.2.2) (fun x _ =>
       (x.headerOk && r.1.2.legal x && (r.1.2.gs x).all spanOk) && (rangeReg x.blk.desc.rpt (r.1.2.gs x)).isNone &&
       (((r.1.2.gs x).all (fun p => p.2 == 0) && (r.1.2.ss x).isEmpty) || x.waits r.1.2 s)) = true) ∧
    (let s := tWith { tGroup with s := [(0, 5)] }
     findsW 90 s (fun x s => x.runs shWbeat s && x.acts && decide (s.time.tsc.toNat / 2048 < (x.grp.sreg (x.f 39 34)).toNat))
       = true) := by decide +kernel

theorem witness_lane_flag : findsW 40 tRun (fun x s => x.runs shFlag.shape s && !s.reportsDue 0 0) = true := by
  decide +kernel

/-- A target of 0, and one of 4. -/
theorem witness_jmp :
    findsW 83 tRun (fun x s => x.runs shJmp s && (x.grp.sreg (x.f 45 40)).toNat % 8 == 0 && !x.acting.isEmpty) = true ∧
    (let s := tWith { tGroup with s := [(0, 4)] }
     findsW 83 s (fun x s => x.runs shJmp s && !x.acting.isEmpty && (x.grp.sreg (x.f 45 40)).toNat % 8 == 4) = true) := by
  decide +kernel

/-- A group whose threads from 1 on wait at a barrier. -/
def tAt (w : Wait) : State := tWith { tGroup with
  threads := Thread.fresh 0 :: List.replicate 31 { Thread.fresh 0 with wait := w } }

theorem witness_precise_faults :
    findsW 86 (tAt (.barB 3)) (fun x s => x.runs shBarG s && x.grp.alive.contains 1 &&
      (x.grp.thread 1).wait == .barB 3 && x.grp.alive.all fun u => (x.grp.thread u).wait.barrier == none ||
        (x.grp.thread u).wait == .barB 3) = true ∧
    (∀ r, r ∈ [(63, shMma 0 false), (65, shMma 2 true), (67, shDrain)] →
      let s := tWith { tGroup with threads := Thread.fresh 0 :: List.replicate 31 (Thread.fresh 8) }
      findsW r.1 s (fun x s => x.runs r.2 s && decide (x.path.length < 32)) = true) := by decide +kernel

/-- The last arrival, and one with threads that go on elsewhere. -/
theorem witness_barriers :
    (∀ s, s ∈ [tAt (.barG 0), tWith { tGroup with threads := Thread.fresh 0 :: List.replicate 31 (Thread.fresh 8) }] →
      findsW 86 s (fun x s => x.runs shBarG s && x.grp.alive.all fun u => (x.grp.thread u).wait.barrier == none ||
        (x.grp.thread u).wait == .barG (x.f 45 42)) = true) ∧
    (∀ s, s ∈ [tAt (.barB 0), tWith { tGroup with threads := Thread.fresh 0 :: List.replicate 31 (Thread.fresh 8) }] →
      findsW 87 s (fun x s => x.runs shBarB s && x.blk.gslots.contains x.gslot && x.grp.alive.all fun u =>
        (x.grp.thread u).wait.barrier == none || (x.grp.thread u).wait == .barB (x.f 45 42)) = true) := by decide +kernel

theorem witness_fence :
    findsW 88 tRun (fun x s => x.runs shFence s && !s.groupBusy 0 0 && decide (x.f 41 40 ≤ 1)) = true ∧
    finds tRun ((tW 88).1 ||| 3 <<< 40) 0 (fun x s => x.runs shFence s && !s.groupBusy 0 0 && x.f 41 40 == 3) = true := by
  decide +kernel

theorem witness_time_reads :
    finds tRun 0x7000_0000_0000_0000 0 (fun x s => x.runs shTsc s) = true ∧
    findsW 90 tRun (fun x s => x.runs shWbeat s &&
      decide ((x.grp.sreg (x.f 39 34)).toNat ≤ s.time.tsc.toNat / 2048)) = true ∧
    (let k := { tGroup with threads := List.replicate 32 { Thread.fresh 0 with wait := .wbeat 4 } }
     (tWith k).group 0 0 = some k ∧ (k.threads[31]?).isSome = true ∧ (k.thread 31).exited = false ∧ (k.thread 31).pc = 0 ∧
       (k.thread 31).wait = .wbeat 4 ∧ (4 : DWord).toNat ≤ (tWith k).time.tsc.toNat / 2048) := by decide +kernel

/-! ### The matrix engine -/

theorem witness_matrix_instructions :
    findsW 63 tRun (fun x s => x.runs (shMma 0 false) s && x.path.length == 32 && x.canStage s) = true ∧
    findsW 65 tRun (fun x s => x.runs (shMma 2 true) s && x.path.length == 32 && x.canStage s) = true ∧
    finds tRun (tW 64).1 0xF000_0000_0000_0000 (fun x s => x.runs shMmaS s && !x.bobHeld s && x.canStage s &&
      decide (x.ext 11 0 * 256 + 8 * (x.ext 19 12 + 1) ≤ x.blk.spadSize)) = true ∧
    (let s := tBlk fun b => { b with desc := { b.desc with pages := 2 } }
     findsW 66 s (fun x s => x.runs shSmma s && !x.bobHeld s && x.canStage s && x.acting.all fun th =>
      (x.grp.reg th x.mA).toNat % 64 == 0 && (x.grp.reg th x.mB).toNat % 64 == 0 &&
      x.blk.smmaOk x.layA (x.grp.reg th x.mA).toNat && x.blk.smmaOk x.layB (x.grp.reg th x.mB).toNat) = true) ∧
    (let s := tOn fun c => { c with sets := [(0, { AccSet.fresh with holder := some 0 })] }
     let ok (x : Iss) (s : State) : Bool := x.runs shDrain s && x.path.length == 32 && ((s.core 0).accSet x.mSet).holder == some x.gslot &&
       !((s.core 0).accSet x.mSet).releasing && (s.core 0).staged.isNone && (s.core 0).drains.all fun d => d.vals.isNone
     findsW 67 s (fun x s => ok x s && x.form == 0) = true ∧
     finds s ((tW 67).1 ||| 2 <<< 58) 0xF000_0000_0000_0000 (fun x s => ok x s && x.form == 2 && x.drainAddr.toNat % 64 == 0 &&
       x.ext 32 32 == 0 && (x.drainCheck s).isNone) = true ∧
     let q := { s with cores := s.cores.mapAll fun (c : Core) => { c with blocks := c.blocks.mapAll fun b => { b with
       desc := { b.desc with pages := 16 } } } }
     finds q ((tW 67).1 ||| 2 <<< 58) 0xF000_0001_0000_0000 (fun x s => x.runs shDrain s && x.ext 32 32 == 1 &&
       decide (x.drainAddr.toNat + drainBytes x.fmtA ≤ x.blk.spadSize) && !x.spadHeld s true) = true) := by decide +kernel

def tFrag : Frag := ⟨[], [], []⟩
def tStaged (k : MxKind) (f : Option Frag) : Staged := ⟨k, 0, 0, 0, 0, false, false, false, f, f, .regs 0⟩

theorem witness_matrix_engine :
    (let s := tOn fun c => { c with staged := some (tStaged .t (some tFrag)) }
     (s.core 0).staged = some (tStaged .t (some tFrag)) ∧ s.engineOn 0 0 = true) ∧
    (let b := { tBlock with desc := { tDesc with pages := 2 } }
     let s := { tRun with cores := [(0, { tCore with blocks := [(0, b)], staged := some (tStaged (.s 0 1 0) none) })] }
     (s.core 0).staged = some (tStaged (.s 0 1 0) none) ∧ s.engineOn 0 0 = true ∧ s.group 0 0 = some tGroup ∧ s.block 0 0 = some b ∧
     (match stepImages b (tStaged (.s 0 1 0) none) 0 0 with | .inr _ => true | .inl _ => false) = true) ∧
    (let s := tOn fun c => { c with staged := some (tStaged (.sm [(31, 0, 64)]) none) }
     (s.core 0).staged = some (tStaged (.sm [(31, 0, 64)]) none) ∧ s.engineOn 0 0 = true ∧ s.group 0 0 = some tGroup ∧
     s.block 0 0 = some tBlock) ∧
    (let s := tOn fun c => { c with drains := [⟨0, 1, 0, .regs 0, none, false, false, false⟩] }
     (s.core 0).drains.head? = some ⟨0, 1, 0, .regs 0, none, false, false, false⟩ ∧ s.engineOn 0 0 = true) := by decide +kernel

theorem witness_matrix_drain :
    (let d : Drain := ⟨0, 1, 1, .regs 48, some (List.replicate 1024 0x3F80_0000), false, false, false⟩
     let g := { tGroup with gWait := [⟨201, BitVec.allOnes 32, 48, 16⟩] }
     let s := { tRun with cores := [(0, { tCore with groups := [(0, g)], drains := [d] })] }
     (s.core 0).drains.head? = some d ∧ s.engineOn 0 d.grp = true ∧ s.group 0 d.grp = some g ∧
     (⟨drainTag d.set, BitVec.allOnes 32, 48, if d.fmt = 0 then 32 else 16⟩ : Owe) ∈ g.gWait ∧ s.block 0 0 = some tBlock) ∧
    (let d : Drain := ⟨0, 1, 1, .mem 64, some (List.replicate 1024 0x3F80_0000), false, false, false⟩
     let s := tOn fun c => { c with drains := [d] }
     (s.core 0).drains.head? = some d ∧ s.engineOn 0 d.grp = true ∧ (s.stage 0 0 0 [.glob 64 (d.image (List.replicate 1024 0x3F80_0000))]).isSome = true) ∧
    (let d : Drain := ⟨0, 1, 1, .spad 0, some (List.replicate 1024 0x3F80_0000), false, false, false⟩
     let s := tOn fun c => { c with drains := [d] }
     (s.core 0).drains.head? = some d ∧ s.engineOn 0 d.grp = true ∧ (s.stage 0 0 0 [.spad 0 (d.image (List.replicate 1024 0x3F80_0000))]).isSome = true) := by
  decide +kernel

/-! ### Memory, bobbin and DMA -/

/-- A word with SPAD, and one of scope 3. -/
def tSpad (n : Nat) : DWord := (tW n).1 ||| 0x4_0000
def tScope (n k : Nat) : DWord := (tW n).1 ||| BitVec.ofNat 64 (k * 2 ^ 19)

/-- The block has staged line 0. -/
def tStagedLine : State := tBlk fun b => { b with wset := [⟨0, 0x55, BitVec.allOnes 64, 0, false, false⟩] }

/-- Core 0 in a block of privileged software, with one thread; s0 holds an address. -/
def tBased (a : DWord) (one priv : Bool) : State := { tRun with cores := [(0, { tCore with
  blocks := [(0, { tBlock with desc := { tDesc with priv := priv } })]
  groups := [(0, { tGroup with
    s := [(0, a)]
    threads := if one then List.replicate 31 { Thread.fresh 8 with exited := true } ++ [Thread.fresh 0] else tGroup.threads })] })] }
/-- The n-th legal word under p1, which no thread has set. -/
def tOff (n : Nat) : DWord := (tW n).1 ||| 0x0040_0000_0000_0000

theorem witness_loads :
    (∀ r, r ∈ [(68, loadShape 0 false), (70, loadShape 2 true)] →
      finds tRun (tSpad r.1) 0 (fun x s => x.runs r.2 s && x.isSpad && x.memFree s false &&
        x.acting.all fun th => (x.blk.checkSpad x.bytes (x.spadOff th)).isNone) = true) ∧
    (∀ r, r ∈ [(68, loadShape 0 false, AccKind.plain), (70, loadShape 2 true, AccKind.other)] → ∀ a, a ∈ [0, 64] →
      findsW r.1 (tBased (BitVec.ofNat 64 a) false false) (fun x s => x.runs r.2.1 s && !x.isSpad && x.memFree s false &&
        (x.memChecks s r.2.2 x.acting).isNone && (x.acting.all fun th => match s.classify (x.addr th) with
          | .mgmt _ => false
          | _ => s.isLocal (lineOf (s.normal (x.addr th)))) &&
        ((s.core 0).niFree (byLine (x.globalReads s x.acting)).length).isSome && (s.core 0).reroute.isEmpty) = true) ∧
    finds (tBased 0x0500_0000_1008 true true) ((tW 68).1 ||| 0x40_0000) 0 (fun x s => x.runs (loadShape 0 false) s &&
      !x.isSpad && !x.drainHeld s && x.acting == [31] && (x.memChecks s .plain x.acting).isNone &&
      s.classify (x.addr 31) == .mgmt 0x1008 && !s.moveDue 0x1008) = true ∧
    finds tRun (tOff 73) 0 (fun x s => x.runs shLdS s && !x.drainHeld s && !x.acts) = true ∧
    (∀ a, a ∈ [0, 64] → findsW 73 (tBased (BitVec.ofNat 64 a) false false) (fun x s => x.runs shLdS s && !x.drainHeld s && x.acts &&
      (s.checkAccess x.blk .other 8 (x.addr 0)).isNone && ((s.core 0).niFree 1).isSome && (s.core 0).reroute.isEmpty &&
      (s.lineNow 0 0 true ⟨lineOf (s.normal (x.addr 0)), [⟨0, x.f 43 38, true, lineOff (s.normal (x.addr 0)), 8, 0⟩]⟩).isSome ==
        (a == 0)) = true) ∧
    findsW 74 (tBased 64 false false) (fun x s => x.runs shPrefetch s && !x.drainHeld s &&
      ((s.core 0).niFree x.acting.length).isSome && (s.core 0).reroute.isEmpty && x.acting.contains 31 &&
      (s.checkAccess x.blk .other 1 (x.addr 31)).isNone && s.isLocal (lineOf (s.normal (x.addr 31))) && s.rcOn 0 &&
      ((s.core 0).rcHit x.blk.acq (lineOf (s.normal (x.addr 31)))).isNone &&
      (s.lineNow 0 0 true ⟨lineOf (s.normal (x.addr 31)), [⟨0, 0, false, 0, 64, 0⟩]⟩).isNone) = true := by decide +kernel

/-- A group with one thread left, thread 31 at address 0. -/
def tOne : Group := { tGroup with threads := List.replicate 31 { Thread.fresh 8 with exited := true } ++ [Thread.fresh 0] }
def tLone : State := tWith tOne

theorem witness_stores :
    [(tW 69).1, tSpad 69].all (fun w => finds tLone w 0 fun x s => x.runs (storeShape 1 false) s && x.memFree s true &&
      (x.memChecks s .plain x.acting).isNone && (s.stage 0 0 0 (x.storeWrites s x.acting)).isSome) = true ∧
    [(tW 71).1, tSpad 71].all (fun w => finds tLone w 0 fun x s => x.runs (storeShape 3 true) s && x.memFree s true &&
      (x.memChecks s .other x.acting).isNone && decide (x.scope ≤ 1) && !s.groupBusy 0 0 &&
      (s.stage 0 0 0 (x.storeWrites s x.acting)).isSome) = true ∧
    finds tLone (tScope 71 3) 0 (fun x s => x.runs (storeShape 3 true) s && !x.isSpad && !x.drainHeld s &&
      !s.groupBusy 0 0 && (x.memChecks s .other x.acting).isNone && decide (2 ≤ x.scope) && !x.acting.isEmpty &&
      (s.stage 0 0 3 (x.storeWrites s x.acting)).isSome) = true ∧
    finds tLone (tScope 71 2 ||| 0x4_0000) 0 (fun x s => x.runs (storeShape 3 true) s && x.isSpad && x.memFree s true &&
      !s.groupBusy 0 0 && (x.memChecks s .other x.acting).isNone && decide (2 ≤ x.scope) && !x.acting.isEmpty)
      = true := by decide +kernel

/-- The block has staged the line that its one thread names, or none. -/
def tOneStaged (staged : Bool) : State := { tRun with cores := [(0, { tCore with
  blocks := [(0, { tBlock with wset := if staged then [⟨0, 0x55, BitVec.allOnes 64, 0, false, false⟩] else [] })]
  groups := [(0, tOne)] })] }

theorem witness_atomics :
    (∀ b, b ∈ [true, false] → findsW 72 (tOneStaged b) (fun x s => x.runs shAtom s && !x.drainHeld s && x.acting == [31] &&
      (x.memChecks s .atom x.acting).isNone && decide (x.scope ≤ 1) && decide ((s.core 0).linesUsed + 1 ≤ 8192) &&
      (match s.classify (x.addr 31) with | .mgmt _ => false | _ => true) &&
      ((byLine (x.globalReads s x.acting)).length == 1 && ((s.core 0).niFree 1).isSome && (s.core 0).reroute.isEmpty) &&
      (s.lineNow 0 0 false ⟨lineOf (s.normal (x.addr 31)),
        [⟨31, x.data, false, lineOff (s.normal (x.addr 31)), x.bytes, 0⟩]⟩).isSome == b) = true) ∧
    finds tRun (tScope 72 3) 0 (fun x s => x.runs shAtom s && !x.drainHeld s &&
      (x.memChecks s .atom x.acting).isNone && !x.acting.isEmpty && decide (2 ≤ x.scope) && !s.groupBusy 0 0 &&
      x.blk.atom.isNone) = true ∧
    finds tRun (tOff 72) 0 (fun x s => x.runs shAtom s && !x.drainHeld s && x.acting.isEmpty) = true := by decide +kernel

/-- An address past the end of the partition's HBM. -/
theorem witness_memory_checks :
    let s := tWith { tGroup with s := [(0, 0x20_0000_0000)] }
    ∀ r, r ∈ [(68, loadShape 0 false, AccKind.plain), (70, loadShape 2 true, AccKind.other), (69, storeShape 1 false, .plain),
        (71, storeShape 3 true, .other), (72, shAtom, .atom)] →
      findsW r.1 s (fun x s => x.runs r.2.1 s && x.memFree s true && !x.drainHeld s && !s.groupBusy 0 0 &&
        !x.mgmtMoves s && (x.memChecks s r.2.2 x.acting).isSome) = true := by decide +kernel

def tJob (merge done : Bool) : BobJob := ⟨0, merge, false, 0, 1, 0, 0, 1, 8, 0xFFFF_FFFF, [], done⟩
def tRoom : State := tBlk fun b => { b with desc := { b.desc with pages := 256 } }

theorem witness_bobbin :
    (∀ r, r ∈ [(75, shBob 8, false, 0), (76, shBob 9, true, 0), (76, shBob 9, true, 0x8000_0000)] →
      finds tRoom (tW r.1).1 (0xF000_0008_0000_4000 ||| r.2.2.2) (fun x s => x.runs r.2.1 s &&
        (x.grp.sreg x.base).toNat % 16 == 0 && !x.bobRange r.2.2.1 && decide ((s.core 0).bob.length < 4) &&
        !x.drainHeld s && !(s.core 0).tileReads 0 && (s.core 0).ptHolder.isNone && x.bMode == (r.2.2.2 != 0)) = true) ∧
    (∀ m, m ∈ [false, true] → (let s := tOn fun c => { c with bob := [tJob m false] }
     (s.core 0).bob = [tJob m false] ∧ s.engineOn 0 0 = true ∧ s.group 0 0 = some tGroup ∧ s.block 0 0 = some tBlock ∧
     (s.entries tBlock tGroup (tJob m false)).any (fun e => e.st == .live) = true ∧
     (s.entries tBlock tGroup (tJob m false)).all (fun e => e.st != .live ||
       (!s.viewPoison tBlock ((tJob m false).row e.i e.v) 16 &&
         (s.viewAbsent tBlock [] ((tJob m false).row e.i e.v) 16).isEmpty)) = true)) ∧
    (let s := tOn fun c => { c with bob := [tJob true true] }
     (s.core 0).bob = [tJob true true] ∧ s.engineOn 0 0 = true) := by decide +kernel

/-- A fill of `dst`, from its second row on. -/
def tDma (dst : DWord) (moved : Bool) : Dma :=
  ⟨0, 0, 0, 5, true, false, 0, dst, 0x0102_0304_0506_0708, 1, 2, 16, 16, 1, 0, [], moved⟩
/-- A copy of line 64 to the cluster's other member. -/
def tCopy : Dma := ⟨0, 0, 0, 5, false, true, 64, 0x04F0_0010_0000, 0, 64, 1, 0, 0, 0, 0, [], false⟩
def tMoving (e : Dma) : State := { tPair id with cores := (tPair id).cores.mapAll fun (c : Core) => { c with dma := [(63, e)] } }

theorem witness_dma :
    (∀ r, r ∈ [(77, shDma 0 false, false), (78, shDma 1 true, true)] →
      finds (tWith { tGroup with s := [] }) ((tW r.1).1 &&& 0xFFFF_C000_0000_0000) 0xF000_0000_0000_0008 (fun x s =>
        x.runs r.2.1 s && x.acts && (x.dmaChecks s r.2.2).isNone && ((s.core 0).dma.free 64).isSome && !x.spadHeld s true) = true ∧
      finds tRun (tOff r.1 &&& 0xFFFF_C000_0000_0000) 0xF000_0000_0000_0008 (fun x s => x.runs r.2.1 s && !x.acts) = true) ∧
    (let s := tOn fun c => { c with dma := [(0, tDma 0x0400_0000_0000 false)] }
     findsW 79 s (fun x s => x.runs shDmaWait s && x.acts && !x.dAll && x.dTag != 5) = true) ∧
    (∀ d, d ∈ [0x0400_0000_0000, 4096] → (let e := tDma (BitVec.ofNat 64 d) false
     let s := tOn fun c => { c with dma := [(63, e)] }
     (s.core 0).dma.find 63 = some e ∧ s.block 0 0 = some tBlock ∧ e.moved = false ∧ e.remote = false ∧ e.fill = true ∧
     tBlock.phase = .run ∧ tBlock.st = .running ∧ tBlock.stopped = false ∧ (s.core 0).dmaBehind e = false ∧
     (s.core 0).linesUsed ≤ 8192 ∧ (match s.classify e.nextPart.2.1 with | .perCore _ _ => true | _ => false) = (d != 4096) ∧
     (d = 4096 → (match s.classify e.nextPart.2.1 with | .cluster _ _ => true | _ => false) = false ∧
       (s.stage 0 0 0 [.glob e.nextPart.2.1 (s.dmaBytes tBlock e)]).isSome = true))) ∧
    (let s := tMoving tCopy
     (s.core 0).dma.find 63 = some tCopy ∧ (s.die (dieOfCore 0)).reloading = false ∧ s.classify tCopy.nextPart.2.1 = .cluster 1 0 ∧
     s.peerOf 0 0 1 = some (1, 0) ∧ (s.block 1 0).isSome = true ∧ (s.core 0).dmaBehind tCopy = false ∧
     (s.block 0 0).any (fun b => b.phase == .run && b.st == .running && !b.stopped &&
       (s.viewAbsent b [] tCopy.nextPart.1 tCopy.nextPart.2.2).isEmpty && !s.viewPoison b tCopy.nextPart.1 tCopy.nextPart.2.2)
       = true) ∧
    ((tOn fun c => { c with dma := [(63, tDma 0 true)] }).core 0).dma.find 63 = some (tDma 0 true) := by decide +kernel

/-! ### Homes -/

/-- A load of line 64 by group 0 that has reached no home yet. -/
def tNi : NiEntry := ⟨.load, 0, 0, 0, 0, 64, [⟨31, 5, false, 0, 4, 0⟩], 0, 0, none, 68, 1, false, none, none⟩
def tAtomNi : NiEntry := { tNi with kind := .atom 0 3 1 0 9, addr := 72, dests := [⟨31, 5, false, 0, 8, 0⟩] }
def tAsk (e : NiEntry) : State := tOn fun c => { c with ni := [(199, e)] }

/-- A message of package 1 for partition 0, as frame 7 of link 63 brought it. -/
def tArrived (mtype : Nat) : Arrived := ⟨0, 1, 0, 63, 0, 7, ⟨mtype, 0, 0, 0x0400_0005, 3, 0, 0, 0, 128, 0xFF, 0x99⟩⟩

theorem witness_home_reads :
    (((tAsk tNi).core 0).ni.find 199 = some tNi ∧ tNi.kind = .load ∧ tNi.answer = none ∧ tNi.refused = none ∧
      (tAsk tNi).niBehind 0 tNi = false ∧ (tAsk tNi).partOfCore 0 = some 0 ∧ (tAsk tNi).home 0 tNi.addr = some (0, 64) ∧
      (tAsk tNi).homeLost 0 = false ∧ ((tAsk tNi).die (dieOfMem 0)).keyed = true ∧ (tAsk tNi).homeHeld 0 64 = false ∧
      (tAsk tNi).unreadable 0 64 = false) ∧
    (let s := { tRun with inbox := [tArrived 1] }
     s.inbox[0]? = some (tArrived 1) ∧ (tArrived 1).msg.mtype = 1 ∧ s.inboxBehind 0 = false ∧ s.mf.tripped = false ∧
     s.msgHome 0 (tArrived 1).msg = some (0, 128) ∧ s.homeLost 0 = false ∧ s.homeHeld 0 128 = false ∧
     s.unreadable 0 128 = false) := by decide +kernel

/-- The block has committed a record of one line, 64, and a release line, 128. -/
def tLine (a : DWord) (rel : Nat) : SLine := ⟨a, 0x1122, 3, rel, false, false⟩
def tRecord (ls : List SLine) : SeamRec := ⟨4096, ls, [], none, false, 0, 128, [], [], []⟩
def tApply (ls : List SLine) : State := tBlk fun b => { b with log := [tRecord ls] }

theorem witness_line_writes :
    (let s := tApply [{ tLine 64 0 with made := true }, tLine 128 3]
     (s.block 0 0).any (fun b => ((b.applyLine 128).any fun x => !x.sent && s.relReady b x && s.isLocal x.addr &&
       s.home b.part x.addr == some (0, 128)) && (s.core 0).applyTurn 0 b && !s.logLost 0 b) = true ∧
     ((s.core 0).niFree 1).isSome = true ∧ s.homeLost 0 = false ∧ (s.die (dieOfMem 0)).keyed = true ∧
     s.homeHeld 0 128 = false ∧ (s.memUnit 0).allPoison = false ∧ s.poisoned 0 128 = false) ∧
    (let s := { tRun with inbox := [tArrived 2] }
     s.inbox[0]? = some (tArrived 2) ∧ (tArrived 2).msg.mtype = 2 ∧ s.inboxBehind 0 = false ∧ s.mf.tripped = false ∧
     s.msgHome 0 (tArrived 2).msg = some (0, 128) ∧ s.homeLost 0 = false ∧ s.homeHeld 0 128 = false ∧
     (s.memUnit 0).allPoison = false ∧ s.poisoned 0 128 = false) := by decide +kernel

theorem witness_home_atomics :
    let s := { tAsk tAtomNi with cores := [(0, { tCore with
      ni := [(199, tAtomNi)], blocks := [(0, { tBlock with journal := some ⟨9, []⟩ })] })] }
    (s.core 0).ni.find 199 = some tAtomNi ∧ tAtomNi.kind = .atom 0 3 1 0 9 ∧ 72 % 2 ^ 3 = 0 ∧ s.niBehind 0 tAtomNi = false ∧
    s.partOfCore 0 = some 0 ∧ s.home 0 tAtomNi.addr = some (0, 72) ∧ s.homeLost 0 = false ∧
    tAtomNi.answer = none ∧ tAtomNi.refused = none ∧
    (s.die (dieOfMem 0)).keyed = true ∧ s.homeHeld 0 72 = false ∧ s.unreadable 0 72 = false ∧
    (s.block 0 0).any (fun b => b.journal.any fun j => j.key == 9) = true := by decide +kernel

/-- A host window, its QP, and a block with a line for it. -/
def tWinAddr : DWord := 0x0600_0000_0000
def tWin (f : NiEntry → NiEntry) : State := { tApply [tLine tWinAddr 0] with
  parts := [(0, { tPart with windows := [(0, ⟨2, 0x7000, 5, 0x1000_0000⟩)] })]
  host := { HostSide.fresh with qps := [(2, ⟨0, 0, 2, 0, 1024, 6, 0, []⟩)] }
  cores := [(0, { tCore with
    ni := [(0, f { tNi with kind := .write, addr := tWinAddr })]
    blocks := [(0, { tBlock with log := [tRecord [{ tLine tWinAddr 0 with sent := true }]] })] })] }

/-- What the core owes to the group for entry 199. -/
def tOwed (e : NiEntry) (s : List (Nat × Nat)) : State := { tRun with cores := [(0, { tCore with
  ni := [(199, e)], groups := [(0, { tGroup with gWait := [⟨199, BitVec.ofNat 32 (2 ^ 31), 5, 1⟩], sWait := s })] })] }

theorem witness_answers :
    (let e := { tNi with answer := some (7, false) }
     let s := tOwed e []
     (s.core 0).ni.find 199 = some e ∧ e.kind = .load ∧ e.dead = false ∧ (s.group 0 e.grp).isSome = true ∧
     (s.die (dieOfCore 0)).reloading = false ∧ (s.core 0).blocks.all (fun q => q.2.atom.isNone) = true ∧
     e.dests = [⟨31, 5, false, 0, 4, 0⟩] ∧ (s.group 0 e.grp).any (fun g => e.dests.all fun q =>
       !q.s && g.gWait.contains ⟨199, BitVec.ofNat 32 (2 ^ q.thread), q.reg, q.span⟩ && g.hold == .none) = true) ∧
    (let q : NiDest := ⟨0, 5, true, 0, 8, 0⟩
     let e := { tNi with answer := some (7, false), dests := [q] }
     let s := tOwed e [(199, 5)]
     (s.core 0).ni.find 199 = some e ∧ e.kind = .load ∧ e.dead = false ∧ q.s = true ∧ e.dests = [q] ∧
     (s.group 0 e.grp).any (fun g => g.sWait.contains (199, q.reg)) = true ∧
     (s.core 0).blocks.all (fun q => q.2.atom.isNone) = true) ∧
    (let e := { tNi with kind := .fill, dests := [], answer := some (7, false), cache := some 1 }
     let s := tAsk e
     (s.core 0).ni.find 199 = some e ∧ e.kind = .fill ∧ e.dead = false ∧ e.cache = some 1 ∧
     (s.core 0).blocks.all (fun q => q.2.atom.isNone) = true) ∧
    (let e := { tAtomNi with answer := some (7, false) }
     let s := tAsk e
     (s.core 0).ni.find 199 = some e ∧ e.kind = .atom 0 3 1 0 9 ∧ e.dead = false ∧ e.dests = [⟨31, 5, false, 0, 8, 0⟩] ∧
     s.group 0 e.grp = some tGroup ∧ (s.core 0).blocks.all (fun q => q.2.atom.isNone) = true) ∧
    (let s := tWin fun e => { e with answer := some (0, false) }
     (s.block 0 0).any (fun b => (b.applyLine tWinAddr).isSome) = true ∧
     ((s.core 0).writeEntry 0 tWinAddr).any (fun e => e.2.answer.isSome) = true ∧
     (s.die (dieOfCore 0)).reloading = false) ∧
    (let s := tWin fun e => { e with kind := .load }
     s.isWindow tWinAddr = true ∧ ((s.core 0).ni.find 0).any (fun e => e.kind == .load && e.answer.isNone) = true ∧
     (s.windowQp ((s.partOfCore 0).getD 0) tWinAddr).any (fun w => w.2.waiting.isEmpty) = true) ∧
    (let e := { tNi with refused := some 1 }
     ((tAsk e).core 0).ni.find 199 = some e ∧ e.kind = .load ∧ e.dead = false ∧ e.answer = none ∧
     (tAsk e).block 0 e.bslot = some tBlock ∧ ((tAsk e).die (dieOfCore 0)).reloading = false ∧
     ((tAsk e).core 0).blocks.all (fun q => q.2.atom.isNone) = true) ∧
    (let e := { tNi with addr := 0x8002_0000_0000_0000 }
     let s := { tAsk e with time := { Time.fresh with tsc := 2048 * 1025 } }
     (s.core 0).ni.find 199 = some e ∧ e.refused = none ∧ s.hubGone 0 = false ∧ s.hubGone 1 = false ∧
     (s.remotePkg e.addr).isSome = true ∧ e.sentBeat + 1024 ≤ s.time.tsc.toNat / 2048 ∧ e.answer = none ∧
     s.block 0 e.bslot = some tBlock) := by decide +kernel

def tM (m : Nat) (f : MemUnit → MemUnit) : State := { tRun with mems := [(m, f tStack)] }

theorem witness_memory_upkeep :
    (let s := { tM 0 id with regs := [((Blk.dHbm 0).base + 0x0C, 0x8000_0000)] }
     let o := s.lineAt 0 ((s.memUnit 0).scrub * 64)
     (s.memUnit 0).insvc = true ∧ s.mf.tripped = false ∧ s.reg (.dHbm 0) 0x0C / 2 ^ 31 = 1 ∧
     (s.memUnit 0).remap.find ((s.memUnit 0).scrub * 64 / 0x1_0000) = none ∧ s.homeHeld 0 o = false ∧
     s.unreadable 0 o = false) ∧
    (let s := tM 15 fun u => { u with copies := [(0x1F_BFFF, 3)] }
     (s.memUnit 15).copies = [(0x1F_BFFF, 3)] ∧ (s.memUnit 15).remap.find 0x1F_BFFF = none) ∧
    ((tM 15 fun u => { u with retrain := true }).memUnit 15).retrain = true ∧
    (chLeak (.pseudo 15 31)).any (fun n => { tRun with time := Time.fresh }.time.tsc.toNat % (2048 * n) == 0) = true ∧ .pseudo 15 31 ∉ tRun.mf.leaked ∧
    (let s := tWin id
     (s.block 0 0).any (fun b => (b.applyLine tWinAddr).any fun x => s.isWindow x.addr &&
       (s.windowQp b.part x.addr).any fun w => w.2.retries == 6) = true ∧
     ((s.core 0).writeEntry 0 tWinAddr).any (fun e => (s.core 0).ni.find e.1 == some e.2 && e.2.answer.isNone) = true ∧
     s.classify tWinAddr = .window 0 0 ∧ s.partOfCore 0 = some 0) := by decide +kernel

/-! ### Seams -/

theorem witness_seam_steps :
    (let b := { tBlock with age := 16 }
     let s := { tBlk fun _ => b with regs := [((Blk.core 0 8).base, 1)] }
     s.block 0 0 = some b ∧ s.ageLimit 0 = some 16 ∧ b.st = .running ∧ b.stopped = false ∧ b.phase = .run ∧ b.trig = none) ∧
    (let b := { tBlock with trig := some .age }
     let s := tBlk fun _ => b
     s.block 0 0 = some b ∧ b.trig.isSome = true ∧ b.mayStop = true ∧ (s.liveMates 0 0) = [(0, 0)]) ∧
    (let b := { tBlock with phase := .stopped }
     (tBlk fun _ => b).block 0 0 = some b ∧ (tBlk fun _ => b).quiet 0 0 b = true) ∧
    (let b := { tBlock with phase := .quiesced }
     let s := tBlk fun _ => b
     s.block 0 0 = some b ∧ recordLen (s.seamEntries 0 0 b) ≤ (s.core 0).logFree) ∧
    (let b := { tBlock with phase := .logged }
     (tBlk fun _ => b).block 0 0 = some b ∧ tDesc.csize ≤ 1 ∧ (tBlk fun _ => b).movesNow b = false ∧ b.mgmt = [] ∧
     b.atom = none) ∧
    (let b := { tBlock with log := [tRecord [{ tLine 64 0 with made := true }]] }
     let s := tBlk fun _ => b
     s.block 0 0 = some b ∧ b.allMade = true ∧ (s.core 0).applyTurn 0 b = true ∧ s.logLost 0 b = false) ∧
    (let a : AtomPend := ⟨0, 0, 0, [0], [], some 4096, true, false⟩
     (tBlk fun b => { b with atom := some a }).block 0 0 = some { tBlock with atom := some a } ∧ a.started = true ∧
     a.finished = false ∧ a.threads = [] ∧ (tRun.core 0).ni = []) := by decide +kernel

/-- A block of logged phase with one management store, to a plain register. -/
theorem witness_seam_stores :
    let s := { tBlk fun b => { b with phase := .logged, mgmt := [(0x1008, 3)], desc := { b.desc with priv := true } } with
      regs := [] }
    ∃ blk o r, s.writable (.priv 0) 0x1008 blk o r ∧ s.plainAt blk o = true ∧ r.half = 0 ∧ (∀ k n, blk ≠ .core k n) ∧
      (s.latch (.priv 0)).wr = none ∧
      (s.block 0 0).any (fun b => b.mgmt == [(0x1008, 3)] && b.phase == .logged && !s.movesNow b) = true :=
  ⟨.time, 8, (regAt 0x1008).get (by decide +kernel), writable_of (by decide +kernel) nofun, by decide +kernel,
    by decide +kernel, nofun, by decide +kernel, by decide +kernel⟩

theorem witness_commits :
    (let s := tPair fun b => { b with phase := .logged }
     (s.block 0 0).any (fun b => decide (1 < b.desc.csize)) = true ∧ (s.liveMates 0 0).head? = some (0, 0) ∧
     (s.liveMates 0 0).Nodup ∧ (s.liveMates 0 0).all (fun m => (s.block m.1 m.2).any fun k => k.phase == .logged && k.pstamp == 0 && !s.movesNow k) = true) ∧
    (let s := { tPair id with cores := (tPair id).cores.mapAll fun (c : Core) => { c with groups := [(0, { tGroup with
       threads := List.replicate 32 { Thread.fresh 8 with exited := true } })] } }
     (s.block 0 0).isSome = true ∧ (s.liveMates 0 0).head? = some (0, 0) ∧ (s.liveMates 0 0).Nodup ∧
     (s.liveMates 0 0).all (fun m => (s.block m.1 m.2).any fun k => s.mayEnd m.1 m.2 k) = true) ∧
    (let s := tBlk fun b => { b with st := .committing, final := true }
     (s.block 0 0).any (fun b => b.final && decide (b.desc.csize ≤ 1)) = true ∧
     (s.mates 0 0).all (fun m => (s.block m.1 m.2).any fun k => k.settled) = true) ∧
    (let g := { tGrant with ready := true }
     let s := { tP fun q => { q with grants := [g], owed := [.grant 0] } with
       regs := [((Blk.cmdt 0).base + 0x20, 16), ((Blk.cmdt 0).base + 0x28, 64)]
       mem := (List.range 8).map fun k => (64 + k, 0) }
     (s.part 0).grants.find? (fun (k : Grant) => k.ready) = some g ∧ g.src = .table 0 ∧ g.launch.vw = false ∧
     s.reg .nrg (glogAt 0 + 0x28) / 2 ^ 31 = 0 ∧ (s.part 0).cplHeld = [] ∧ s.cplFull 0 = false ∧
     (s.home 0 (lineOf (alignDown (s.regD (.cmdt 0) 0x18) 64 +
       BitVec.ofNat 64 (64 * ((s.part 0).cplCount % s.cplSlots 0))))).isSome = true ∧
     (s.die (dieOfMem 0)).keyed = true ∧ s.homeLost 0 = false ∧ s.mf.tripped = false ∧ (s.memUnit 0).allPoison = false) := by decide +kernel

/-! ### Hardware faults and replay -/

def tDue (w : Pending) : Due := ⟨0, 0, w⟩
/-- The boundary of beat 4, with one decision waiting, of physical core 167 with level `n`. -/
def tDecide (n : Nat) : State := { tRun with
  map := [(0, ⟨some 167, false⟩)], mf := { Mf.fresh with pending := [tDue (.core 0 167 5)] }
  dies := [(0, { tDie with phys := [(167, ⟨n, false, 5⟩)], spares := [160] })] }
/-- The state that the block's slot holds. -/
def tSlot : Saved := ⟨[(0, tGroup)], [], [], none, false, false, false, [], [], none⟩
/-- A stopped block, with and without a slot, with a group and nothing of its own on the core; core 1 is free. -/
def tHalted (v : Option Saved) (m : Tab MapEnt) : State :=
  { tBlk fun b => { b with stopped := true, slot := v, granules := [], pageTab := [] } with map := m }

theorem witness_replay :
    (1 ≤ 5 ∧ tRun.physWorks 0 167 = true ∧
      (let s := { tRun with map := [(0, ⟨some 167, false⟩)] }
       s.logicalOf 0 167 = some 0 ∧ s.block 0 0 = some tBlock ∧ tBlock.desc.csize ≤ 1 ∧ tBlock.st = .running ∧
       tBlock.final = false ∧ tBlock.stopped = false ∧ (s.core 0).blocks.all (fun e => (s.liveMates 0 e.1).all fun m =>
         (s.block m.1 m.2).all fun k => !k.lastAttempt) = true)) ∧
    (tRun.physOf 0 = some 0 ∧ (0, tGroup) ∈ (tRun.core 0).groups ∧ tGroup.eligible ≠ [] ∧ tGroup.hold = .none ∧
      tRun.block 0 tGroup.bslot = some tBlock ∧ tBlock.trig = none ∧ tBlock.st = .running ∧ tBlock.stopped = false ∧
      tRun.physWorks (dieOfCore 0) 0 = true ∧ 0 ∉ tRun.cinch.gated) ∧
    (∀ n, n ∈ [1, 2] → (tDecide n).mf.pending = [tDue (.core 0 167 5)] ∧
      (tDue (.core 0 167 5)).tsc.toNat / 2048 < (tDecide n).time.tsc.toNat / 2048 ∧ (tDecide n).time.tsc.toNat % 2048 = 0 ∧
      (tDecide n).mf.decideBeat < (tDecide n).time.tsc.toNat / 2048 ∧ (tDecide n).mf.rebuild = false ∧
      (((tDecide n).die 0).phys.get 167 PhysSt.fresh).retired = false ∧ ((tDecide n).die 0).failedService = false ∧
      (tDecide n).logicalOf 0 167 = some 0 ∧ (((tDecide n).die 0).phys.get 167 PhysSt.fresh).level = n) ∧
    (∀ v, v ∈ [none, some tSlot] → (let s := tHalted v [(0, ⟨some 0, false⟩)]
      (s.block 0 0).any (fun b => b.displaced && !s.regionPoison 0 (b.replayReads 0) && !s.regionHeld 0 && decide b.gslots.Nodup &&
        decide (b.slot = v)) = true ∧ (s.physOf 0).isSome = true ∧ s.replayReady 0 = true ∧
      (s.core 0).firstDisplaced 0 = true ∧ v.all (fun u => (s.core 0).fits 0 u && u.atom.isNone && u.groups.map (·.1) == [0] && u.groups.all fun e => e.2.hold == .none)
        = true)) ∧
    (∀ v, v ∈ [none, some tSlot] → (let s := tHalted v [(1, ⟨some 1, false⟩)]
      s.physOf 0 = none ∧ s.replayReady 0 = true ∧ s.firstMoved 0 0 = true ∧
      (s.block 0 0).any (fun b => b.displaced && ((coresOfDie (dieOfCore 0)).find? (s.qualifies b.desc) == some 1) &&
        ((s.core 1).room b.desc).isSome && !s.regionPoison 0 (b.replayReads 0) && !s.regionHeld 0) = true ∧
      v.all (fun u => (s.core 1).fits 0 u) = true)) := by decide +kernel

/-! ### The fabric and the links -/

def tLink : Link := { Link.fresh with st := .up, lanes := 0xF, nextRx := 0xFFF, badRun := 2 }
def tL (l : Nat) (k : Link) : State := { tRun with links := [(l, k)], regs := [(0x10, 0xC000_0000)], routeUp := [l] }
def tBody : ExchBody := ⟨1, 0, 0, 0, true, 0, 0, []⟩
def tFrame (bad : List Nat) (b : FrameBody) : Frame :=
  ⟨bad, 0xFFF, 0, false, false, 0, 255, [0, 0, 0, 0], 0, 0, 1, 0, 0, 4, 9, some 0, true, b, 0⟩
/-- Partition 0 has package 1 as its peer. -/
def tPeered : State := { tL 63 tLink with parts := [(0, { tPart with peers := [⟨1, 0, 0, 0⟩] })] }
def tModule : ModuleIn := ⟨0x19, 50, 0, [.other, .tatting], 1, 0, 40, ⟨0, 0, 0, 0, 0, 0, 0, 0, 0, 0, [], [], 0, 0⟩⟩

theorem witness_fabric_frames :
    (∀ k, k ∈ [0xFFF, 0xFFE] → (let f := { tFrame [3] (.exch tBody) with seq := BitVec.ofNat 12 k }
      ((tL 63 tLink).link 63).st = .up ∧ takesBuffer f = false ∧ ((tL 63 tLink).link 63).lanes.getLsbD 3 = true ∧
      3 ∈ f.badLanes ∧ f.body ≠ .idle ∧ (decide (f.seq = ((tL 63 tLink).link 63).nextRx) = (k == 0xFFF)) ∧
      ((tL 63 tLink).link 63).badRun = 2)) ∧
    (∀ b, b ∈ [FrameBody.exch tBody, .notice 3] → (let f := tFrame [] b
      f.badLanes = [] ∧ f.body ≠ .idle ∧ tPeered.rxUse 63 f.vc < 32 ∧ f.seq = (tPeered.link 63).nextRx ∧
      f.tsync = false ∧ (tPeered.link 63).st = .up ∧ 0 = tPeered.pkgIdNat ∧
      (tPeered.part 0).peers.any (fun e => e.pkg == 1 && e.part == 0) = true ∧ flowNo 1 0 ∉ (tPeered.part 0).deadFlows ∧
      (tPeered.part 0).keys = true ∧ f.tagOk = true ∧ f.key = some (tPeered.part 0).linkKey ∧
      (tPeered.part 0).rxCtr.get (64 * flowNo 1 0 + 4) 0 < 9 ∧ (0 : BitVec 12) ≠ (tPeered.link 63).nextRx)) ∧
    ((tFrame [] .idle).body = .idle ∧ (tFrame [] .idle).badLanes = []) ∧
    ((63, 0, 1, 1, 2) ∈ { tRun with noticeIn := [(63, 0, 1, 1, 2)] }.noticeIn ∧ tRun.peerPart 0 1 ≠ 1) := by decide +kernel

theorem witness_fabric_timers :
    (∀ n, n ∈ [8100, 8192] → (let s := { tRun with dies := [(7, { tDie with fill := [(5, ⟨n, 0, 1, 0, false, []⟩)] })] }
     (s.die 7).fill.find 5 = some ⟨n, 0, 1, 0, false, []⟩ ∧ n + 32 < (s.time.tsc.toNat / 2048 + 1) * 2048 ∧
     decide (n + 32 ≤ s.time.tsc.toNat) = (n == 8100))) ∧
    (((pathOf 0 25)[0]?.bind fun h => bridgeOf h.1 h.2).isSome = true ∧
      15 ≤ { tRun with mf := { Mf.fresh with bridgeCrc := [(17, 15)] } }.mf.bridgeCrc.get 17 0) ∧
    (∀ w, w ∈ [1, 2] → (let s := { tRun with mf := { Mf.fresh with bridgeDue := [(9, 4)], bridgeSpare := [(9, (1, 0))] } }
      (9, 4) ∈ s.mf.bridgeDue ∧ 4 ≤ s.time.tsc.toNat / 2048 ∧ (s.mf.bridgeSpare.get 9 (0, 0)).1 + w = 1 + w ∧
      (bridgeEnds 9).any (fun d => !(s.die d).failed) = true)) ∧
    ({ tRun with dies := [(7, { tDie with reloading := true })] }.die 7).reloading = true := by decide +kernel

theorem witness_links_a :
    (∀ m, m ∈ [tModule, { tModule with rev := 49 }] → 63 ∉ freeLinks ∧
      (let s := { tL 63 Link.fresh with regs := [((Blk.tl 63).base, 1)] }
       s.unpeered 63 = false ∧ s.boot.firmware = true ∧ (s.link 63).st = .off ∧ s.linkEn 63 = true ∧
       m.power ≤ s.cageBudget 63 ∧ m.apps.any (appFor 63) = true)) ∧
    (let s := tL 63 { tLink with st := .equalise }
     (s.link 63).st = .equalise ∧ s.inLimit 63 = true) ∧
    (let s := tL 63 { tLink with st := .align, laneRet := 8 }
     (s.link 63).st = .align ∧ (s.link 63).laneRet.getLsbD 3 = true ∧ s.inLimit 63 = true) ∧
    (let s := tL 31 { tLink with st := .identify }
     (s.link 31).st = .identify ∧ (s.regWord 0x10).getLsbD 30 = true ∧ 31 < 32 ∧ s.peerOfLink 31 = (2, 31) ∧
     s.unpeered 31 = false ∧ s.linkDue 31 = false) ∧
    (let s := { tL 63 { tLink with st := .identify } with regs := [(0x10, 0xC000_0000), ((Blk.dFab 0).base, 0x8000_0101)] }
     (s.link 63).st = .identify ∧ (s.regWord 0x10).getLsbD 30 = true ∧ s.topoSet = true ∧ s.unpeered 63 = false ∧
     s.linkDue 63 = false) ∧
    (let s := tL 63 { tLink with st := .delay }
     (s.link 63).st = .delay ∧ (s.link 63).queue = [] ∧ s.inLimit 63 = true ∧ (List.replicate 16 (640, 64)).length = 16) := by
  decide +kernel

theorem witness_links_b :
    (∀ st, st ∈ [LinkSt.detect, .equalise, .align, .delay] →
      (let s := { tL 63 { tLink with st := st } with time := { Time.fresh with tsc := 2 ^ 40 } }
       (s.link 63).st = st ∧ st ≠ .retrain ∧ (s.link 63).limit.any (fun n => decide ((s.link 63).since + n <
         (s.time.tsc.toNat / 2048 + 1) * 2048)) = true)) ∧
    (∀ m, m ∈ [none, some tModule] → (let s := { tL 63 { tLink with st := .retrain, module := m } with
        time := { Time.fresh with tsc := 16384 } }
     (s.link 63).st = .retrain ∧ s.linkDue 63 = false ∧ (s.link 63).since + 16384 < (s.time.tsc.toNat / 2048 + 1) * 2048 ∧
     (s.link 63).module = m ∧ s.inLimit 63 = true ∧ 3 ≤ popCount 4 (s.link 63).lanes.toNat)) ∧
    (63 < 69 ∧ (tPeered.link 63).st = .up ∧ 64 ≤ 68 ∧ ((tL 62 { tLink with st := .align }).link 62).st = .align) ∧
    (tS.opens (.session 1) false = true ∧ tS.isPackage (.session 1) = true ∧ (2 : Word).getLsbD 1 = true) ∧
    (tS.farUp = false ∧ (bits (0x0000_1F3F : Word) 5 0 + 1) * (bits (0x0000_1F3F : Word) 13 8 + 1) ≤ 2048 ∧
      2048 < (bits (0x0000_203F : Word) 5 0 + 1) * (bits (0x0000_203F : Word) 13 8 + 1)) := by decide +kernel

/-! ### The exchange and the update -/

/-- Partition 0's plan of entry `e`, armed with a reservation of die 0, in the step that started at beat `start`. -/
def tPlan (e : PlanEntry) (start : Nat) (f : Exch → Exch) : State :=
  tP fun q => { q with ex := f { Exch.fresh with
    step := 1, start := BitVec.ofNat 64 start, active := true, armed := true, plan := [e], lists := [0, 1]
    res := [(0, ⟨true, 0, 0⟩)] } }
def tSend : PlanEntry := ⟨0, 16, opSend, 255, 1, 1, 0, 7, 0x4000, 0⟩
def tReduce : PlanEntry := ⟨0, 16, opReduce, 0, 1, 0, 2, 0, 0x4000, 0x8000⟩
def tRecv : PlanEntry := { tReduce with op := opRecv, nc := 1, link := 1 }
def tData : ExchBody := ⟨1, 0, 0, 1, false, 4, 0, List.replicate 16 0⟩

theorem witness_steps_and_plans :
    (tS.opens (.session 2) false = true ∧ tS.outOfReach (.session 2) 0x4_002C = false) ∧
    (let s := tP fun q => { q with ex := { Exch.fresh with stepPend := some 4 } }
     (s.part 0).ex.stepPend = some 4 ∧ 4 ≤ s.time.tsc.toNat / 2048) ∧
    ((1 : Word).getLsbD 0 = true ∧ tS.outOfReach (.session 2) 0x4_0000 = false ∧ (tS.part 0).ex.armed = false ∧
      (tS.part 0).ex.armPend = false ∧
      (((tS.arrived (.session 2)).dropLatch (.session 2)).setReg (.xplan 0) 0 1).planFault 0 = none) ∧
    (let s := { tS with regs := [(0x4_0008, 0x8000_0000), (0x4_000C, 0x20), (0x4_0010, 1)] }
     s.opens (.session 2) false = true ∧ s.outOfReach (.session 2) 0x4_0000 = false ∧
     (((s.arrived (.session 2)).dropLatch (.session 2)).setReg (.xplan 0) 0 1).planFault 0 = some 0) ∧
    (let s := { tP (fun q => { q with ex := { Exch.fresh with armPend := true } }) with
       regs := [(0x4_0040, 0x8000_0005)] }
     (s.part 0).ex.armPend = true ∧ s.resWanted 0 = [(0, 5)] ∧ (s.core 5).blocks = []) ∧
    ((0 : Word).getLsbD 0 = false ∧ tS.outOfReach (.session 2) 0x4_0000 = false ∧ ((tPlan tSend 4 id).part 0).ex.armed = true) := by decide +kernel

theorem witness_exchange_beats_send :
    (let s := { tPlan tSend 4 id with links := [(1, { tLink with exSent := 191 })], regs := [(0x10, 0xC000_0000)] }
     ((s.part 0).ex.entries)[0]? = some tSend ∧ s.entryBeat 0 tSend 0 = some 0 ∧ (s.part 0).ex.spent = false ∧
     0 ∉ (s.part 0).ex.skipped ∧ (0, 0, 0) ∉ (s.part 0).ex.beatsDone ∧ s.targetPkg 1 = some 1 ∧ tSend.framesOf 0 = [0] ∧
     (s.part 0).keys = true ∧ s.hubPoisoned 0 (tSend.addr + BitVec.ofNat 64 (4 * frameElems * 0)) (4 * tSend.elemsOf 0) = false ∧
     (s.upLinks 1).find? (fun n => (s.link n).exSent < (s.link n).exLimit) = some 1) ∧
    (let e := { tSend with gate := 0 }
     let s := tPlan e 4 id
     ((s.part 0).ex.entries)[0]? = some e ∧ s.entryBeat 0 e 0 = some 0 ∧ e.gate ≠ 255 ∧ e.gate ∉ (s.part 0).ex.gates) := by decide +kernel

theorem witness_exchange_frames :
    (∀ a, a ∈ [3, 4] → (let s := { tPlan tReduce 4 id with exchIn := [(a, 0, 1, tData)] }
     s.exchIn.find? (fun f => f.2.1 == 0 && f.2.2.1 == 1 && f.2.2.2 == tData) = some (a, 0, 1, tData) ∧
     (s.part 0).ex.accepts tData = true ∧ (s.part 0).ex.entries[0]? = some tReduce ∧
     ((s.part 0).ex.idsOf tReduce).findIdx? (· == 1) = some 1 ∧ 1 ≠ s.pkgIdNat ∧ 0 < tReduce.frames ∧
     tData.payload.length = tReduce.elemsOf 0 ∧ (0, 1, 0) ∉ (s.part 0).ex.got ∧
     (s.part 0).ex.start.toNat + tReduce.offset + 0 / tReduce.fpb = 4)) := by decide +kernel

theorem witness_exchange_beats_sum :
    (let s := tPlan tReduce 4 fun x => { x with got := [(0, 1, 0)] }
     (s.part 0).ex.entries[0]? = some tReduce ∧ s.entryBeat 0 tReduce 0 = some 0 ∧ (s.part 0).ex.spent = false ∧
     (0, 0, 0) ∉ (s.part 0).ex.beatsDone ∧ s.frameWaits 0 0 tReduce 0 = false ∧ (s.part 0).ex.idsOf tReduce = [s.pkgIdNat, 1] ∧
     (s.ownPart 0 tReduce 0).isSome = true ∧ (s.contribution 0 0 tReduce 1 0).isSome = true ∧ s.activeRes 0 = [0]) ∧
    ((tPlan tReduce 4 id).contribution 0 0 tReduce 1 0 = none ∧
      (tPlan tReduce 4 fun x => { x with res := [] }).activeRes 0 = []) ∧
    (let s := tPlan tRecv 4 fun x => { x with got := [(0, 0, 0)] }
     (s.part 0).ex.entries[0]? = some tRecv ∧ s.entryBeat 0 tRecv 0 = some 0 ∧ s.frameWaits 0 0 tRecv 0 = false ∧ 1 ≠ s.pkgIdNat ∧
     (s.part 0).ex.idsOf tRecv = [1] ∧
     (s.contribution 0 0 tRecv 0 0).any (fun ws => ws.length == tRecv.count 0) = true ∧ s.activeRes 0 = [0]) ∧
    (let s := { tPlan tReduce 3 (fun x => { x with wrote := [(0, 0, [0])] }) with regs := [(0x4_8000, 0)] }
     (s.part 0).ex.entries[0]? = some tReduce ∧ s.entryBeat 0 tReduce 1 = some 0 ∧ (0, 0, 1) ∉ (s.part 0).ex.beatsDone ∧
     (s.part 0).ex.wrote.find? (fun w => w.1 == 0 && w.2.1 == 0) = some (0, 0, [0]) ∧
     s.reg (.digest 0) 0 % 256 = 0) := by decide +kernel

/-- A health frame of kind `k`, and the plan of an entry of one OP at the step's first beat. -/
def tWord (k : Nat) : ExchBody := ⟨1, 0, 0, k, true, 4, 2, []⟩
def tOp (op : Nat) (f : Exch → Exch) : State := tPlan { tSend with op := op, elems := 0, gate := 0, fpb := 0, link := 0 } 4 f

/-- A plan with a HUP and an HDOWN entry, whose final word came in beat 3. -/
def tDown : State := { tPlan tSend 4 (fun x => { x with
  plan := [{ tSend with op := opHup, offset := 8 }, { tSend with op := opHdown }], final := some 0x20, finalBeat := 3 }) with
  links := [(1, tLink)], regs := [(0x10, 0xC000_0000)] }

theorem witness_health :
    (∀ op, op ∈ [opHup, opHdown] → (let s := tOp op id
      (s.part 0).ex.current = true ∧ (s.part 0).ex.frozen = false ∧ (s.part 0).ex.freezeAt = some 0 ∧
      s.stepBeat 0 = some 0 ∧ s.healthWaits 0 2 0 = false ∧ (s.part 0).ex.isRoot = (op == opHdown))) ∧
    (∀ k, k ∈ [2, 3] → (let s := { tOp opHup (fun x => { x with decideOff := 1 }) with exchIn := [(4, 0, 1, tWord k)] }
      s.exchIn.find? (fun f => f.2.1 == 0 && f.2.2.1 == 1 && f.2.2.2 == tWord k) = some (4, 0, 1, tWord k) ∧
      (s.part 0).ex.accepts (tWord k) = true ∧ (s.part 0).ex.hups.lookup 1 = none ∧ (s.part 0).ex.isRoot = false ∧
      (s.part 0).ex.final = none ∧ (s.part 0).ex.decided = false ∧
      4 < (s.part 0).ex.start.toNat + (s.part 0).ex.decideOff)) := by decide +kernel

theorem witness_health_down :
    (let s := tOp opHdown id
     ((s.part 0).ex.entries[0]?.any fun e => e.op == opHdown && s.stepBeat 0 == some e.offset) = true ∧
     (0, 0, 0) ∉ (s.part 0).ex.beatsDone ∧ (s.part 0).ex.isRoot = true ∧
     s.healthWaits 0 2 (s.part 0).ex.freezeOff = false) ∧
    (let s := tDown
     ((s.part 0).ex.entries[1]?.any fun e => e.op == opHdown && s.stepBeat 0 == some e.offset && e.target == 1) = true ∧
     (1, 0, 0) ∉ (s.part 0).ex.beatsDone ∧ (s.part 0).ex.isRoot = false ∧ (s.part 0).ex.final = some 0x20 ∧
     (s.part 0).ex.finalBeat < s.time.tsc.toNat / 2048 ∧ s.targetPkg 1 = some 1 ∧ s.upLinks 1 = [1] ∧
     (s.link 1).exSent < (s.link 1).exLimit ∧ (s.part 0).keys = true) ∧
    (∀ op, op ∈ [opHup, opHdown, opSend] → (let s := tOp op id
     (s.part 0).ex.active = true ∧ (s.part 0).ex.start.toNat + (s.part 0).ex.decideOff ≤ s.time.tsc.toNat / 2048 ∧
     s.healthWaits 0 3 (s.part 0).ex.decideOff = false ∧ s.healthWaits 0 2 (s.part 0).ex.decideOff = false ∧
     (s.part 0).ex.isRoot = (op != opHup) ∧ (s.part 0).ex.frozen = false ∧
     decide ((s.part 0).ex.firstOf opHdown = none) = (op != opHdown))) := by decide +kernel

/-- The bytes of a number in memory 0 from an offset on. -/
def tBytes (a n v : Nat) : List Host.Cell := ((List.range n).zip (natLe n v)).map fun e => (a + e.1, e.2)
/-- A launch entry without its valid word: GRANT 7, one block of one group, 64 registers, one page, entry 0x1000. -/
def tEntry : Nat := 7 + 7 * 2 ^ 104 + 2 ^ 112 + 0x1000 * 2 ^ 192
def tUpd (f : Upd → Upd) : State :=
  { tS with parts := [(0, { tPart with session := some 2, grants := [], owed := [], upd := f Upd.fresh })] }

theorem witness_updates :
    (tS.opens (.session 2) false = true ∧ tS.outOfReach (.session 2) 0x6_0000 = false ∧ (tS.part 0).upd.armed = false ∧
      (1 : Word).getLsbD 0 = true ∧ (1 : Word).getLsbD 3 = false ∧ (8 : Word).getLsbD 3 = true ∧
      (0 : Word).getLsbD 0 = false) ∧
    (((tUpd fun u => { u with running := true }).part 0).upd.running = true ∧
      ((tUpd fun u => { u with committed := true }).part 0).upd.committed = true) ∧
    (((tUpd fun u => { u with revertPend := some 4, advanced := [63] }).part 0).upd.revertPend = some 4) ∧
    (let e : UpdEntry := ⟨0x2000, 0x40, 0⟩
     let s := { tUpd fun u => { u with running := true, entries := [e], launchBeat := 4 } with
       mem := tBytes 0x2000 128 tEntry }
     (s.part 0).upd.entries[0]? = some e ∧ (s.part 0).upd.launched < (s.part 0).upd.entries.length ∧
     (s.part 0).upd.launchBeat ≤ s.time.tsc.toNat / 2048 ∧ (s.part 0).st = .running ∧ (s.part 0).grants.length < 1024 ∧
     ((s.updUpd 0 fun u => { u with launched := u.launched + 1 }).count (.cmdt 0) 0x40 1).updLaunchOk 0 e.launch = true) ∧
    (let s := tUpd fun u => { u with running := true, ended := 1, entries := [⟨0x2000, 0x40, 63⟩], tnew := [(63, 5)] }
     (s.part 0).upd.running = true ∧ (s.part 0).upd.entries.length ≤ (s.part 0).upd.ended ∧
     (s.part 0).upd.runFault = false ∧ (s.part 0).upd.cancel = false ∧ Tab.sorted (s.part 0).upd.tnew = true) := by
  decide +kernel

/-! ### The host side -/

/-- Ports 0 and 4 up, port 4 with an IPv4 address, a handshake for `sc`, the package owner's key in force, and partition 0's
tenant with a key. -/
def tPort (sc : Scope) (began : Nat) (f : HostSide → HostSide) : State := { tRun with
  regs := [(0x10, 0xC000_0000), ((Blk.eth 0).base, 0x8000_0000), ((Blk.eth 0).base + 4, 0x8000_0000),
    ((Blk.eth 4).base, 0x8000_0000), ((Blk.eth 4).base + 4, 0x8000_0000), ((Blk.eth 4).base + 0x90, 0x0A00_0001),
    ((Blk.eth 4).base + 0x94, 0xFFFF)]
  time := { Time.fresh with tsc := BitVec.ofNat 64 2_000_000_000 }
  parts := [(0, { tPart with st := .defined, tenant := some (.key 9), grants := [], owed := [] })]
  host := f { HostSide.fresh with
    owner := some (.key 5), shakes := [(3, ⟨4, sc, false, false, false, BitVec.ofNat 64 began, 0, 0⟩)] } }

/-- Sessions of the package and of partition 0, and a QP of die 0. -/
def tTalk : State := tPort .package 1 fun h => { h with
  sessions := [(1, ⟨.package, false, 4, 0, false, 0, [(0x118, 2000, [2000])], [], 0, 0⟩),
    (2, ⟨.partition 0, false, 0, 9, false, 0, [], [], 0, 0⟩)]
  qps := [(2, ⟨0, 0, 2, 0, 1024, 0, 0, []⟩)], nextSess := 3 }

theorem witness_ports :
    (∀ a, a ∈ [(4, HostApp.gaui25), (0, .cr4), (1, .gaui400C2m)] →
      (let s := { tPort .package 1 (fun h => { h with apps := [a] }) with regs := [((Blk.eth a.1).base + 4, 0x8000_0000)] }
       s.hubOk (hubOfPort a.1) = true ∧ (s.regWord ((Blk.eth a.1).base + 4)).getLsbD 31 = true ∧ s.boot.firmware = true ∧
       s.host.apps.find a.1 = some a.2)) ∧
    (tTalk.portUp 4 = true ∧ 0 = tTalk.reg (.eth 4) 4 % 4096 ∧ isV4 0xFFFF_0A00_0001 = true ∧
      tTalk.identityFor 4 ⟨0, 0xFFFF_FFFF_FFFF, 0xFFFF_0A00_0001⟩ true = some 8 ∧ isV4 (linkLocal 36) = false ∧
      tTalk.identityFor 4 ⟨0, 0xFFFF_FFFF_FFFF, linkLocal 36⟩ true = some 8 ∧
      tTalk.identityFor 4 ⟨0, 36, linkLocal 36⟩ false = some 8 ∧
      (1 : Nat) ≠ tTalk.reg (.eth 4) 4 % 4096) ∧
    (tTalk.identityFor 4 ⟨0, 36, linkLocal 36⟩ false = some 8 ∧
      tTalk.spiSession 4 0x118 = some 1 ∧ (tTalk.host.sessions.find 1).any (fun x =>
        !(x.seen.get 0x118 (0, [])).2.contains 977 && decide ((x.seen.get 0x118 (0, [])).1 < 977 + 1024)) = true) ∧
    (tTalk.portUp 0 = true ∧ tTalk.identityFor 0 ⟨0, 0, linkLocal 0⟩ false = some 0 ∧
      tTalk.spiSession 0 0x120 = some 2 ∧ (tTalk.host.sessions.find 2).any (fun x =>
        !(x.seen.get 0x120 (0, [])).2.contains 1 && decide ((x.seen.get 0x120 (0, [])).1 < 1 + 1024)) = true ∧
      (tTalk.host.qps.find 2).any (fun k => k.sess == 2 && k.die == 0) = true) := by decide +kernel

theorem witness_rdma :
    (tTalk.host.qps.find 2).any (fun q => q.sess == 2 && q.part == 0) = true ∧
    (tTalk.host.sessions.find 2).any (fun x => x.rkey == 9) = true ∧ tTalk.mf.tripped = false ∧
    tTalk.hubHeld 0 0 64 = false ∧ tTalk.rdmaRange 0 0 64 = true ∧ tTalk.hubPoisoned 0 0 64 = false ∧
    (let s := { tTalk with mems := [(0, { tStack with poison := [0] })] }
     s.hubHeld 0 0 64 = false ∧ s.rdmaRange 0 0 64 = true ∧ s.hubPoisoned 0 0 64 = true) ∧
    tTalk.rdmaRange 0 (BitVec.ofNat 64 (126 * 0x4000_0000 - 1)) 2 = false ∧
    tTalk.hubHeld 0 (BitVec.ofNat 64 (126 * 0x4000_0000 - 1)) 2 = false := by decide +kernel

theorem witness_handshakes :
    (let s := tPort .package 1 id
     s.boot.firmware = true ∧ s.portUp 4 = true ∧ (s.regWord 0x10).getLsbD 30 = true ∧
     s.ownerCheck 4 (scopeOfCode 0xF) false = none ∧ s.ownerCheck 4 (scopeOfCode 0) true = some 4 ∧
     (s.host.shakes.find 3).any (fun k => decide (s.time.tsc.toNat < k.began.toNat + 2000000000) &&
       (s.ownerCheck k.port k.scope k.pw).isNone && k.scope == .package) = true ∧ s.packageSessions < 2) ∧
    (let s := tPort (.partition 0) 1 id
     (s.host.shakes.find 3).any (fun k => decide (s.time.tsc.toNat < k.began.toNat + 2000000000) &&
       (s.ownerCheck k.port k.scope k.pw).isNone && k.scope == .partition 0) = true ∧ (s.part 0).session = none) ∧
    (let s := tPort .package 0 id
     (s.host.shakes.find 3).any (fun k => decide (k.began.toNat + 2000000000 ≤ s.time.tsc.toNat)) = true) ∧
    (let f : Fails := ⟨.package, 5, true, 2, 0⟩
     let s := tPort .package 0 fun h => { h with fails := [f] }
     s.host.failsOf .package = some f ∧ f.locked = true ∧ f.since.toNat + f.secs * 1000000000 ≤ s.time.tsc.toNat) ∧
    (let s := { tPort .package 0 (fun _ => tHost) with regs := [(Blk.sess.base + 4, 2)] }
     (s.host.sessions.find 2).any (fun x => decide (x.lastPkt.toNat + s.reg .sess 4 * 1000000000 ≤ s.time.tsc.toNat))
       = true ∧ s.reg .sess 4 ≠ 0) := by decide +kernel

/-- Partition 0 in a state, with its session 2. -/
def tSt (f : Part → Part) : State := { tS with parts := [(0, f { tPart with session := some 2 })] }
theorem tenant_of_tSt (f : Part → Part) : (tSt f).tenantOf 2 0 := ⟨_, rfl, rfl, rfl⟩

theorem package_of_tSt (f : Part → Part) : (tSt f).packageOf 1 := ⟨_, rfl, rfl, rfl⟩

theorem witness_release :
    let s := { tSt id with parts := [] }
    (s.host.sessions.find 1).any (fun x => x.scope == .package && !x.claim) = true ∧
    (List.range 8).all (fun p => (s.part p).st == .free) = true := by decide +kernel

theorem witness_session_messages :
    (let s := { tSt id with regs := [(Blk.part.base, 1)] }
     (s.part 0).st ≠ .erased ∧ 0 ∈ s.diesOf 0 ∧
     (s.host.qps.filter (fun e => e.2.part == 0)).length < s.reg .part (4 * 0) % 2 ^ 15 ∧ s.host.qps.length < 16384) ∧
    (let s := { tSt id with host := { tHost with qps := [(2, ⟨0, 0, 2, 0, 1024, 0, 0, []⟩)] } }
     s.host.qps.find 2 = some ⟨0, 0, 2, 0, 1024, 0, 0, []⟩) ∧
    (∀ st, st ∈ [PartSt.opened, .erased, .running] → ((tSt fun q => { q with st := st }).part 0).st = st) ∧
    (List.replicate 1024 (⟨1, 0, 0, 0⟩ : PeerEntry)).length ≤ 1024 ∧
    (let s := tSt fun q => { q with st := .opened }
     (s.part 0).keys = true ∧ (s.part 0).peersIn = true ∧ s.cmdtOn 0 = false ∧ s.boot.ready = true ∧
     (s.part 0).startPend = none) ∧
    (((tSt id).part 0).st.erasable = true ∧ ((tSt id).part 0).session = some 2 ∧
      ((tSt id).host.sessions.find 2).any (fun x => x.scope == .partition 0) = true) ∧
    (((tSt fun q => { q with eraseReport := some (tRun.eraseReport 0 true) }).part 0).eraseReport ≠ none ∧
      ((tSt id).part 0).st ≠ .free) ∧
    (((tSt id).host.sessions.find 1).any (fun x => x.scope == .package && !x.claim) = true ∧ credOk (.key 1) = true ∧
      credOk (.password 0 100_000 0) = true ∧ credOk (.password 0 99_999 0) = false) ∧
    (leNat (natLe 120 tEntry) = tEntry ∧ (natLe 120 tEntry).length = 120 ∧
      ((tSt id).arrived (.session 1)).checkLaunch 0 tEntry true = none ∧
      ((tSt id).arrived (.session 1)).checkLaunch 0 0 true = some 0x1001) := by decide +kernel

/-- The sequencer takes an entry of one TYPE, in slot 0 of the ring at 0x2000. -/
def tRing (type body : Nat) (owed : List Owed) : State := { tSt (fun q => { q with
    grants := [], owed := owed, phase := true, stepping := 1 }) with
  regs := [((Blk.cmdt 0).base, 1), ((Blk.cmdt 0).base + 8, 0x2000), ((Blk.cmdt 0).base + 0x20, 16),
    ((Blk.cmdt 0).base + 0x28, 64)]
  mem := tBytes 64 8 0 ++ tBytes 0x2000 128 (body + 5 * 2 ^ 960 + type * 2 ^ 992 + 2 ^ 1000)
  host := { tHost with qps := [(2, ⟨0, 0, 2, 0, 1024, 0, 0, []⟩)] } }
/-- A WINDOW entry for window 4,095 by QP 2, 4 KiB. -/
def tWinEntry : Nat := 4095 + 2 ^ 16 + 2 * 2 ^ 32 + 0x1000 * 2 ^ 160

def tValid (type : Nat) : Nat := 5 * 2 ^ 960 + type * 2 ^ 992 + 2 ^ 1000

theorem witness_command_table :
    (((tRing 1 tEntry []).takePriv 0).entryNow 0 = some (tEntry + tValid 1) ∧ entryType (tEntry + tValid 1) = 1 ∧
      (((tRing 1 tEntry []).takePriv 0).advanceHead 0).checkLaunch 0 (tEntry + tValid 1) false = none) ∧
    (((tRing 2 tWinEntry []).takePriv 0).entryNow 0 = some (tWinEntry + tValid 2) ∧ entryType (tWinEntry + tValid 2) = 2 ∧
      (((tRing 2 tWinEntry []).takePriv 0).advanceHead 0).windowOk 0 (tWinEntry + tValid 2) = true) ∧
    (((tRing 3 0 [.grant 0]).takePriv 0).entryNow 0 = some (0 + tValid 3) ∧ entryType (tValid 3) = 3 ∧
      ((tRing 0 0 []).takePriv 0).entryNow 0 = some (0 + tValid 0) ∧ entryType (tValid 0) = 0 ∧ (((tRing 3 0 [.grant 0]).takePriv 0).part 0).owed ≠ []) ∧
    ((tSt fun q => { q with owed := [.mark 5] }).part 0).owed = [.mark 5] ∧
    ((let s := { tSt id with regs := [((Blk.cmdt 0).base + 8, 0x2000), ((Blk.cmdt 0).base + 0x20, 16)] }
      s.opens (.session 2) false = true ∧ s.outOfReach (.session 2) 0x2_0000 = false ∧
      ((s.arrived (.session 2)).dropLatch (.session 2)).cmdtBad 0 = 0)) ∧
    ((((tSt fun q => { q with st := .opened }).arrived (.session 2)).dropLatch (.session 2)).cmdtBad 0 = 1) := by
  decide +kernel

theorem witness_partitions :
    ((tSt id).opens (.session 1) false = true ∧ (tSt id).isPackage (.session 1) = true) ∧
    (let s := { tSt id with parts := [], dies := [(6, tDie), (7, tDie)] }
     (0x5_0000 : Word).getLsbD 18 = true ∧ (s.part 6).st = .free ∧ 6 % 2 ^ bits (0x5_0000 : Word) 17 16 = 0 ∧
     (∀ d, d ∈ partDies 6 (bits (0x5_0000 : Word) 17 16) → (s.die d).failed = false ∧ (s.die d).failedService = false ∧
       s.partOfDie d = none) ∧ s.opens (.session 1) false = true) ∧
    ((1 : Word).getLsbD 0 = true ∧ (1 : Word).getLsbD 1 = false ∧ (2 : Word).getLsbD 1 = true ∧ (2 : Word).getLsbD 0 = false ∧
      ((tSt id).part 0).st = .running ∧ (tSt id).canScrub 0 = true) ∧
    (let s := tSt fun q => { q with st := .erased, scrubbed := true }
     (s.part 0).st = .erased ∧ (s.part 0).scrubbed = true) ∧
    (let s := { tSt (fun q => { q with st := .opened, startPend := some 4 }) with cores := [] }
     (s.part 0).startPend = some 4 ∧ 4 ≤ s.time.tsc.toNat / 2048 ∧ (s.part 0).st = .opened ∧ s.coresOf 0 = [] ∧
     0 ∈ s.diesOf 0 ∧ (s.die 0).testsDone = true ∧ (s.die 0).failed = false ∧ (s.die 0).failedService = false ∧
     s.seamStacks 0 ≠ []) ∧
    (let s := tSt fun q => { q with resetPend := some 4 }
     (s.part 0).resetPend = some 4 ∧ s.coresOf 0 = [0] ∧ s.block 0 0 = some tBlock ∧ resetAddr 0 0x2_0000 = true) ∧
    (let s := tSt fun q => { q with st := .erasing }
     (s.part 0).st = .erasing ∧ s.canScrub 0 = true) := by decide +kernel

/-! ### From reset to ready -/

def tBoot (ph : BootPhase) (f : Boot → Boot) : State := { State.reset with
  boot := f { Boot.fresh with rstN := true, pll := true, phase := ph } }
def tFuse (bad : List (Nat × Nat)) : FuseCopy := ⟨1, [], 2, bad, [0x20_0005], 7, 3, 4, 0, 5⟩
/-- A hub's copy of it, every field readable. -/
def tFuseIn (f : FuseCopy) : FuseIn := ⟨some (f.serial, f.dieSerials), some f.mac, some f.bad, some f.field, some f.keyHash,
  some f.fwmin, some (f.claimSalt, f.claimCount), some f.secret⟩
def tImage (ver : Word) : ImageIn := ⟨0x415A4631, ver, 0, 7, true, true, 9, true⟩
def tSpd : SpdIn := ⟨true, true, true, true, 128, 256, [2], 5, 6⟩

theorem witness_start_phases :
    (State.reset.boot.rstN = false ∧ (tBoot .selfTest id).boot.rstN = true ∧ (tBoot .selfTest id).boot.pgBoard = true ∧
      (tBoot .selfTest fun b => { b with pll := false }).boot.pll = false) ∧
    (let s := tBoot .selfTest fun b => { b with hub0 := { Hub.fresh with tested := true, failed := true } }
     s.boot.pll = true ∧ s.boot.phase = .selfTest ∧ (s.hub 1).tested = false ∧ (s.hub 1).failed = false ∧
     (s.hub (1 - 1)).tested = true ∧ (s.hub (1 - 1)).failed = true) := by decide +kernel

theorem witness_fuses :
    (let s := tBoot .fuses id
     s.boot.phase = .fuses ∧ (s.hub 0).failed = false ∧ (s.hub 1).failed = false ∧
     (fuseMerge (tFuseIn (tFuse [(0, 1)])) (tFuseIn (tFuse [(7, 167)]))).any (fun u =>
       (u.field ++ s.flash.field).all fun e => bits e 23 20 != 5) = true ∧
     fuseDiffs (tFuseIn (tFuse [(0, 1)])) (tFuseIn (tFuse [(7, 167)])) = []) ∧
    (let b := { tFuseIn (tFuse []) with keyHash := none }
     (fuseMerge (tFuseIn (tFuse [])) b).isSome = true ∧ (fuseMerge b (tFuseIn (tFuse []))).isSome = true ∧
     b.keyHash = none ∧ (tFuseIn (tFuse [])).keyHash = some 7) ∧
    ((fuseMerge (tFuseIn (tFuse [])) (tFuseIn { tFuse [] with keyHash := 8 })).isSome = true ∧
      (tFuseIn { tFuse [] with keyHash := 8 }).keyHash = some 8 ∧
      fuseMerge (tFuseIn (tFuse [])) (tFuseIn (tFuse [])) = some (tFuse [])) := by decide +kernel

theorem witness_images :
    (let s := tBoot .image fun b => { b with fuse := some (tFuse []) }
     s.boot.phase = .image ∧ s.boot.fuse = some (tFuse []) ∧ (tImage 3).keyHash = (tFuse []).keyHash ∧ s.fwmin = 3 ∧
     s.fwmin ≤ (tImage 3).fwver.toNat ∧ (tImage 2).fwver.toNat < s.fwmin) ∧
    (let s := tBoot .recovery fun b => { b with fuse := some (tFuse []) }
     s.boot.phase = .recovery ∧ s.imageFault (tImage 3) = none ∧ s.flash.owner = none ∧ s.imageFault (tImage 2) ≠ none) ∧
    (let s := { tBoot .recovery id with flash := { Flash.blank with owner := some (.key 5) } }
     s.boot.phase = .recovery ∧ s.flash.owner ≠ none) ∧
    ((tBoot .firmware id).boot.phase = .firmware ∧ (tBoot .firmware id).boot.firmware = false ∧
      (∀ r, r ∈ [(0, 1), (5, 0)] → r.1 < 6) ∧ (tBoot .firmware id).log.ring = [] ∧
      (tBoot .firmware id).log.flight.length + [(0, 1), (5, 0)].length < 16384 ∧ ((tBoot .firmware id).die 7).failed = false) ∧
    (tS.boot.firmware = true ∧ tS.opens (.session 1) false = true ∧ tS.isPackage (.session 1) = true ∧
      (2 : Word).getLsbD 1 = true) := by decide +kernel

/-- Die 7 in its start-up, with the firmware running. -/
def tUp (f : Die → Die) (g : MemUnit → MemUnit) : State := { tBoot .training (fun b => { b with
    firmware := true, coreImageOk := true, fuse := some { tFuse [(7, 3)] with field := [] }
    hub0 := { Hub.fresh with tested := true }, hub1 := { Hub.fresh with tested := true } }) with
  dies := [(7, f { Die.fresh with pwrEn := true, powered := true })]
  mems := [14, 15, 23].map fun m => (m, g MemUnit.fresh) }

theorem witness_tests_and_training :
    (let s := tUp (fun d => { d with powered := false }) id
     (s.die 7).pwrEn = true ∧ (s.die 7).powered = false) ∧
    (let s := tUp id id
     s.boot.rstN = true ∧ (s.die 7).powered = true ∧ (s.die 7).powerLost = false ∧ (s.die 7).fwOk = false ∧
     (s.die 7).failed = false ∧ s.boot.coreImageOk = true ∧ (s.die 7).fwTries = 0 ∧
     ((tUp (fun d => { d with fwTries := 1 }) id).die 7).fwTries ≠ 0) ∧
    (let s := tUp (fun d => { d with fwOk := true, ways := 1 }) id
     s.boot.firmware = true ∧ s.boot.katDone = false ∧ s.katRuns (.core 7 167) = true ∧ s.katRuns (.way 7 15) = true ∧
     s.katRuns (.die 7) = true ∧ s.katRuns (.hub 1 7) = true ∧ (s.die 7).ways = 1 ∧ 167 ∉ (s.die 7).testBad) ∧
    (let s := { tUp id id with dies := (List.range 8).map fun d => (d, { Die.fresh with fwOk := true }) }
     s.katRuns .done = true) ∧
    (let s := tUp id id
     s.boot.firmware = true ∧ (s.die (15 / 2)).powered = true ∧ (s.die (15 / 2)).failed = false ∧ 7 < usablePages ∧ (s.memUnit 15).settled = false ∧ s.flash.remap = [] ∧
     (s.trusts 0 15 5 0 true 10 && true || true) = true ∧ (s.trusts 0 15 5 0 true 10 && true || false) = false ∧
     (s.memUnit (16 + 7)).settled = false ∧ spdTrainable tSpd = true ∧ (s.trusts 1 7 5 0 true 10 && true || true) = true ∧
     spdTrainable { tSpd with gb := 100 } = false) ∧
    (let r : SavedRec := ⟨0, 15, 5, 0, [], 0, 0, 0, 0⟩
     { tUp id id with flash := { Flash.blank with saved := [r], hours := 1000, starts := 32 } }.trusts 0 15 5 0 true 10 = true) := by
  decide +kernel

theorem witness_core_map :
    (let s := tUp (fun d => { d with testsDone := true, testBad := [3, 9] }) fun u => { u with settled := true, insvc := true }
     s.boot.firmware = true ∧ (s.die 7).mapBuilt = false ∧ (s.die 7).failed = false ∧ (s.die 7).failedService = false ∧
     (s.die 7).testsDone = true ∧ (s.memUnit (2 * 7)).settled = true ∧ (s.memUnit (2 * 7 + 1)).settled = true ∧
     s.seamStacks 7 ≠ [] ∧ s.time.tsc.toNat % 2048 = 0 ∧
     s.boot.genBeat ≠ some (s.time.tsc.toNat / 2048) ∧ s.disagrees 7 9 = true ∧ s.disagrees 7 3 = false) ∧
    ((tUp (fun d => { d with failed := true }) id).die 7).failed = true := by decide +kernel

def tLate (s : State) : State := { s with time := { Time.fresh with tsc := 2 ^ 40 } }

theorem witness_start_timeouts :
    ((tBoot .selfTest fun b => { b with pll := false }).boot.pll = false ∧ (tBoot .selfTest id).boot.ready = false ∧
      (tBoot .selfTest id).boot.rstN = true ∧ (tBoot .selfTest id).boot.pll = true ∧
      ((tBoot .selfTest id).hub 1).tested = false ∧ ((tBoot .fuses id).hub 1).failed = false ∧
      (tBoot .image id).boot.phase = .image ∧ (tBoot .firmware id).boot.phase = .firmware) ∧
    (∀ ms, ms ∈ [20, 25, 250, 300, 340, 940] → (tLate (tUp id id)).pastMs ms = true) ∧
    (let s := tLate (tUp id id)
     s.boot.rstN = true ∧ s.boot.ready = false ∧ s.boot.phase ≠ .stopped ∧ s.boot.firmware = true ∧ (s.die 7).fwOk = false ∧
     (s.die 7).failed = false ∧ s.boot.katDone = false ∧ (7 * 256 + 167) / 256 < 8 ∧ (7 * 256 + 167) % 256 < 168 ∧
     (s.memUnit 15).settled = false ∧ (s.memUnit (16 + 7)).settled = false ∧
     s.pastMs (s.trainLimit 0 15 2900 500) = true ∧ s.pastMs (s.trainLimit 1 7 1900 400) = true) ∧
    (∀ st, st ∈ [LinkSt.detect, .align] → (let s := { tLate (tUp id id) with links := [(63, { Link.fresh with st := st })] }
     (s.link 63).st = st ∧ (s.link 63).since + 50000000 ≤ s.time.tsc.toNat)) := by decide +kernel

/-- Everything has settled, at a boundary. -/
def tReady : State := { tBoot .training (fun b => { b with firmware := true, katDone := true }) with
  time := { Time.fresh with tsc := 2048, sync := true }
  dies := (List.range 8).map fun d => (d, { tDie with mapBuilt := true })
  mems := (List.range 24).map fun m => (m, tStack)
  links := (List.range 64).map fun l => (l, { Link.fresh with st := .up }) }

theorem witness_ready : tReady.time.tsc.toNat % 2048 = 0 ∧ tReady.readyNow = true := by decide +kernel

/-! ### Faults, trips, rounds and power -/

def tDieAt (f : Die → Die) : State := { tRun with dies := [(0, f tDie)] }
def tRound : RoundIn := ⟨[(15, 105)], [], [], [], 105, 2000, 7, 8, [], [(1, 3)], [], [], false⟩

theorem witness_dies_and_trips :
    ((tDieAt id).dieWorks 0 = true ∧ (tDieAt id).time.tsc.toNat % 2048 = 0 ∧ ((tDieAt id).die 0).powerLost = false ∧
      (tDieAt id).mf.tripped = false ∧ ((tDieAt id).die 0).wedged = false ∧
      16 ≤ ((tDieAt fun d => { d with silent := 16 }).die 0).silent ∧
      (let s := tDieAt fun d => { d with wedged := true, wedgedFor := 1024 }
       s.dieWorks 0 = true ∧ (s.die 0).wedged = true ∧ 1024 ≤ (s.die 0).wedgedFor ∧ dieOfCore 0 = 0 ∧
       s.block 0 0 = some tBlock ∧ tGrant ∈ (s.part tBlock.part).grants ∧ tGrant.uid = tBlock.desc.uid)) ∧
    (let s := { tRun with mf := { Mf.fresh with rebuild := true, moves := [(0, some 0)] } }
     s.mf.rebuild = true ∧ (0, some 0) ∈ s.mf.moves ∧ s.log.knows 0 (some 0) = false ∧ s.physOf 0 = some 0) ∧
    ({ tRun with mf := { Mf.fresh with rebuild := true } }.mf.moves = []) ∧
    (tRun.boot.rstN = true ∧ tRun.mf.tripped = false ∧ (tRun.die 0).powered = true ∧ 8 ≤ 9) ∧
    (let s := { tRun with mf := { Mf.fresh with trips := [(15, 105, 4)] } }
     (15, 105, 4) ∈ s.mf.trips ∧ 4 ≤ s.time.tsc.toNat / 2048 ∧
     ∀ e, e ∈ s.mf.trips → e.1 = 15 → e = (15, 105, 4)) := by decide +kernel

theorem witness_rounds :
    (let s := { tRun with
      time := { Time.fresh with tsc := 2048 * 64 }, mems := [(15, tStack)]
      mf := { Mf.fresh with dueRemap := [(15, 1, 0)], dueField := [0x20_0005] } }
     s.boot.firmware = true ∧ s.mf.roundBeat < s.time.tsc.toNat / 2048 / 64 * 64 ∧ roundOk tRound = true ∧
     s.fieldEntries.length + s.mf.dueField.length ≤ 2048 ∧ tRound.telFail = [] ∧ tRound.estEnergy ≠ 0 ∧
     (s.memUnit 15).insvc = true ∧ s.mf.tripped = false ∧ (s.hub 1).cantle.getLsbD 3 = true ∧ tRound.hubFail = []) ∧
    (∀ e, e ∈ [1, 2, 3, 4, 5, 6, 7] → mfBound e < 50001) ∧
    tRun.reg64 .mf 0x18 + 1 < 2 ^ 48 - 1 ∧ { tRound with diverged := [(4, 0)] }.diverged = [(4, 0)] ∧
    roundOk { tRound with diverged := [(4, 0)] } = true ∧
    (let s := tPort .package 1 fun h => { h with token := some ⟨1, none, 0, 0, 0, 0, 0, 0, 0⟩ }
     s.portUp 4 = true ∧ s.host.token ≠ none) := by decide +kernel

theorem witness_power :
    (tS.opens (.session 1) false = true ∧ tS.isPackage (.session 1) = true ∧ tRun.boot.pll = true ∧ tRun.mf.tripped = false) ∧
    (let s := { tS with cinch := { Cinch.fresh with mhz := 2050 } }
     s.opens (.session 1) false = true ∧ (2 : Word).getLsbD 0 = false ∧ (1 : Word).getLsbD 0 = true ∧ s.cinch.mhz ≠ 2000 ∧
     (s.die 0).powered = true) ∧
    (let s := { tPlan tSend 4 id with cinch := { Cinch.fresh with overbeats := 64 } }
     64 ≤ s.cinch.overbeats ∧ s.cinch.spent = false ∧ (s.part 0).ex.current = true ∧ (s.part 0).ex.frozen = false ∧
     (s.part 1).ex.current = false) ∧
    (tRun.pins.pwrLim = false ∧ { tRun with pins := { Pins.fresh with pwrLim := true } }.pins.pwrLim = true) ∧
    (tRun.time.slew = 0 ∧ tRun.pins.syncRec = false ∧ { tRun with pins := { Pins.fresh with syncRec := true } }.pins.syncRec = true) := by
  decide +kernel

/-! ### The spec's worked examples -/

/-- Chapter 04, encoding examples, and chapter 09's example under R191: fma g8 ← g2 × g3 + g8 of 1.5 × 2^64 in thread 7. -/
theorem test_fma_overflow_example :
    goes (.laneFma ⟨0, 0, 0x0001_0200_80C2_0000, 0, .clean⟩) (tWith { tGroup with threads := (List.range 32).map fun n =>
      { Thread.fresh 0 with g := if n = 7 then [(2, 0x5FC0_0000), (3, 0x5FC0_0000)] else [] } }) (fun t =>
      (t.group 0 0).any (fun g => (g.thread 7).reg 8 == 0x7F80_0000 && (g.thread 7).flags == 0x805 && (g.thread 6).reg 8 == 0 &&
        (g.thread 6).flags == 0) && (t.block 0 0).any fun b => b.lnf) = true := by decide +kernel

/-- The same word with PNEG and p0 raises ILLEGAL_OP (R71, R91). -/
theorem test_fma_pneg_example :
    goes (.laneFma ⟨0, 0, 0x0201_0200_80C2_0000, 0, .clean⟩) tRun (fun t =>
      t.log.flight.any (fun r => r.code == 0x0401) && (t.block 0 0).any fun b => b.st == .stopping) = true := by decide +kernel

/-- Chapter 04: s5 ← s5 + 64. -/
theorem test_scalar_add_example :
    goes (.scalarAdd ⟨0, 0, 0x1400_4514_0000_1000, 0, .clean⟩) (tWith { tGroup with s := [(5, 0xFFFF_FFFF_FFFF_FFFF)] }) (fun t =>
      (t.group 0 0).any fun g => g.sreg 5 == 63 && (g.thread 31).pc == 8) = true := by decide +kernel

/-- R114. -/
theorem test_philox_zero : philox 0 0 0 0 0 0 = [0x6627_E8D5, 0xE169_C58D, 0xBC57_AC4C, 0x9B00_DBD8] := by decide +kernel

/-- Chapter 09, the example of red: 2^24 and 31 ones by the fixed tree. -/
theorem test_red_example : (redTree (redOp 0 0) (some (0x4B80_0000, 0) :: List.replicate 31 (some (0x3F80_0000, 0)))).map
    (·.1) = some 0x4B80_000F := by decide +kernel

/-- Chapter 05, the example of R105. -/
theorem test_stochastic_example :
    (convert (.float bf16) (.stoch 16 0x9A3C) false false (fp32.decode 0x3F80_8000)).1 = 0x3F81 ∧
    (convert (.float bf16) (.stoch 16 0x1234) false false (fp32.decode 0x3F80_8000)).1 = 0x3F80 ∧
    (convert (.float bf16) .even false false (fp32.decode 0x3F80_8000)).1 = 0x3F80 := by decide +kernel

/-- Chapter 08, the example of R160: the kept positions of each group of four E2M1 values. -/
theorem test_compress_example :
    (keepTwo ([1, 0xD, 4, 2].map e2m1.decode), keepTwo ([0, 3, 0, 0xB].map e2m1.decode),
      keepTwo ([0, 0, 6, 0].map e2m1.decode), keepTwo ([7, 0xF, 7, 0].map e2m1.decode)) =
      ((1, 2), (1, 3), (0, 2), (0, 1)) := by decide +kernel

/-- Chapter 10, the example of R203. -/
theorem test_home_example :
    ({ tPart with hbmSet := [4, 5, 6, 7], hbmSize := 0x7E_0000_0000 } : Part).place 0x12_3456_7ABC = some (7, 0x4_8D15_9ABC) := by
  decide +kernel

/-- Package 652 in a torus of 64 by 32 groups. -/
def tFar : State := { tRun with regs := [(0x10, 0xC000_028C), ((Blk.dFab 0).base, 0x8000_1F3F)] }

/-- Chapter 13, the example of R300: package 652 to package 1,000 leaves in −X, on TL49 from C4. -/
theorem test_route_example : tFar.leg 1000 = some (.far 1) ∧ (Leg.far 1).linkOf 4 = some 49 := by decide +kernel

/-- Chapters 01 and 12: source numbers of logical core 643, of P163 on C4 and of pseudo-channel 26 of M7, and the place of
core 643's registers. -/
theorem test_numbers_example : tFar.source 643 = 0x0A30_0283 ∧ tFar.source (unitPhys 4 163) = 0x0A31_04A3 ∧
    tFar.source (chanUnit 7 0x4_8D15_9ABC) = 0x0A30_20FA ∧ (Blk.core 643 0).base = 0x0228_3000 := by decide +kernel

/-- Chapter 02: the beat of a TSC. -/
theorem test_beat_example : { tRun with time := { Time.fresh with tsc := 0x346_30B8_A000 } }.beatNo = 0x68C6_1714 := by
  decide +kernel

/-- The published check value of CRC-64/XZ (R330). -/
theorem test_crc64 : crc64 [0x31, 0x32, 0x33, 0x34, 0x35, 0x36, 0x37, 0x38, 0x39] = 0x995D_C9BB_DF19_39FA := by decide +kernel

/-- Chapter 13, the example of R289: partition 2 of package 652 to partition 5 of package 1,000, from TL49, a full body. -/
theorem test_route_header_example : leNat ((routeBytes ⟨0, false, 1000, 652, 5, 2, 49, 1,
      .exch { tBody with payload := List.replicate 248 0 }, none, none, false⟩).take 8)
    = 0x0400_00C5_50A3_03E8 := by decide +kernel

end Sys2Proof.Tests
end

/-! ## The reset state: every table is empty, so every entry is a fresh one -/

section
namespace Sys2Proof.Machine

@[simp] theorem State.part_reset (p : Nat) : State.reset.part p = Part.fresh := rfl
@[simp] theorem State.core_reset (c : Nat) : State.reset.core c = Core.fresh := rfl
@[simp] theorem State.link_reset (l : Nat) : State.reset.link l = Link.fresh := rfl
@[simp] theorem State.physOf_reset (c : Nat) : State.reset.physOf c = none := rfl

/-- What reads of the retained cinch settings show after package cold reset (R432, R456). -/
theorem readWord_reset_cinch : State.reset.readWord 0xB000 = 2000 ∧ State.reset.readWord 0xB004 = 600 ∧
    State.reset.readWord 0xB008 = 0x1400 := by decide

/-- What reads of `TIME_CTRL`, the digest control of partition 0 and the ring size of its command table show after reset:
no word is stored, so each shows its register map's reset value. -/
theorem readWord_reset_control : State.reset.readWord 0x1008 = 2 ∧ State.reset.readWord 0x4_8000 = 0x10C ∧
    State.reset.readWord 0x2_0010 = 4 := by decide

/-- `MMX_CTRL.SMMA_EN` of logical core 0 after reset, which a read does not show while the core is vacant (R18). -/
theorem reg_reset_smmaEn : State.reset.reg (.core 0 2) 4 = 1 := by decide

/-- Settles O2: the register words are evaluated, and the tables are empty. -/
theorem resetState : Obligations.ResetState := by
  unfold Obligations.ResetState
  obtain ⟨hcap, hfast, hctrl⟩ := readWord_reset_cinch
  obtain ⟨htime, hdigest, hring⟩ := readWord_reset_control
  have parts : ∀ p, (State.reset.part p).st = .free := fun p => by rw [State.part_reset]; rfl
  have cores : ∀ c, State.reset.physOf c = none ∧ State.reset.core c = Core.fresh :=
    fun c => ⟨State.physOf_reset c, State.core_reset c⟩
  have links : ∀ l, (State.reset.link l).st = .off := fun l => by rw [State.link_reset]; rfl
  exact ⟨rfl, htime, rfl, rfl, hcap, hfast, hctrl, reg_reset_smmaEn, hdigest, hring, parts, cores, links,
    rfl, rfl, rfl, rfl⟩

end Sys2Proof.Machine
end

/-! ## Latches (R19, R20): dropping a path's latch changes nothing else -/

section
namespace Sys2Proof.Machine

variable (s : State) (path : Path)

@[simp] theorem State.dropLatch_out : (s.dropLatch path).out = s.out := rfl
@[simp] theorem State.dropLatch_time : (s.dropLatch path).time = s.time := rfl
@[simp] theorem State.dropLatch_log : (s.dropLatch path).log = s.log := rfl
@[simp] theorem State.regWord_dropLatch (a : Nat) : (s.dropLatch path).regWord a = s.regWord a := rfl

/-- A path whose latch is dropped holds nothing. -/
theorem State.latch_dropLatch : (s.dropLatch path).latch path = ⟨pathKey path, none, none⟩ := by
  have gone : (s.dropLatch path).latches.find? (fun l => l.path == pathKey path) = none := by
    simp [State.dropLatch, State.setLatch]
  simp [State.latch, gone]

theorem State.latch_congr {s t : State} (h : t.latches = s.latches) (p : Path) : t.latch p = s.latch p := by
  simp [State.latch, h]

/-! ## The arrival of an access (R365): only the idle time of its session starts again -/

theorem State.arrived_session (n : Nat) : s.arrived (.session n) =
    s.updHost fun h => { h with sessions := h.sessions.modify n fun q => { q with lastPkt := s.time.tsc } } := rfl

@[simp] theorem State.arrived_out : (s.arrived path).out = s.out := by cases path <;> rfl
@[simp] theorem State.arrived_time : (s.arrived path).time = s.time := by cases path <;> rfl
@[simp] theorem State.arrived_log : (s.arrived path).log = s.log := by cases path <;> rfl
@[simp] theorem State.arrived_latches : (s.arrived path).latches = s.latches := by cases path <;> rfl
@[simp] theorem State.arrived_parts : (s.arrived path).parts = s.parts := by cases path <;> rfl
@[simp] theorem State.regWord_arrived (a : Nat) : (s.arrived path).regWord a = s.regWord a := by cases path <;> rfl
@[simp] theorem State.physOf_arrived (c : Nat) : (s.arrived path).physOf c = s.physOf c := by cases path <;> rfl

@[simp] theorem State.latch_arrived (p : Path) : (s.arrived path).latch p = s.latch p :=
  State.latch_congr (State.arrived_latches s path) p

@[simp] theorem State.scopeOf_arrived (n : Nat) : (s.arrived path).scopeOf n = s.scopeOf n := by
  cases path with
  | priv c => rfl
  | session m =>
    simp only [State.scopeOf, State.arrived_session, State.updHost_host, Tab.find_modify]
    split
    · cases s.host.sessions.find n <;> rfl
    · rfl

@[simp] theorem State.isPackage_arrived (p : Path) : (s.arrived path).isPackage p = s.isPackage p := by
  cases p <;> simp [State.isPackage]

@[simp] theorem State.boundTo_arrived (p : Path) : (s.arrived path).boundTo p = s.boundTo p := by
  cases p <;> simp [State.boundTo]

/-! ### What an access asks of the state does not depend on idle times and latches -/

@[simp] theorem State.part_arrived (p : Nat) : (s.arrived path).part p = s.part p := by simp [State.part]

@[simp] theorem State.reaches_arrived (p o : Nat) (b : Blk) : (s.arrived path).reaches p o b = s.reaches p o b := by
  cases path <;> rfl

@[simp] theorem State.outOfReach_arrived (p : Path) (a : Nat) : (s.arrived path).outOfReach p a = s.outOfReach p a := by
  simp [State.outOfReach]

@[simp] theorem State.mayWrite_arrived (p : Path) (b : Blk) : (s.arrived path).mayWrite p b = s.mayWrite p b := by
  simp [State.mayWrite]

@[simp] theorem State.plainAt_arrived (b : Blk) (o : Nat) : (s.arrived path).plainAt b o = s.plainAt b o := by
  cases path <;> rfl

@[simp] theorem State.source_arrived (u : Nat) : (s.arrived path).source u = s.source u := by cases path <;> rfl
@[simp] theorem State.servingHub_arrived (a : Nat) : (s.arrived path).servingHub a = s.servingHub a := by
  cases path <;> rfl

@[simp] theorem State.outOfReach_dropLatch (p : Path) (a : Nat) : (s.dropLatch path).outOfReach p a = s.outOfReach p a :=
  rfl
@[simp] theorem State.mayWrite_dropLatch (p : Path) (b : Blk) : (s.dropLatch path).mayWrite p b = s.mayWrite p b := rfl
@[simp] theorem State.physOf_dropLatch (c : Nat) : (s.dropLatch path).physOf c = s.physOf c := rfl
@[simp] theorem State.plainAt_dropLatch (b : Blk) (o : Nat) : (s.dropLatch path).plainAt b o = s.plainAt b o := rfl
@[simp] theorem State.source_dropLatch (u : Nat) : (s.dropLatch path).source u = s.source u := rfl
@[simp] theorem State.servingHub_dropLatch (a : Nat) : (s.dropLatch path).servingHub a = s.servingHub a := rfl

/-- An access that its path opens is taken up in the state in which it has arrived. -/
theorem State.access_of_opens {s : State} {path : Path} {read : Bool} (h : s.opens path read = true) (k : State → Res) :
    s.access path read k = k (s.arrived path) := by
  cases path with
  | priv c =>
    have hc : c < 1280 := by simpa [State.opens] using h
    simp [State.access, needUnit, hc, State.arrived]
  | session n =>
    cases hf : s.host.sessions.find n with
    | none => simp [State.opens, hf] at h
    | some x =>
      cases hx : x.scope with
      | package =>
        have hclaim : x.claim = false := by simpa [State.opens, hf, hx] using h
        simp only [State.access, State.message, hf, needSome_some, hx, hclaim, Bool.false_or, Bool.false_and]
        rfl
      | partition p =>
        obtain ⟨hclaim, hst⟩ : x.claim = false ∧ (read = true ∨ (s.part p).st ≠ .erased) := by
          simpa [State.opens, hf, hx] using h
        have herased : ((s.part p).st == .erased && !read) = false := by
          rcases hst with hread | hst
          · simp [hread]
          · simp [hst]
        have kept : ∀ f, (s.updHost f).part p = s.part p := fun _ => rfl
        simp only [State.access, State.message, hf, needSome_some, hx, hclaim, Bool.false_or, kept, herased]
        rfl

end Sys2Proof.Machine
end

/-! ## The frame of a management access -/

section
namespace Sys2Proof.Machine

variable {s t u : State} {path : Path}

theorem MgmtOnly.refl (s : State) : MgmtOnly s s := ⟨rfl, rfl, s.recordsAdded_refl⟩

theorem MgmtOnly.trans (h : MgmtOnly s t) (k : MgmtOnly t u) : MgmtOnly s u := by
  obtain ⟨hrest, hhost, hlog⟩ := h
  obtain ⟨krest, khost, klog⟩ := k
  refine ⟨?_, ?_, hlog.trans klog⟩
  · rw [krest, hrest]
  · rw [khost, hhost]

theorem MgmtOnly.arrived (s : State) (path : Path) : MgmtOnly s (s.arrived path) := by
  cases path <;> exact ⟨rfl, rfl, s.recordsAdded_refl⟩

theorem MgmtOnly.setLatch (s : State) (l : Latch) : MgmtOnly s (s.setLatch l) := ⟨rfl, rfl, s.recordsAdded_refl⟩

theorem MgmtOnly.dropLatch (s : State) (path : Path) : MgmtOnly s (s.dropLatch path) := MgmtOnly.setLatch s _

theorem MgmtOnly.record (s : State) (unit code sev part : Nat) (fs : List (Nat × Nat)) :
    MgmtOnly s (s.record unit code sev part fs) := ⟨rfl, rfl, List.prefix_append _ _, rfl⟩

theorem MgmtOnly.mgmtRecord (s : State) (code : Nat) (path : Path) (a v : Nat) (write : Bool) (why : Nat) :
    MgmtOnly s (s.mgmtRecord code path a v write why) := MgmtOnly.record ..

/-- The record of a session's write that failed (R465). -/
theorem State.mgmtRecord_session_flight (s : State) (code n a v why : Nat) :
    (s.mgmtRecord code (.session n) a v true why).log.flight = s.log.flight ++
      [⟨s.time.tsc, s.source (unitSeq (s.servingHub a)), code, 0, 0xF, false, false,
        payload [(0, a), (32, v), (64, 1), (65, 0), (66, n), (98, why)]⟩] := rfl

/-- An output changes of the host side only what counts the frames that carry it (R358). -/
theorem HostSide.sends_rest (h : HostSide) (o : Out) :
    h.sends o = { h with sessions := (h.sends o).sessions, txDue := (h.sends o).txDue } := by
  unfold HostSide.sends
  split <;> rfl

theorem MgmtOnly.emit (s : State) (o : Out) : MgmtOnly s (s.emit o) :=
  ⟨rfl, HostSide.sends_rest s.host o, s.recordsAdded_refl⟩

/-! ## What a path is told of a write (R367) -/

/-- The state when a write has been answered: a session gets its answer, privileged software none. -/
def State.answered (s : State) : Path → State
  | .session n => s.emit (.ok n)
  | .priv _ => s

theorem State.answered_out (s : State) (path : Path) : (s.answered path).out = okTo path s.out := by cases path <;> rfl
@[simp] theorem State.answered_log (s : State) (path : Path) : (s.answered path).log = s.log := by cases path <;> rfl
@[simp] theorem State.regWord_answered (s : State) (path : Path) (a : Nat) :
    (s.answered path).regWord a = s.regWord a := by cases path <;> rfl

theorem MgmtOnly.answered (s : State) (path : Path) : MgmtOnly s (s.answered path) := by
  cases path with
  | session n => exact MgmtOnly.emit s _
  | priv c => exact MgmtOnly.refl s

/-! ## Writes on a path (R20) -/

/-- A write that is taken up, no decision on its core being due, is made when the access has arrived, and answered. -/
theorem State.pathWrite_of_opens {a : Nat} (hopen : s.opens path false = true) (hdue : s.moveDue a = false) (v : Word) :
    s.pathWrite path a v = .next (((s.arrived path).mgmtWrite path a v).answered path) := by
  simp only [State.pathWrite, hdue, Bool.not_false, need_true, State.access_of_opens hopen]
  cases path <;> rfl

/-- The low word that a path holds for the high word at an address (R20). -/
def State.heldLow (s : State) (path : Path) (a : Nat) : Option Word :=
  match (s.latch path).wr with
  | some (h, w) => if h = a then some w else none
  | none => none

theorem State.heldLow_of_none {a : Nat} (h : (s.latch path).wr = none) : s.heldLow path a = none := by
  simp [State.heldLow, h]

/-- A write that its path may make drops the latch, then holds a low word or goes to the dispatcher with the low word held
for its address; `PKG_ID` and `FAB_TOPO` have writes of their own. -/
theorem State.mgmtWrite_eq {a o : Nat} {b : Blk} {r : Reg} (halign : a % 4 = 0) (hreach : s.outOfReach path a = false)
    (hloc : locate a = some (b, o)) (hreg : regAt a = some r) (hmay : s.mayWrite path b = true)
    (hcore : ∀ c sub, b = .core c sub → (s.physOf c).isSome = true) (htopo : ∀ d, b = .dFab d → o ≠ 0) (hid : a ≠ 0x10)
    (v : Word) : s.mgmtWrite path a v =
      if r.half = 1 then (s.dropLatch path).setLatch ⟨pathKey path, none, some (a + 4, v)⟩
      else (s.dropLatch path).applyWrite path b o a r (s.heldLow path a) v := by
  have there : ∀ c sub, b = .core c sub → (s.physOf c).isNone = false := fun c sub hb => by simp [hcore c sub hb]
  cases b with
  | core c sub =>
    simp only [State.mgmtWrite, halign, hreach, hloc, hreg, hmay, hid, there c sub rfl, State.outOfReach_dropLatch,
      State.mayWrite_dropLatch, State.physOf_dropLatch]
    rfl
  | dFab d =>
    simp only [State.mgmtWrite, halign, hreach, hloc, hreg, hmay, hid, beq_eq_false_iff_ne.mpr (htopo d rfl),
      State.outOfReach_dropLatch, State.mayWrite_dropLatch]
    rfl
  | _ =>
    simp only [State.mgmtWrite, halign, hreach, hloc, hreg, hmay, hid, State.outOfReach_dropLatch,
      State.mayWrite_dropLatch]
    rfl

/-! ### The plain effect -/

/-- A register none of whose bits a write sets or clears keeps its word. -/
theorem Reg.after_of_readOnly {r : Reg} (hrw : r.rw = 0) (hw1c : r.w1c = 0) (old v : Word) : r.after old v = old := by
  have keepAll : ~~~(BitVec.ofNat 32 0) = BitVec.allOnes 32 := rfl
  simp only [Reg.after, hrw, hw1c, BitVec.and_zero, BitVec.or_zero, keepAll, BitVec.and_allOnes]

theorem State.regWord_putWord (s : State) (a : Nat) (r : Reg) (v : Word) :
    (s.putWord a r none v).regWord a = r.after (s.regWord a) v := by
  by_cases h : r.rw = 0 ∧ r.w1c = 0
  · simp [State.putWord, h, Reg.after_of_readOnly h.1 h.2]
  · simp [State.putWord, h]

theorem State.regWord_putWord_other (s : State) {a k : Nat} (hk : k ≠ a) (r : Reg) (v : Word) :
    (s.putWord a r none v).regWord k = s.regWord k := by
  simp only [State.putWord]
  split
  · rfl
  · exact State.regWord_setRegWord_other s _ hk

/-- The plain effect changes register words only. -/
theorem State.putWord_rest (s : State) (a : Nat) (r : Reg) (low : Option Word) (v : Word) :
    s.putWord a r low v = { s with regs := (s.putWord a r low v).regs } := by
  cases low with
  | none =>
    simp only [State.putWord]
    split <;> rfl
  | some w =>
    simp only [State.putWord]
    split <;> cases regAt (a - 4) <;> rfl

@[simp] theorem State.putWord_out (s : State) (a : Nat) (r : Reg) (low : Option Word) (v : Word) :
    (s.putWord a r low v).out = s.out := by rw [State.putWord_rest]

@[simp] theorem State.putWord_log (s : State) (a : Nat) (r : Reg) (low : Option Word) (v : Word) :
    (s.putWord a r low v).log = s.log := by rw [State.putWord_rest]

theorem MgmtOnly.putWord (s : State) (a : Nat) (r : Reg) (low : Option Word) (v : Word) :
    MgmtOnly s (s.putWord a r low v) := by
  rw [State.putWord_rest]
  exact ⟨rfl, rfl, s.recordsAdded_refl⟩

/-! ### Registers whose write starts nothing -/

/-- A register whose write starts nothing is neither `PKG_ID` nor `FAB_TOPO`. -/
theorem State.plainAt_ne {a o : Nat} {b : Blk} (h : s.plainAt b o = true) (hloc : locate a = some (b, o)) :
    a ≠ 0x10 ∧ ∀ d, b ≠ .dFab d := by
  refine ⟨?_, ?_⟩
  · rintro rfl
    obtain ⟨rfl, rfl⟩ : Blk.pkg = b ∧ 0x10 = o := by simpa [locate, hubBlk] using hloc
    simp [State.plainAt] at h
  · rintro d rfl
    simp [State.plainAt] at h

/-- The dispatcher gives a register whose write starts nothing the plain effect. -/
theorem State.applyWrite_of_plainAt {b : Blk} {o a : Nat} {r : Reg} (h : s.plainAt b o = true) (hperf : r.perf = false)
    (low : Option Word) (v : Word) : s.applyWrite path b o a r low v = s.putWord a r low v := by
  cases b with
  | time | fuse | map | eth _ | sess | digest _ | health _ | dHbm _ => simp [State.applyWrite, hperf]
  | core c sub =>
    have hsub : sub ≠ 7 := by rintro rfl; simp [State.plainAt] at h
    simp [State.applyWrite, hperf, hsub]
  | cmdt p =>
    by_cases hmark : o = 0x30
    · simp [State.applyWrite, hperf, hmark]
    · obtain ⟨⟨⟨hoff, h0⟩, h10⟩, h20⟩ : ((s.cmdtOn p = false ∧ o ≠ 0) ∧ o ≠ 0x10) ∧ o ≠ 0x20 := by
        simpa [State.plainAt, hmark] using h
      simp [State.applyWrite, hperf, hmark, hoff, h0, h10, h20]
  | xplan p =>
    obtain ⟨h0, h2c⟩ : o ≠ 0 ∧ o ≠ 0x2C := by simpa [State.plainAt] using h
    simp [State.applyWrite, hperf, h0, h2c]
  | upd p =>
    obtain ⟨h0, hidle⟩ : o ≠ 0 ∧ s.updIdle p = true := by simpa [State.plainAt] using h
    simp [State.applyWrite, hperf, h0, hidle]
  | pgrp p =>
    rcases (by simpa [State.plainAt] using h : o % 0x40 ≠ 0x18 ∨ s.updIdle p = true) with hword | hidle
    · simp [State.applyWrite, hperf, hword]
    · simp [State.applyWrite, hperf, hidle]
  | _ => simp [State.plainAt] at h

/-- A write of a writable register that starts nothing, of other than a low word, has the plain effect. -/
theorem State.mgmtWrite_of_plainAt {a o : Nat} {b : Blk} {r : Reg} (hw : s.writable path a b o r)
    (hplain : s.plainAt b o = true) (hhalf : r.half ≠ 1) (v : Word) :
    (s.arrived path).mgmtWrite path a v =
      ((s.arrived path).dropLatch path).putWord a r (s.heldLow path a) v := by
  obtain ⟨_, _, halign, hloc, hreg, hperf, hreach, hmay, hcore⟩ := hw
  obtain ⟨hid, hfab⟩ := State.plainAt_ne hplain hloc
  have held : (s.arrived path).heldLow path a = s.heldLow path a := by simp [State.heldLow]
  rw [State.mgmtWrite_eq halign (by simpa using hreach) hloc hreg (by simpa using hmay) (by simpa using hcore)
    (fun d hd => absurd hd (hfab d)) hid, if_neg hhalf, held]
  exact State.applyWrite_of_plainAt (by simpa using hplain) hperf _ v

/-! ## REGISTER_WRITE and REGWRITE -/

/-- REGISTER_WRITE of a 32-bit register whose write starts nothing (R5, R6, R20). -/
theorem registerWrite_plain {a o : Nat} {b : Blk} {r : Reg} (hw : s.writable path a b o r)
    (hplain : s.plainAt b o = true) (hhalf : r.half = 0) (hheld : (s.latch path).wr = none) (v : Word) :
    Does (.registerWrite path a v) s fun t =>
      t.regWord a = r.after (s.regWord a) v ∧ (∀ k, k ≠ a → t.regWord k = s.regWord k) ∧
        t.out = okTo path s.out ∧ t.log = s.log ∧ MgmtOnly s t := by
  have hopen : s.opens path false = true := hw.1
  have hdue : s.moveDue a = false := hw.2.1
  have effect := State.mgmtWrite_of_plainAt hw hplain (by omega) v
  rw [State.heldLow_of_none hheld] at effect
  refine ⟨(((s.arrived path).dropLatch path).putWord a r none v).answered path, ?_, ?_, ?_, ?_, ?_, ?_⟩
  · rw [exec_registerWrite, execRegisterWrite, State.pathWrite_of_opens hopen hdue, effect]
  · simp [State.regWord_putWord]
  · intro k hk
    simp [State.regWord_putWord_other _ hk]
  · simp [State.answered_out]
  · simp
  · exact (((MgmtOnly.arrived s path).trans (MgmtOnly.dropLatch _ path)).trans (MgmtOnly.putWord ..)).trans
      (MgmtOnly.answered _ path)

/-- REGWRITE of four aligned bytes is REGISTER_WRITE on its session's path (R367). -/
theorem regwrite_eq_registerWrite {a : Nat} (halign : a % 4 = 0) (n : Nat) (v : Word) (s : State) :
    exec (.regwrite n a 4 v) s = exec (.registerWrite (.session n) a v) s := by
  simp [exec_regwrite, exec_registerWrite, execRegwrite, execRegisterWrite, halign]

/-- REGWRITE of another width or at a misaligned address is refused and recorded, and writes nothing (R19, R465). -/
theorem regwrite_refused {n a width : Nat} (hopen : s.opens (.session n) false = true) (hbad : width ≠ 4 ∨ a % 4 ≠ 0)
    (v : Word) :
    Does (.regwrite n a width v) s fun t =>
      t.out = .refused n :: s.out ∧ t.regs = s.regs ∧ (t.latch (.session n)).wr = none ∧
      t.log.flight = s.log.flight ++ [⟨s.time.tsc, s.source (unitSeq (s.servingHub a)), 0x0101, 0, 0xF, false, false,
        payload [(0, a), (32, v.toNat), (64, 1), (65, 0), (66, n), (98, 0)]⟩] ∧ MgmtOnly s t := by
  refine ⟨(((s.arrived (.session n)).dropLatch (.session n)).mgmtRecord 0x0101 (.session n) a v.toNat true 0).emit
    (.refused n), ?_, rfl, rfl, ?_, ?_, ?_⟩
  · rw [exec_regwrite, execRegwrite, if_pos hbad, State.access_of_opens hopen]
  · exact congrArg Latch.wr (State.latch_dropLatch (s.arrived (.session n)) (.session n))
  · simp [State.mgmtRecord_session_flight]
  · exact (((MgmtOnly.arrived s _).trans (MgmtOnly.dropLatch _ _)).trans (MgmtOnly.mgmtRecord ..)).trans
      (MgmtOnly.emit ..)

end Sys2Proof.Machine
end

section
namespace Sys2Proof.Machine

/-- Settles O7: a write of a plain register is its plain effect, and REGWRITE either is REGISTER_WRITE or is refused. -/
theorem registerWritesComplete : Obligations.RegisterWritesComplete :=
  ⟨fun _ _ v _ _ _ _ hw hplain hhalf hheld => registerWrite_plain hw hplain hhalf hheld v,
    fun n _ v s halign => regwrite_eq_registerWrite halign n v s,
    fun _ _ _ v _ hopen hbad => regwrite_refused hopen hbad v⟩

end Sys2Proof.Machine
end

/-! ## What a system instruction writes and when a wait for a beat ends (R28, R87, R89, R90) -/

section
namespace Sys2Proof.Machine

/-- An issue command whose instruction is found, is fetched and runs has its row's effect on the state after the fetch. -/
theorem issueRow_of_issues {o s : State} {i : Issue} {sh : Shape} {x : Iss} (h : o.issues i sh x s)
    (body : Iss → State → Res) : issueRow sh i o body = body x s := by
  obtain ⟨⟨hi, hf, rfl⟩, hr⟩ := h
  exact issueRow_of_runs hi hf hr body

theorem State.issues_at {o s : State} {i : Issue} {sh : Shape} {x : Iss} (h : o.issues i sh x s) : x.At s := by
  obtain ⟨⟨hi, hf, rfl⟩, -⟩ := h
  exact State.issuing_at hi hf

variable {x : Iss} {s : State}

/-- The group with s[DST] written where the instruction acts. -/
theorem Iss.sreg_written (x : Iss) (v : DWord) :
    (if x.acts then x.grp.setSreg x.sDst v else x.grp).sreg = x.wroteS v := by
  funext r
  by_cases hacts : x.acts = true
  · simp [Iss.wroteS, Group.sreg, Group.setSreg, Tab.get_put, hacts]
  · simp [Iss.wroteS, hacts]

/-- An instruction that writes s[DST] where it acts, and changes nothing else. -/
theorem Iss.commit_wroteS (hat : x.At s) (v : DWord) :
    ScalarDone x [] (x.wroteS v) s (x.commit s (if x.acts then x.grp.setSreg x.sDst v else x.grp)) := by
  rw [← Iss.sreg_written]
  exact Iss.commit_scalar hat [] _ (by split <;> rfl) (by split <;> rfl)

/-! ### The tick of execution (R28) -/

/-- The TSC at a tick of the beat: it neither wraps nor falls. -/
theorem State.atTick_tsc (s : State) (tick : Nat) : (s.atTick tick).time.tsc.toNat =
    max (s.time.tsc.toNat / 2048 * 2048 +
      if tick % 2048 = 0 then 0 else min 2047 ((tick % 2048 : Nat) + s.time.slew).toNat) s.time.tsc.toNat := by
  have inBeat : (if tick % 2048 = 0 then 0 else min 2047 ((tick % 2048 : Nat) + s.time.slew).toNat) ≤ 2047 := by
    split <;> omega
  simp only [State.atTick, BitVec.toNat_ofNat]
  refine Nat.mod_eq_of_lt ?_
  generalize (if tick % 2048 = 0 then 0 else min 2047 ((tick % 2048 : Nat) + s.time.slew).toNat) = e at inBeat ⊢
  have := s.time.tsc.isLt
  omega

theorem State.atTick_rest (s : State) (tick : Nat) :
    s.atTick tick = { s with time := { s.time with tsc := (s.atTick tick).time.tsc } } := rfl

theorem Iss.At.atTick (h : x.At s) (tick : Nat) : x.At (s.atTick tick) := ⟨h.group, h.block⟩

theorem tsc_completes {i : Issue} {o : State} (tick : Nat) (h : o.issues i shTsc x s) :
    ∃ t, exec (.tsc i tick) o = .next t ∧ t.time = { s.time with tsc := t.time.tsc } ∧
      s.time.tsc.toNat ≤ t.time.tsc.toNat ∧
      t.time.tsc.toNat = max (s.time.tsc.toNat / 2048 * 2048 +
        if tick % 2048 = 0 then 0 else min 2047 ((tick % 2048 : Nat) + s.time.slew).toNat) s.time.tsc.toNat ∧
      ScalarDone x [] (x.wroteS t.time.tsc) { s with time := t.time } t := by
  refine ⟨x.commit (s.atTick tick) (if x.acts then x.grp.setSreg x.sDst (s.atTick tick).time.tsc else x.grp), ?_, rfl, ?_,
    State.atTick_tsc s tick, Iss.commit_wroteS ((State.issues_at h).atTick tick) _⟩
  · rw [exec_tsc, execTsc, issueRow_of_issues h]
    rfl
  · exact (Nat.le_max_right ..).trans_eq (State.atTick_tsc s tick).symm

theorem beat_completes :
    Completes .beat shBeat fun x s => ScalarDone x [] (x.wroteS (BitVec.ofNat 64 (s.time.tsc.toNat / 2048))) s :=
  fun i o _ _ h => ⟨_, by rw [exec_beat, execBeat, issueRow_of_issues h]; rfl, Iss.commit_wroteS (State.issues_at h) _⟩

theorem rdpc_completes : Completes .rdpc shRdpc fun x => ScalarDone x [] (x.wroteS x.pc) :=
  fun i o _ _ h => ⟨_, by rw [exec_rdpc, execRdpc, issueRow_of_issues h]; rfl, Iss.commit_wroteS (State.issues_at h) _⟩

/-! ### Waiting for a beat (R89) -/

theorem wbeat_goes_on {i : Issue} {o : State} (h : o.issues i shWbeat x s)
    (hbegun : x.acts = false ∨ (x.grp.sreg (x.f 39 34)).toNat ≤ s.time.tsc.toNat / 2048) :
    ∃ t, exec (.wbeat i) o = .next t ∧ ScalarDone x [] x.grp.sreg s t := by
  have taken : (!x.acts || decide ((x.grp.sreg (x.f 39 34)).toNat ≤ s.beatNo)) = true := by
    rcases hbegun with hacts | hbeat
    · simp [hacts]
    · simp [State.beatNo, hbeat]
  refine ⟨x.commit s x.grp, ?_, Iss.commit_scalar (State.issues_at h) [] _ rfl rfl⟩
  rw [exec_wbeat, execWbeat, issueRow_of_issues h]
  exact if_pos taken

/-- The test of WBEAT_RELEASE: a thread waits at an address for a beat that has begun. -/
def Thread.dueAt (t : Thread) (pc : DWord) (beat : Nat) : Bool :=
  !t.exited && t.pc == pc && match t.wait with
    | .wbeat b => decide (b.toNat ≤ beat)
    | _ => false

theorem Thread.dueAt_iff (t : Thread) (pc : DWord) (beat : Nat) : t.dueAt pc beat = true ↔
    t.exited = false ∧ t.pc = pc ∧ ∃ b, t.wait = .wbeat b ∧ b.toNat ≤ beat := by
  cases hw : t.wait <;> simp [Thread.dueAt, hw, and_assoc]

/-- The group with the threads that wait at an address for a beat that has begun gone on. -/
def Group.releaseAt (g : Group) (pc : DWord) (beat : Nat) : Group :=
  { g with threads := g.threads.map fun t => if t.dueAt pc beat then { t with wait := .none, pc := t.pc + 8 } else t }

/-- WBEAT_RELEASE changes the group's waits, and in its block the watchdogs alone. -/
theorem exec_wbeatRelease_of_due {core grp : Nat} {pc : DWord} {k : Group} (hcore : core < 1280)
    (hgrp : s.group core grp = some k) (hdue : (k.threads.any fun t => t.dueAt pc s.beatNo) = true) :
    ∃ f, exec (.wbeatRelease core grp pc) s =
      .next ((s.setGroup core grp (k.releaseAt pc s.beatNo)).updBlock core k.bslot f) := by
  simp only [exec_wbeatRelease, execWbeatRelease, needUnit_lt hcore, hgrp, needSome_some]
  exact ⟨_, need_of hdue⟩

theorem Group.thread_eq_of_getElem? {g : Group} {n : Nat} {t : Thread} (h : g.threads[n]? = some t) :
    g.thread n = t := by
  simp [Group.thread, List.getD, h]

theorem Group.thread_releaseAt {g : Group} {th : Nat} (hsome : (g.threads[th]?).isSome) (pc : DWord) (beat : Nat) :
    (g.releaseAt pc beat).thread th = if (g.thread th).dueAt pc beat
      then { g.thread th with wait := .none, pc := pc + 8 } else g.thread th := by
  obtain ⟨t, ht⟩ := Option.isSome_iff_exists.mp hsome
  have mapped : (g.releaseAt pc beat).threads[th]? =
      some (if t.dueAt pc beat then { t with wait := .none, pc := t.pc + 8 } else t) := by
    simp [Group.releaseAt, ht]
  rw [Group.thread_eq_of_getElem? mapped, Group.thread_eq_of_getElem? ht]
  split
  · rename_i hdue
    rw [((Thread.dueAt_iff ..).mp hdue).2.1]
  · rfl

theorem wbeatRelease_completes {core grp : Nat} {pc : DWord} {k : Group} (hcore : core < 1280)
    (hgrp : s.group core grp = some k)
    (hdue : ∃ th b, (k.threads[th]?).isSome ∧ (k.thread th).exited = false ∧ (k.thread th).pc = pc ∧
      (k.thread th).wait = .wbeat b ∧ b.toNat ≤ s.time.tsc.toNat / 2048) :
    ∃ t g, exec (.wbeatRelease core grp pc) s = .next t ∧ t.group core grp = some g ∧ OnlyCore core [] s t ∧
      ∀ th, (k.threads[th]?).isSome → g.thread th =
        if (k.thread th).exited = false ∧ (k.thread th).pc = pc ∧
            (∃ b, (k.thread th).wait = .wbeat b ∧ b.toNat ≤ s.time.tsc.toNat / 2048)
        then { k.thread th with wait := .none, pc := pc + 8 } else k.thread th := by
  obtain ⟨th, b, hsome, hexit, hpc, hwait, hbegun⟩ := hdue
  obtain ⟨t, ht⟩ := Option.isSome_iff_exists.mp hsome
  have someDue : (k.threads.any fun t => t.dueAt pc s.beatNo) = true := by
    rw [Group.thread_eq_of_getElem? ht] at hexit hpc hwait
    exact List.any_eq_true.mpr ⟨t, List.mem_of_getElem? ht, (Thread.dueAt_iff ..).mpr ⟨hexit, hpc, b, hwait, hbegun⟩⟩
  obtain ⟨f, hexec⟩ := exec_wbeatRelease_of_due hcore hgrp someDue
  refine ⟨_, k.releaseAt pc s.beatNo, hexec, ?_, (OnlyCore.setCore core _).trans (OnlyCore.setCore core _), ?_⟩
  · rw [State.group_updBlock, State.group_setGroup, if_pos rfl]
  · intro th hsome
    rw [Group.thread_releaseAt hsome]
    exact ite_congr (propext (Thread.dueAt_iff ..)) (fun _ => rfl) fun _ => rfl

/-- Settles O27: each row's effect, and the test by which a path is released. -/
theorem timeAndAddressReadsComplete : Obligations.TimeAndAddressReadsComplete :=
  ⟨fun _ tick _ _ _ h => tsc_completes tick h, beat_completes, rdpc_completes,
    fun _ _ _ _ h hbegun => wbeat_goes_on h hbegun,
    fun _ _ _ _ _ hcore hgrp hdue => wbeatRelease_completes hcore hgrp hdue⟩

end Sys2Proof.Machine
end

/-! ## Writes of registers that have an effect of their own (R18, R20) -/

section
namespace Sys2Proof.Machine

/-- A write on a path is taken up and reaches the dispatcher: no decision on the address's core is due, the register at the
address is in reach, no vacant core's and no low word, and the path may write it. -/
structure State.Dispatches (s : State) (path : Path) (a : Nat) (b : Blk) (o : Nat) (r : Reg) : Prop where
  opens : s.opens path false = true
  due : s.moveDue a = false
  aligned : a % 4 = 0
  reach : s.outOfReach path a = false
  loc : locate a = some (b, o)
  reg : regAt a = some r
  whole : r.half ≠ 1
  may : s.mayWrite path b = true
  there : ∀ c sub, b = .core c sub → (s.physOf c).isSome = true
  noTopo : ∀ d, b = .dFab d → o ≠ 0
  noId : a ≠ 0x10

/-- The state in which a write is applied: the access has arrived and the path's latch is dropped. -/
def State.taken (s : State) (path : Path) : State := (s.arrived path).dropLatch path

variable {s t : State} {path : Path} {a o : Nat} {b : Blk} {r : Reg}

@[simp] theorem State.taken_time : (s.taken path).time = s.time := by simp [State.taken]
@[simp] theorem State.taken_log : (s.taken path).log = s.log := by simp [State.taken]
@[simp] theorem State.taken_out : (s.taken path).out = s.out := by simp [State.taken]
@[simp] theorem State.taken_mem : (s.taken path).mem = s.mem := by cases path <;> rfl
@[simp] theorem State.taken_cores : (s.taken path).cores = s.cores := by cases path <;> rfl
@[simp] theorem State.taken_regs : (s.taken path).regs = s.regs := by cases path <;> rfl
@[simp] theorem State.taken_cinch : (s.taken path).cinch = s.cinch := by cases path <;> rfl
@[simp] theorem State.taken_dies : (s.taken path).dies = s.dies := by cases path <;> rfl
@[simp] theorem State.taken_parts : (s.taken path).parts = s.parts := by cases path <;> rfl
@[simp] theorem State.regWord_taken (k : Nat) : (s.taken path).regWord k = s.regWord k := by simp [State.taken]
@[simp] theorem State.core_taken (c : Nat) : (s.taken path).core c = s.core c := by simp [State.core]

theorem MgmtOnly.taken (s : State) (path : Path) : MgmtOnly s (s.taken path) :=
  (MgmtOnly.arrived s path).trans (MgmtOnly.dropLatch _ path)

@[simp] theorem State.answered_mem : (s.answered path).mem = s.mem := by cases path <;> rfl
@[simp] theorem State.answered_cores : (s.answered path).cores = s.cores := by cases path <;> rfl
@[simp] theorem State.answered_regs : (s.answered path).regs = s.regs := by cases path <;> rfl
@[simp] theorem State.answered_cinch : (s.answered path).cinch = s.cinch := by cases path <;> rfl
@[simp] theorem State.answered_dies : (s.answered path).dies = s.dies := by cases path <;> rfl
@[simp] theorem State.answered_parts : (s.answered path).parts = s.parts := by cases path <;> rfl
@[simp] theorem State.core_answered (c : Nat) : (s.answered path).core c = s.core c := by simp [State.core]
@[simp] theorem State.reg_answered (b : Blk) (o : Nat) : (s.answered path).reg b o = s.reg b o := by simp [State.reg]
@[simp] theorem State.reg64_answered (b : Blk) (o : Nat) : (s.answered path).reg64 b o = s.reg64 b o := by
  simp [State.reg64]

/-- A write that reaches the dispatcher is applied with the low word that its path holds, and answered. -/
theorem State.pathWrite_eq (h : s.Dispatches path a b o r) (v : Word) : s.pathWrite path a v =
    .next (((s.taken path).applyWrite path b o a r (s.heldLow path a) v).answered path) := by
  have held : (s.arrived path).heldLow path a = s.heldLow path a := by simp [State.heldLow]
  rw [State.pathWrite_of_opens h.opens h.due, State.mgmtWrite_eq h.aligned (by simpa using h.reach) h.loc h.reg
    (by simpa using h.may) (by simpa using h.there) h.noTopo h.noId, if_neg h.whole, held]
  rfl

/-- Only a per-core address has a core on which a decision can be due (R18). -/
theorem State.moveDue_of_locate (hloc : locate a = some (b, o)) (hcore : ∀ c sub, b ≠ .core c sub) (s : State) :
    s.moveDue a = false := by
  cases b with
  | core c sub => exact absurd rfl (hcore c sub)
  | _ => simp [State.moveDue, hloc]

/-- A write reaches the dispatcher at a register of a block that no core's is and that is neither `PKG_ID` nor
`FAB_TOPO`. -/
theorem State.Dispatches.of_locate (hopen : s.opens path false = true) (halign : a % 4 = 0)
    (hreach : s.outOfReach path a = false) (hloc : locate a = some (b, o)) (hreg : regAt a = some r)
    (hwhole : r.half ≠ 1) (hmay : s.mayWrite path b = true) (hcore : ∀ c sub, b ≠ .core c sub)
    (htopo : ∀ d, b ≠ .dFab d) (hid : a ≠ 0x10) : s.Dispatches path a b o r :=
  ⟨hopen, State.moveDue_of_locate hloc hcore s, halign, hreach, hloc, hreg, hwhole, hmay,
    fun c sub hb => absurd hb (hcore c sub), fun d hb => absurd hb (htopo d), hid⟩

/-- What every path may write that has the block in its reach. -/
theorem State.mayWrite_of_open (hpackage : packageOnly b = false) (hbound : readOnlyBound b = false) :
    s.mayWrite path b = true := by
  simp [State.mayWrite, hpackage, hbound]

/-! ### Words of a block -/

theorem MgmtOnly.setRegWord (s : State) (a : Nat) (v : Word) : MgmtOnly s (s.setRegWord a v) :=
  ⟨rfl, rfl, s.recordsAdded_refl⟩

theorem State.reg64_setReg64 (s : State) (b : Blk) (o : Nat) {v : Nat} (hv : v < 2 ^ 64) :
    (s.setReg64 b o v).reg64 b o = v := by
  have low : (s.setReg64 b o v).regWord (b.base + o) = BitVec.ofNat 32 (v % 2 ^ 32) := by
    unfold State.setReg64 State.setReg
    rw [State.regWord_setRegWord_other _ _ (by omega), State.regWord_setRegWord]
  have high : (s.setReg64 b o v).regWord (b.base + (o + 4)) = BitVec.ofNat 32 (v / 2 ^ 32) := by
    unfold State.setReg64 State.setReg
    rw [State.regWord_setRegWord]
  simp only [State.reg64, State.reg, low, high, BitVec.toNat_ofNat]
  omega

/-- Words written one after the other from an address on. -/
def State.putWords (s : State) (a n : Nat) (v : Nat → Word) : State :=
  (List.range n).foldl (fun s i => s.setRegWord (a + 4 * i) (v i)) s

theorem State.putWords_succ (s : State) (a n : Nat) (v : Nat → Word) :
    s.putWords a (n + 1) v = (s.putWords a n v).setRegWord (a + 4 * n) (v n) := by
  simp [State.putWords, List.range_succ]

theorem State.regWord_putWords (s : State) (a n : Nat) (v : Nat → Word) {i : Nat} (hi : i < n) :
    (s.putWords a n v).regWord (a + 4 * i) = v i := by
  induction n with
  | zero => omega
  | succ n ih =>
    rw [State.putWords_succ]
    rcases Nat.lt_succ_iff_lt_or_eq.mp hi with hlt | rfl
    · rw [State.regWord_setRegWord_other _ _ (by omega), ih hlt]
    · rw [State.regWord_setRegWord]

theorem State.regWord_putWords_other (s : State) (a n : Nat) (v : Nat → Word) {k : Nat} (hk : k < a ∨ a + 4 * n ≤ k) :
    (s.putWords a n v).regWord k = s.regWord k := by
  induction n with
  | zero => rfl
  | succ n ih =>
    rw [State.putWords_succ, State.regWord_setRegWord_other _ _ (by omega), ih (by omega)]

theorem MgmtOnly.putWords (s : State) (a n : Nat) (v : Nat → Word) : MgmtOnly s (s.putWords a n v) := by
  induction n with
  | zero => exact MgmtOnly.refl s
  | succ n ih =>
    rw [State.putWords_succ]
    exact ih.trans (MgmtOnly.setRegWord _ _ _)

/-! ### OVF_CLEAR (R34) -/

/-- A write of 1 to OVF clears both words of the counter. -/
theorem State.applyWrite_perf (hperf : r.perf = true) {v : Word} (hovf : v.getLsbD 31 = true) (low : Option Word) :
    s.applyWrite path b o a r low v = (s.setRegWord (a - 4) 0).setRegWord a 0 := by
  simp only [State.applyWrite, hperf, hovf, if_true]

/-- A cleared counter counts from zero. -/
theorem State.count_of_cleared (h : s.reg64 b o = 0) {n : Nat} (hn : n < perfMax) :
    (s.count b o n).reg64 b o = n := by
  have small : perfMax < 2 ^ 64 := by decide
  by_cases h0 : n = 0
  · simp [State.count, h0, h]
  · have counted : s.count b o n = s.setReg64 b o n := by simp [State.count, h0, h, hn]
    rw [counted, State.reg64_setReg64 s b o (by omega)]

theorem ovfClear_completes (hopen : s.opens path false = true) (halign : a % 4 = 0) (hfour : 4 ≤ a)
    (hloc : locate a = some (b, o)) (hoff : 4 ≤ o) (hreg : regAt a = some r) (hperf : r.perf = true) (hhalf : r.half = 2)
    (hbase : b.base + o = a) (hreach : s.outOfReach path a = false) (hdue : s.moveDue a = false)
    (hmay : s.mayWrite path b = true) (hthere : ∀ c sub, b = .core c sub → (s.physOf c).isSome = true) :
    Does (.ovfClear path a) s fun t =>
      t.reg64 b (o - 4) = 0 ∧ (∀ n, n < perfMax → (t.count b (o - 4) n).reg64 b (o - 4) = n) ∧
      (∀ k, k ≠ a → k ≠ a - 4 → t.regWord k = s.regWord k) ∧ MgmtOnly s t := by
  have notId : a ≠ 0x10 := by
    rintro rfl
    have plain : regAt 0x10 = some ⟨0, 0x8000_3FFF, 0, ones32, 0, false, false⟩ := by decide
    rw [plain] at hreg
    cases hreg
    cases hperf
  have taken : s.Dispatches path a b o r := ⟨hopen, hdue, halign, hreach, hloc, hreg, by omega, hmay, hthere,
    fun _ _ => by omega, notId⟩
  have cleared : ((((s.taken path).setRegWord (a - 4) 0).setRegWord a 0).answered path).reg64 b (o - 4) = 0 := by
    have low : b.base + (o - 4) = a - 4 := by omega
    have high : b.base + (o - 4 + 4) = a := by omega
    simp only [State.reg64, State.reg, low, high, State.regWord_answered, State.regWord_setRegWord]
    rw [State.regWord_setRegWord_other _ _ (by omega), State.regWord_setRegWord]
    rfl
  refine ⟨_, ?_, cleared, fun n hn => State.count_of_cleared cleared hn, fun k hk hk' => ?_, ?_⟩
  · rw [exec_ovfClear, execOvfClear, hreg, need_of (by simp [hperf, hhalf]), State.pathWrite_eq taken,
      State.applyWrite_perf hperf (by decide)]
  · simp [State.regWord_setRegWord_other _ _ hk, State.regWord_setRegWord_other _ _ hk']
  · exact (((MgmtOnly.taken s path).trans (MgmtOnly.setRegWord ..)).trans (MgmtOnly.setRegWord ..)).trans
      (MgmtOnly.answered _ path)

/-! ### EVLOG_SEL (R39) -/

/-- The image of the record that a write of `EVLOG_SEL` selects, zero where it selects none. -/
def State.selected (s : State) (v : Word) : Nat :=
  match s.log.pick v with
  | some r => r.image
  | none => 0

theorem State.writeEvlogSel_eq (s : State) (h : Nat) (v : Word) : s.writeEvlogSel h v =
    (s.setReg (.evlog h) 0x0C (bits v 15 15 * 2 ^ 15 + bits v 13 0)).putWords (0x3010 + 0x1000 * h) 8 fun i =>
      BitVec.ofNat 32 (s.selected v / 2 ^ (32 * i) % 2 ^ 32) := by
  have addr : ∀ i, (Blk.evlog h).base + (0x10 + 4 * i) = 0x3010 + 0x1000 * h + 4 * i := fun i => by
    simp only [Blk.base]; omega
  simp only [State.writeEvlogSel, State.putWords, State.setReg, addr]
  rfl

theorem dispatches_evlogSel {hub : Nat} (hhub : hub < 2) (hopen : s.opens path false = true)
    (hreach : s.outOfReach path (0x300C + 0x1000 * hub) = false) :
    s.Dispatches path (0x300C + 0x1000 * hub) (.evlog hub) 0x0C (Reg.mixed 0xBFFF 0) := by
  have hloc : locate (0x300C + 0x1000 * hub) = some (.evlog hub, 0x0C) ∧
      regAt (0x300C + 0x1000 * hub) = some (Reg.mixed 0xBFFF 0) := by
    interval_cases hub <;> decide
  exact .of_locate hopen (by omega) hreach hloc.1 hloc.2 (by decide) (State.mayWrite_of_open rfl rfl) nofun nofun (by omega)

theorem evlogSel_completes {hub : Nat} (hhub : hub < 2) (hopen : s.opens path false = true)
    (hreach : s.outOfReach path (0x300C + 0x1000 * hub) = false) (v : Word) :
    Does (.evlogSel path hub v) s fun t =>
      (∀ i, i < 8 → (t.regWord (0x3010 + 0x1000 * hub + 4 * i)).toNat = s.selected v / 2 ^ (32 * i) % 2 ^ 32) ∧
      (∀ k, k < 0x300C + 0x1000 * hub ∨ 0x3030 + 0x1000 * hub ≤ k → t.regWord k = s.regWord k) ∧ MgmtOnly s t := by
  have addr : (Blk.evlog hub).base + 0x0C = 0x300C + 0x1000 * hub := by simp only [Blk.base]; omega
  have same : (s.taken path).selected v = s.selected v := by simp [State.selected]
  refine ⟨((s.taken path).writeEvlogSel hub v).answered path, ?_, fun i hi => ?_, fun k hk => ?_, ?_⟩
  · rw [exec_evlogSel, execEvlogSel, needUnit_lt hhub, addr, State.pathWrite_eq (dispatches_evlogSel hhub hopen hreach)]
    rfl
  · rw [State.regWord_answered, State.writeEvlogSel_eq, State.regWord_putWords _ _ _ _ hi, same, BitVec.toNat_ofNat,
      Nat.mod_mod]
  · rw [State.regWord_answered, State.writeEvlogSel_eq, State.regWord_putWords_other _ _ _ _ (by omega), State.setReg,
      State.regWord_setRegWord_other _ _ (by omega), State.regWord_taken]
  · rw [State.writeEvlogSel_eq]
    exact (((MgmtOnly.taken s path).trans (MgmtOnly.setRegWord ..)).trans (MgmtOnly.putWords ..)).trans
      (MgmtOnly.answered _ path)

/-! ### AMAP_RC_INVAL and AMAP_FAULT_CLEAR (R233) -/

/-- An address of a per-core sub-block. -/
theorem locate_core {c sub o : Nat} (hc : c < 1280) (hsub : sub < 12) (ho : o < 0x100) :
    locate ((Blk.core c sub).base + o) = some (.core c sub, o) := by
  have pkg : ¬ 0x0200_0000 + 0x1000 * c + 0x100 * sub + o < 0x0100_0000 := by omega
  have dies : ¬ 0x0200_0000 + 0x1000 * c + 0x100 * sub + o < 0x0180_0000 := by omega
  have cores : 0x0200_0000 ≤ 0x0200_0000 + 0x1000 * c + 0x100 * sub + o ∧
      0x0200_0000 + 0x1000 * c + 0x100 * sub + o < 0x0200_0000 + 1280 * 0x1000 := by omega
  have core : (0x0200_0000 + 0x1000 * c + 0x100 * sub + o - 0x0200_0000) / 0x1000 = c := by omega
  have offset : (0x0200_0000 + 0x1000 * c + 0x100 * sub + o - 0x0200_0000) % 0x1000 = 0x100 * sub + o := by omega
  have inBlock : 0x100 * sub + o < 0xC00 := by omega
  have block : (0x100 * sub + o) / 0x100 = sub := by omega
  have rest : (0x100 * sub + o) % 0x100 = o := by omega
  simp only [locate, Blk.base, pkg, dies, cores, core, offset, inBlock, block, rest, if_true, if_false, and_self]

/-- A write of an `AMAP_` register of a core that is not vacant. -/
theorem dispatches_amap {c o : Nat} (hc : c < 1280) (ho : o < 0x100) (halign : o % 4 = 0)
    (hopen : s.opens path false = true) (hreach : s.outOfReach path ((Blk.core c 7).base + o) = false)
    (hdue : s.moveDue ((Blk.core c 7).base + o) = false) (hthere : (s.physOf c).isSome = true)
    (hreg : (coreRegs 7).lookup o = some r) (hwhole : r.half ≠ 1) :
    s.Dispatches path ((Blk.core c 7).base + o) (.core c 7) o r := by
  have hloc := locate_core hc (by decide : 7 < 12) ho
  refine ⟨hopen, hdue, ?_, hreach, hloc, ?_, hwhole, State.mayWrite_of_open rfl rfl, ?_, nofun, ?_⟩
  · simp only [Blk.base]; omega
  · simpa only [regAt, hloc, blkRegs] using hreg
  · rintro _ _ ⟨⟩
    exact hthere
  · simp only [Blk.base]; omega

theorem amapRcInval_completes {c : Nat} {v : Word} (hc : c < 1280) (hinval : v.getLsbD 1 = true)
    (hopen : s.opens path false = true) (hreach : s.outOfReach path ((Blk.core c 7).base) = false)
    (hdue : s.moveDue ((Blk.core c 7).base) = false) (hthere : (s.physOf c).isSome = true) :
    Does (.amapRcInval path c v) s fun t =>
      (t.core c).rc = [] ∧ t.core c = { s.core c with rc := [] } ∧ (∀ k, k ≠ c → t.core k = s.core k) ∧
      (∀ k, k ≠ (Blk.core c 7).base → t.regWord k = s.regWord k) ∧ t.mem = s.mem := by
  have taken : s.Dispatches path (Blk.core c 7).base (.core c 7) 0 (Reg.mixed 1 0) :=
    dispatches_amap (o := 0) hc (by decide) rfl hopen (by rw [Nat.add_zero]; exact hreach)
      (by rw [Nat.add_zero]; exact hdue) hthere (by decide) (by decide)
  have written : (s.taken path).writeRcCtrl c v =
      ((s.taken path).setReg (.core c 7) 0 (bits v 0 0)).setCore c { s.core c with rc := [] } := by
    simp only [State.writeRcCtrl, hinval, if_true, State.updCore_eq]
    rw [show ((s.taken path).setReg (.core c 7) 0 (bits v 0 0)).core c = s.core c from State.core_taken c]
  have emptied : ((((s.taken path).setReg (.core c 7) 0 (bits v 0 0)).setCore c { s.core c with rc := [] }).answered
      path).core c = { s.core c with rc := [] } := by simp
  refine ⟨_, ?_, congrArg Core.rc emptied, emptied, fun k hk => ?_, fun k hk => ?_, ?_⟩
  · rw [exec_amapRcInval, execAmapRcInval, needUnit_lt hc, need_of hinval,
      State.pathWrite_eq taken, ← written]
    rfl
  · rw [State.core_answered, State.core_setCore_other _ _ hk]
    exact State.core_taken k
  · rw [State.regWord_answered]
    exact (State.regWord_setRegWord_other _ _ hk).trans (State.regWord_taken k)
  · simp [State.setReg, State.setRegWord]

theorem amapFaultClear_completes {c : Nat} {v : Word} (hc : c < 1280) (hvalid : v.getLsbD 31 = true)
    (hopen : s.opens path false = true) (hreach : s.outOfReach path ((Blk.core c 7).base + 4) = false)
    (hdue : s.moveDue ((Blk.core c 7).base + 4) = false) (hthere : (s.physOf c).isSome = true) :
    Does (.amapFaultClear path c v) s fun t =>
      t.reg (.core c 7) 4 = 0 ∧ t.reg64 (.core c 7) 8 = 0 ∧
      (∀ k, k < (Blk.core c 7).base + 4 ∨ (Blk.core c 7).base + 16 ≤ k → t.regWord k = s.regWord k) ∧ MgmtOnly s t := by
  have taken : s.Dispatches path ((Blk.core c 7).base + 4) (.core c 7) 4 ⟨0, 0, 0x8000_0000, ones32, 0, false, false⟩ :=
    dispatches_amap hc (by decide) rfl hopen hreach hdue hthere (by decide) (by decide)
  have written : (s.taken path).writeFaultInfo c v =
      (s.taken path).putWords ((Blk.core c 7).base + 4) 3 fun _ => 0 := by
    simp only [State.writeFaultInfo, hvalid, if_true]
    rfl
  have cleared : ∀ i, i < 3 → (((s.taken path).putWords ((Blk.core c 7).base + 4) 3 fun _ => 0).answered path).regWord
      ((Blk.core c 7).base + 4 + 4 * i) = 0 := fun i hi => by
    rw [State.regWord_answered, State.regWord_putWords _ _ _ _ hi]
  refine ⟨_, ?_, congrArg BitVec.toNat (cleared 0 (by decide)), ?_, fun k hk => ?_, ?_⟩
  · rw [exec_amapFaultClear, execAmapFaultClear, needUnit_lt hc, need_of hvalid,
      State.pathWrite_eq taken, ← written]
    rfl
  · simp only [State.reg64, State.reg]
    rw [cleared 1 (by decide), cleared 2 (by decide)]
    rfl
  · rw [State.regWord_answered, State.regWord_putWords_other _ _ _ _ (by omega), State.regWord_taken]
  · exact ((MgmtOnly.taken s path).trans (MgmtOnly.putWords ..)).trans (MgmtOnly.answered _ path)

/-- Settles O11: each of the four writes reaches the dispatcher, which gives it its own effect. -/
theorem specialRegisterWritesComplete : Obligations.SpecialRegisterWritesComplete := by
  refine ⟨?_, ?_, ?_, ?_⟩
  · intro path a b o r s hopen halign hfour hloc hoff hreg hperf hhalf hbase hreach hdue hmay hthere
    exact ovfClear_completes hopen halign hfour hloc hoff hreg hperf hhalf hbase hreach hdue hmay hthere
  · intro path hub v s hhub hopen hreach
    exact evlogSel_completes hhub hopen hreach v
  · intro path c v s hc hinval hopen hreach hdue hthere
    exact amapRcInval_completes hc hinval hopen hreach hdue hthere
  · intro path c v s hc hvalid hopen hreach hdue hthere
    exact amapFaultClear_completes hc hvalid hopen hreach hdue hthere

end Sys2Proof.Machine
end

/-! ## What completion records and stores of the hubs leave alone (R218, R381) -/

section
namespace Sys2Proof.Machine

/-- A step that keeps a part of the state keeps it along a list of steps. -/
theorem foldl_keeps {α β : Type} (view : State → β) {f : State → α → State} {l : List α}
    (h : ∀ s a, a ∈ l → view (f s a) = view s) (s : State) : view (l.foldl f s) = view s := by
  induction l generalizing s with
  | nil => rfl
  | cons a l ih => rw [List.foldl_cons, ih fun s b hb => h s b (List.mem_cons_of_mem _ hb), h s a List.mem_cons_self]

/-- An address of the `TIME_` block, or of an `XPLAN_`, `DIGEST_` or `HEALTH_` block. -/
def planWord (a : Nat) : Prop := a < 0xB000 ∨ 0x2_8000 ≤ a ∧ a < 0x6_0000

/-- What a hub does for the completion ring and the update of a partition: bytes of memory and what their homes keep, records,
outputs, counters, and the partition's own ring and update fields. The step of its exchange is as before, and so is whether
its update runs. -/
structure HubWork (p : Nat) (s t : State) : Prop where
  rest : t = { s with out := t.out, freeCtr := t.freeCtr, regs := t.regs, log := t.log, mems := t.mems, mem := t.mem,
                      parts := t.parts, host := t.host }
  dropRec : t.host.dropRec = s.host.dropRec
  ex : (t.part p).ex = (s.part p).ex
  running : (t.part p).upd.running = (s.part p).upd.running
  regs : ∀ a, planWord a → t.regWord a = s.regWord a

variable {p : Nat} {s t u : State}

theorem HubWork.refl (p : Nat) (s : State) : HubWork p s s := ⟨rfl, rfl, rfl, rfl, fun _ _ => rfl⟩

theorem HubWork.trans (h : HubWork p s t) (k : HubWork p t u) : HubWork p s u :=
  ⟨by rw [k.rest, h.rest], k.dropRec.trans h.dropRec, k.ex.trans h.ex, k.running.trans h.running,
    fun a ha => (k.regs a ha).trans (h.regs a ha)⟩

theorem HubWork.foldl {α : Type} {f : State → α → State} (h : ∀ s a, HubWork p s (f s a)) (l : List α) (s : State) :
    HubWork p s (l.foldl f s) := by
  induction l generalizing s with
  | nil => exact HubWork.refl p s
  | cons a l ih => exact (h s a).trans (ih _)

theorem HubWork.record (s : State) (unit code sev part : Nat) (fs : List (Nat × Nat)) :
    HubWork p s (s.record unit code sev part fs) := ⟨rfl, rfl, rfl, rfl, fun _ _ => rfl⟩

@[simp] theorem HostSide.sends_dropRec (h : HostSide) (o : Out) : (h.sends o).dropRec = h.dropRec := by
  rw [HostSide.sends_rest]

theorem HubWork.emit (s : State) (o : Out) : HubWork p s (s.emit o) :=
  ⟨rfl, HostSide.sends_dropRec s.host o, rfl, rfl, fun _ _ => rfl⟩

theorem HubWork.setReg {b : Blk} {o : Nat} (h : ¬ planWord (b.base + o)) (s : State) (v : Nat) :
    HubWork p s (s.setReg b o v) :=
  ⟨rfl, rfl, rfl, rfl, fun a ha => State.regWord_setRegWord_other s _ (by rintro rfl; exact h ha)⟩

theorem HubWork.setReg64 {b : Blk} {o : Nat} (h : ∀ k, k ≤ 4 → ¬ planWord (b.base + (o + k))) (s : State) (v : Nat) :
    HubWork p s (s.setReg64 b o v) :=
  (HubWork.setReg (h 0 (by decide)) s _).trans (HubWork.setReg (h 4 (by decide)) _ _)

theorem HubWork.count {b : Blk} {o : Nat} (h : ∀ k, k ≤ 4 → ¬ planWord (b.base + (o + k))) (s : State) (n : Nat) :
    HubWork p s (s.count b o n) := by
  unfold State.count
  simp only
  split
  · exact HubWork.refl p s
  · split
    · exact HubWork.setReg64 h s _
    · exact (HubWork.setReg64 h s _).trans (HubWork.record ..)

theorem HubWork.updPart (s : State) {f : Part → Part} (hex : ∀ q, (f q).ex = q.ex := by exact fun _ => rfl)
    (hrun : ∀ q, (f q).upd.running = q.upd.running := by exact fun _ => rfl) : HubWork p s (s.updPart p f) := by
  have now : (s.updPart p f).part p = f (s.part p) := State.part_setPart s p _
  exact ⟨rfl, rfl, by rw [now, hex], by rw [now, hrun], fun _ _ => rfl⟩

theorem HubWork.updUpd (s : State) {f : Upd → Upd} (hrun : ∀ u, (f u).running = u.running := by exact fun _ => rfl) :
    HubWork p s (s.updUpd p f) := HubWork.updPart s (hrun := fun q => hrun q.upd)

theorem HubWork.updMemUnit (s : State) (m : Nat) (f : MemUnit → MemUnit) : HubWork p s (s.updMemUnit m f) :=
  ⟨rfl, rfl, rfl, rfl, fun _ _ => rfl⟩

/-! ### Lines of memory -/

theorem HubWork.setMemLine (s : State) (m o : Nat) (d : Line) (k : DWord) : HubWork p s (s.setMemLine m o d k) :=
  HubWork.foldl (f := fun s i => s.setMemByte m (o + i) (lineByte d i)) (fun _ _ => ⟨rfl, rfl, rfl, rfl, fun _ _ => rfl⟩) _ s

theorem HubWork.dropWrite (s : State) (m o : Nat) : HubWork p s (s.dropWrite m o) := by
  unfold State.dropWrite
  simp only
  split
  · exact HubWork.refl p s
  · refine HubWork.trans ?_ (HubWork.record ..)
    split
    · exact HubWork.updMemUnit ..
    · exact HubWork.refl p s

theorem HubWork.lineUpdate (s : State) (m o : Nat) (d : Line) (k : DWord) : HubWork p s (s.lineUpdate m o d k) := by
  unfold State.lineUpdate
  simp only
  split
  · exact HubWork.dropWrite ..
  · split
    · exact HubWork.setMemLine ..
    · split
      · exact (HubWork.updMemUnit ..).trans (HubWork.setMemLine ..)
      · exact HubWork.dropWrite ..

theorem not_planWord_dAmap (d o : Nat) : ¬ planWord ((Blk.dAmap d).base + o) := by
  simp only [planWord, Blk.base]
  omega

theorem HubWork.drawWord (s : State) : HubWork p s s.drawWord.2 := ⟨rfl, rfl, rfl, rfl, fun _ _ => rfl⟩

theorem HubWork.pooled (s : State) (m : Nat) : HubWork p s (s.pooled m) :=
  ((HubWork.drawWord s).trans (HubWork.count (fun _ _ => not_planWord_dAmap _ _) _ _)).trans
    (HubWork.count (fun _ _ => not_planWord_dAmap _ _) _ _)

theorem HubWork.hubLine (s : State) (q : Nat) (a : DWord) (d : Line) (k : DWord) : HubWork p s (s.hubLine q a d k) := by
  unfold State.hubLine
  split
  · exact HubWork.refl p s
  · split
    · exact (HubWork.lineUpdate ..).trans (HubWork.pooled ..)
    · exact HubWork.refl p s

/-! ### The completion ring (R380, R381) -/

theorem not_planWord_cmdt (hp : p < 8) {o : Nat} (ho : o < 0x1000) : ¬ planWord ((Blk.cmdt p).base + o) := by
  simp only [planWord, Blk.base]
  omega

theorem HubWork.cplLook (s : State) : HubWork p s (s.cplLook p) := by
  unfold State.cplLook
  simp only
  refine HubWork.trans ?_ (HubWork.updPart _)
  split
  · exact HubWork.record ..
  · exact HubWork.refl p s

theorem HubWork.cplWrite (hp : p < 8) (s : State) (c : Cpl) : HubWork p s (s.cplWrite p c) := by
  unfold State.cplWrite
  extract_lets q n slot line base stored counted m
  have written : HubWork p s counted :=
    ((HubWork.hubLine ..).trans (HubWork.updPart stored)).trans
      (HubWork.count (fun _ _ => not_planWord_cmdt hp (by omega)) _ _)
  split
  · exact written
  · split
    · exact written
    · split
      · exact written
      · exact written.trans (HubWork.emit ..)

theorem HubWork.drainN (hp : p < 8) (n : Nat) (s : State) : HubWork p s (s.drainN p n) := by
  induction n generalizing s with
  | zero => exact HubWork.cplLook s
  | succ n ih =>
    unfold State.drainN
    simp only
    split
    · exact HubWork.cplLook s
    · split
      · exact HubWork.cplLook s
      · exact ((((HubWork.cplLook s).trans (HubWork.updPart _)).trans
          (HubWork.cplWrite hp ..))).trans (ih _)

theorem HubWork.drainCpl (hp : p < 8) (s : State) : HubWork p s (s.drainCpl p) := HubWork.drainN hp _ s

theorem HubWork.formRecord (hp : p < 8) (s : State) (c : Cpl) : HubWork p s (s.formRecord p c) :=
  (HubWork.updPart s).trans (HubWork.drainCpl hp _)

end Sys2Proof.Machine
end

/-! ## What a beat boundary leaves alone once it has been passed (R30): the marks of the beat and the power settings -/

section
namespace Sys2Proof.Machine

/-- The TSC, the pins, the marks of the beat and the settings of the cinch controller but for what it gates and the clock. -/
structure BeatMarks where
  tsc : DWord
  pins : Pins
  leaked : List Channel
  tripped : Bool
  dropRec : List Nat
  cinch : Cinch

/-- Settings of the cinch controller: all but the gated cores, the gating pointers and the clock. -/
def Cinch.settings (c : Cinch) : Cinch := { c with gated := [], ptr := [], mhz := 0 }

def State.marks (s : State) : BeatMarks where
  tsc := s.time.tsc
  pins := s.pins
  leaked := s.mf.leaked
  tripped := s.mf.tripped
  dropRec := s.host.dropRec
  cinch := s.cinch.settings

variable (s : State)

/-! ### Primitive updates -/

@[simp] theorem State.marks_setCore (c : Nat) (v : Core) : (s.setCore c v).marks = s.marks := rfl
@[simp] theorem State.marks_setDie (d : Nat) (v : Die) : (s.setDie d v).marks = s.marks := rfl
@[simp] theorem State.marks_setMemUnit (m : Nat) (v : MemUnit) : (s.setMemUnit m v).marks = s.marks := rfl
@[simp] theorem State.marks_setLink (l : Nat) (v : Link) : (s.setLink l v).marks = s.marks := rfl
@[simp] theorem State.marks_setPart (p : Nat) (v : Part) : (s.setPart p v).marks = s.marks := rfl
@[simp] theorem State.marks_setRegWord (a : Nat) (v : Word) : (s.setRegWord a v).marks = s.marks := rfl
@[simp] theorem State.marks_setReg (b : Blk) (o v : Nat) : (s.setReg b o v).marks = s.marks := rfl
@[simp] theorem State.marks_setReg64 (b : Blk) (o v : Nat) : (s.setReg64 b o v).marks = s.marks := rfl
@[simp] theorem State.marks_updEx (p : Nat) (f : Exch → Exch) : (s.updEx p f).marks = s.marks := rfl
@[simp] theorem State.marks_updBoot (f : Boot → Boot) : (s.updBoot f).marks = s.marks := rfl
@[simp] theorem State.marks_updFlash (f : Flash → Flash) : (s.updFlash f).marks = s.marks := rfl
@[simp] theorem State.marks_drawWord : s.drawWord.2.marks = s.marks := rfl
@[simp] theorem State.marks_record (u code sev p : Nat) (fs : List (Nat × Nat)) :
    (s.record u code sev p fs).marks = s.marks := rfl

@[simp] theorem State.marks_emit (o : Out) : (s.emit o).marks = s.marks := by
  simp only [State.marks, State.emit, HostSide.sends_dropRec]

@[simp] theorem State.marks_count (b : Blk) (o n : Nat) : (s.count b o n).marks = s.marks := by
  unfold State.count
  extract_lets v c
  split
  · rfl
  · split <;> rfl

theorem HubWork.marks {p : Nat} {s t : State} (h : HubWork p s t) : t.marks = s.marks := by
  unfold State.marks
  rw [h.dropRec, h.rest]

/-! ### Late work of the exchange (R31, R329) -/

@[simp] theorem State.marks_mark (p bit : Nat) : (s.mark p bit).marks = s.marks := rfl

@[simp] theorem State.marks_entryEvent (p code i : Nat) (fs : List (Nat × Nat)) :
    (s.entryEvent p code i fs).marks = s.marks := by
  unfold State.entryEvent
  extract_lets x
  split <;> rfl

@[simp] theorem State.marks_lateBeat (p i off : Nat) : (s.lateBeat p i off).marks = s.marks := by
  unfold State.lateBeat
  extract_lets marked counted
  rw [State.marks_entryEvent]
  show (if _ then marked else _).marks = _
  split
  · rfl
  · rw [State.marks_count]; rfl

@[simp] theorem State.marks_lateEntry (p i off : Nat) : (s.lateEntry p i off).marks = s.marks := by
  unfold State.lateEntry
  extract_lets x skipped
  rw [State.marks_lateBeat]
  show (match x.entries[i]? with
    | some e => if x.gateShut e (off - e.offset) then s.skipEntry p i else s
    | none => s).marks = _
  split
  · split <;> rfl
  · rfl

@[simp] theorem State.marks_dropLateFrames : s.dropLateFrames.marks = s.marks := by
  unfold State.dropLateFrames
  refine foldl_keeps State.marks (fun s l _ => ?_) s
  extract_lets isExch gone emptied
  split
  · rfl
  · refine (foldl_keeps State.marks (fun s f _ => ?_) _).trans rfl
    split
    · split
      · rw [State.marks_lateBeat]
      · rfl
    · rfl

@[simp] theorem State.marks_unsynced : s.unsynced.marks = s.marks := by
  unfold State.unsynced
  split
  · rfl
  · refine foldl_keeps State.marks (fun s p _ => ?_) s
    split <;> rfl

/-! ### Time and decisions (R28, R31) -/

/-- The state in the next beat. -/
theorem State.marks_nextBeat : s.nextBeat.marks =
    { s.marks with tsc := BitVec.ofNat 64 ((s.time.tsc.toNat / 2048 + 1) * 2048) } := rfl

@[simp] theorem State.marks_offsetIs (link : Nat) (o : Int) : (s.offsetIs link o).marks = s.marks := by
  unfold State.offsetIs
  extract_lets was time measured far time' synced recorded time''
  have kept : recorded.marks = s.marks := by
    show (if _ then synced.record _ _ _ _ _ else synced).marks = _
    split <;> rfl
  split
  · rfl
  · split <;> exact kept

@[simp] theorem State.marks_timeBeat : s.timeBeat.marks = s.marks := by
  unfold State.timeBeat
  extract_lets time unslewed time' timed
  show timed.marks = s.marks
  show (if _ then _ else _ : State).marks = s.marks
  split
  · split <;> rfl
  · split
    · rfl
    · split
      · rw [State.marks_offsetIs]; rfl
      · rfl

@[simp] theorem State.marks_decisionsLate (n : Nat) : (s.decisionsLate n).marks = s.marks := by
  unfold State.decisionsLate
  split <;> rfl

@[simp] theorem State.marks_lateManagement (ended : Nat) : (s.lateManagement ended).marks = s.marks := by
  unfold State.lateManagement
  extract_lets cleared decided
  have kept : decided.marks = s.marks := by
    show (if _ then cleared.decisionsLate _ else cleared).marks = _
    split
    · rw [State.marks_decisionsLate]; rfl
    · rfl
  split <;> exact kept

/-- What a beat keeps to itself begins anew. -/
theorem State.marks_beatFlags : s.beatFlags.marks =
    { s.marks with pins := { s.pins with syncRec := false }, leaked := [], dropRec := [] } := rfl

/-! ### Dies, cores and links -/

@[simp] theorem State.marks_dieBeat (d : Nat) : (s.dieBeat d).marks = s.marks := by
  unfold State.dieBeat
  extract_lets counted
  have kept : counted.marks = s.marks := by
    show (if _ then _ else s : State).marks = _
    split <;> rfl
  split <;> exact kept

@[simp] theorem State.marks_withdraw (p d why : Nat) : (s.withdraw p d why).marks = s.marks := by
  unfold State.withdraw
  extract_lets x
  split <;> rfl

@[simp] theorem State.marks_mapChanged (ds : List Nat) : (s.mapChanged ds).marks = s.marks := by
  unfold State.mapChanged
  extract_lets g
  exact (foldl_keeps State.marks (by intros; rfl) _).trans rfl

theorem State.marks_vacated (m : Tab MapEnt) (g : List Nat) :
    ({ s with map := m, cinch := { s.cinch with gated := g } } : State).marks = s.marks := rfl

@[simp] theorem State.marks_vacateDie (d : Nat) : (s.vacateDie d).marks = s.marks := by
  unfold State.vacateDie
  split
  · rfl
  · extract_lets withdrawn cinch vacated
    have withdrawnKept : withdrawn.marks = s.marks := by
      show (match s.partOfDie d with
        | some p => s.withdraw p d 3
        | none => s).marks = _
      split
      · rw [State.marks_withdraw]
      · rfl
    exact (State.marks_mapChanged _ _).trans
      ((State.marks_setDie ..).trans ((State.marks_vacated withdrawn ..).trans withdrawnKept))

@[simp] theorem State.marks_linkBeat (l : Nat) : (s.linkBeat l).marks = s.marks := rfl

theorem State.marks_seal {l : Nat} {f : OutFrame} {r : OutFrame × State} (h : s.seal l f = some r) :
    r.2.marks = s.marks := by
  unfold State.seal at h
  split at h
  · cases h; rfl
  · split at h
    · cases h; rfl
    · split at h
      · cases h
      · cases h; rfl

@[simp] theorem State.marks_transmit (l : Nat) (f : OutFrame) : (s.transmit l f).marks = s.marks := by
  unfold State.transmit
  split
  · rfl
  · rename_i g t h
    extract_lets seq spent free sent linked
    rw [State.marks_count]
    show (t.emit _).marks = _
    rw [State.marks_emit]
    exact State.marks_seal s h

@[simp] theorem State.marks_pumpN (l n : Nat) : (s.pumpN l n).marks = s.marks := by
  induction n generalizing s with
  | zero => rfl
  | succ n ih =>
    unfold State.pumpN
    split
    · rfl
    · split
      · rfl
      · rw [ih, State.marks_transmit]; rfl

@[simp] theorem State.marks_pump (l : Nat) : (s.pump l).marks = s.marks := by
  unfold State.pump
  split
  · rfl
  · exact State.marks_pumpN ..

theorem foldr_keeps {α β : Type} (view : State → β) {f : α → State → State} (h : ∀ a s, view (f a s) = view s)
    (l : List α) (s : State) : view (l.foldr f s) = view s := by
  induction l with
  | nil => rfl
  | cons a l ih => rw [List.foldr_cons, h, ih]

@[simp] theorem State.marks_requeueLink (l : Nat) : (s.requeueLink l).marks = s.marks := by
  unfold State.requeueLink
  extract_lets k stays moves fs emptied
  refine (foldr_keeps State.marks (fun f s => ?_) fs emptied).trans rfl
  split <;> rfl

@[simp] theorem State.marks_requeue : s.requeue.marks = s.marks := by
  unfold State.requeue
  refine foldl_keeps State.marks (fun s e _ => ?_) s
  split
  · rfl
  · exact State.marks_requeueLink ..

@[simp] theorem State.marks_recomputeRoutes : s.recomputeRoutes.marks = s.marks := by
  have pumped : ∀ (ls : List Nat) (s : State), (ls.foldl (fun s l => s.pump l) s).marks = s.marks :=
    fun _ s => foldl_keeps State.marks (fun s l _ => State.marks_pump s l) s
  unfold State.recomputeRoutes
  extract_lets up
  split
  · rw [pumped, State.marks_requeue]
  · rw [pumped, State.marks_requeue]
    refine foldl_keeps State.marks (fun s n _ => ?_) s
    refine foldl_keeps State.marks (fun s pkg _ => ?_) s
    split <;> rfl

/-! ### Energy and counts (R32, R443) -/

@[simp] theorem State.marks_addEnergy (a n : Nat) : (s.addEnergy a n).marks = s.marks := rfl

@[simp] theorem State.marks_grantEnergy (e : GrantEnergy) : (s.grantEnergy e).marks = s.marks := rfl

@[simp] theorem State.marks_bucketEnergy (e : PartEnergy) : (s.bucketEnergy e).marks = s.marks := by
  unfold State.bucketEnergy
  extract_lets a
  simp only [State.marks_addEnergy]

@[simp] theorem State.marks_energyBeat (e : EnergyIn) : (s.energyBeat e).marks = s.marks := by
  unfold State.energyBeat
  extract_lets bucketed parted packaged died
  have bucketedKept : bucketed.marks = s.marks :=
    (foldl_keeps State.marks (fun s e _ => State.marks_bucketEnergy s e) _).trans
      (foldl_keeps State.marks (fun s e _ => State.marks_grantEnergy s e) s)
  have partedKept : parted.marks = bucketed.marks :=
    foldl_keeps State.marks (fun s _ _ => State.marks_addEnergy s ..) bucketed
  have packagedKept : packaged.marks = parted.marks :=
    (State.marks_addEnergy ..).trans (State.marks_addEnergy ..)
  have diedKept : died.marks = packaged.marks :=
    foldl_keeps State.marks (fun s _ _ => (State.marks_addEnergy ..).trans (State.marks_addEnergy s ..)) packaged
  exact (foldl_keeps State.marks (fun s _ _ => State.marks_addEnergy s ..) died).trans
    (diedKept.trans (packagedKept.trans (partedKept.trans bucketedKept)))

@[simp] theorem State.marks_coresBeat : s.coresBeat.marks = s.marks := rfl

@[simp] theorem State.marks_txBeat : s.txBeat.marks = s.marks :=
  foldl_keeps State.marks (fun s _ _ => State.marks_count s ..) s

/-! ### Partitions and the event log -/

@[simp] theorem State.marks_dropReadCaches (p : Nat) : (s.dropReadCaches p).marks = s.marks :=
  foldl_keeps State.marks (by intros; rfl) s

@[simp] theorem State.marks_startGrant (p : Nat) (l : Launch) (tag : Word) (src : GrantSrc) :
    (s.startGrant p l tag src).marks = s.marks := by
  unfold State.startGrant
  extract_lets x g
  rw [State.marks_dropReadCaches]
  rfl

@[simp] theorem State.marks_takePriv (p : Nat) : (s.takePriv p).marks = s.marks := by
  unfold State.takePriv
  extract_lets q
  split
  · rfl
  · refine (foldl_keeps State.marks (fun s w _ => ?_) _).trans rfl
    rw [State.marks_count, State.marks_startGrant]

@[simp] theorem State.marks_headUnreadable (p : Nat) : (s.headUnreadable p).marks = s.marks := by
  unfold State.headUnreadable
  extract_lets q recorded
  show (if _ then s else _ : State).marks = _
  split <;> rfl

theorem State.marks_partBeat (late : List Nat) {p : Nat} (hp : p < 8) : (s.partBeat late p).marks = s.marks := by
  unfold State.partBeat
  extract_lets trip unTaken stepped drained taken
  have drainedKept : drained.marks = s.marks := by
    show (if _ then stepped else stepped.drainCpl p).marks = _
    split
    · rfl
    · exact (HubWork.drainCpl hp stepped).marks
  have takenKept : taken.marks = s.marks := by
    show (if trip then drained else drained.takePriv p).marks = _
    split
    · exact drainedKept
    · rw [State.marks_takePriv, drainedKept]
  split
  · rw [State.marks_headUnreadable, takenKept]
  · exact takenKept

@[simp] theorem State.marks_saveRetained : s.saveRetained.marks = s.marks := by
  unfold State.saveRetained
  split <;> rfl

@[simp] theorem State.marks_appendBatch : s.appendBatch.marks = s.marks := by
  unfold State.appendBatch
  exact State.marks_saveRetained _

/-! ### The cinch controller (R432 to R442) -/

@[simp] theorem State.marks_cinchCount (o n : Nat) : (s.cinchCount o n).marks = s.marks := by
  unfold State.cinchCount
  extract_lets counted
  show counted.marks = _
  exact State.marks_count ..

/-- A change of what is gated, of the pointers and of the clock leaves the settings. -/
theorem State.marks_updCinch {f : Cinch → Cinch} (h : ∀ c, (f c).settings = c.settings := by exact fun _ => rfl) :
    (s.updCinch f).marks = s.marks := by
  simp only [State.marks, State.updCinch, h]

@[simp] theorem State.marks_gatePart (e : Nat × Nat) : (s.gatePart e).marks = s.marks := rfl

@[simp] theorem State.marks_gateMore (n : Nat) (est : List (Nat × Nat)) : (s.gateMore n est).marks = s.marks := by
  unfold State.gateMore
  extract_lets idle gated parts
  exact (foldl_keeps State.marks (by intros; rfl) gated).trans rfl

@[simp] theorem State.marks_gateAll : s.gateAll.marks = s.marks := by
  unfold State.gateAll
  extract_lets gated
  exact (foldl_keeps State.marks (by intros; rfl) gated).trans rfl

@[simp] theorem State.marks_ungate (k n : Nat) : (s.ungate k n).marks = s.marks := by
  induction k generalizing s n with
  | zero => rfl
  | succ k ih =>
    unfold State.ungate
    split
    · rfl
    · extract_lets t
      split
      · rfl
      · rw [ih]; rfl

@[simp] theorem State.marks_cinchDecide (newFast : Bool) (b : BoundaryIn) : (s.cinchDecide newFast b).marks = s.marks := by
  unfold State.cinchDecide
  extract_lets c room k raise clocked est gated
  rw [State.marks_cinchCount]
  show (if _ then clocked.gateAll else _ : State).marks = clocked.marks
  split
  · exact State.marks_gateAll _
  · split
    · exact State.marks_gateMore ..
    · split
      · exact State.marks_ungate ..
      · rfl

@[simp] theorem State.marks_setRail (d : Nat) : (s.setRail d).marks = s.marks := by
  unfold State.setRail
  extract_lets mv
  rw [State.marks_emit]
  rfl

@[simp] theorem State.marks_clockMoved (mhz : Nat) : (s.clockMoved mhz).marks = s.marks := by
  unfold State.clockMoved
  split
  · rfl
  · exact foldl_keeps State.marks (fun s d _ => State.marks_setRail s d) s

/-- The settings of the beat that begins, with the values written and the input in force (R432, R440). -/
def Cinch.loaded (c : Cinch) (pwrLim : Bool) (b : BoundaryIn) : Cinch := { c with
  cap := wattsOf c.capNext, fast := wattsOf c.fastNext, ctrl := c.ctrlNext, fastIn := pwrLim,
  est := b.est, floor := b.floor, late := b.cinchLate }

/-- The settings with the beat's overdraw counted (R437). -/
def Cinch.overdrawn (c : Cinch) (lim : Nat) (b : BoundaryIn) : Cinch := { c with
  overdraw := lim < b.est && lim < b.floor
  overbeats := if lim < b.est && lim < b.floor then min overLimit (c.overbeats + 1) else 0 }

theorem State.marks_cinchOver (lim : Nat) (b : BoundaryIn) :
    (s.cinchOver lim b).marks = { s.marks with cinch := s.marks.cinch.overdrawn lim b } := by
  unfold State.cinchOver
  extract_lets overdrew was counted noted recorded
  split
  · rfl
  · refine (foldl_keeps State.marks (by intros; rfl) recorded).trans ?_
    show (if was then noted else _ : State).marks = _
    have kept : noted.marks = { s.marks with cinch := s.marks.cinch.overdrawn lim b } := State.marks_cinchCount ..
    split <;> exact kept

/-- A boundary without a trip puts the settings in force and counts the overdraw of the beat (R432, R437). -/
theorem State.marks_cinchBeat (b : BoundaryIn) (h : s.mf.tripped = false) : (s.cinchBeat b).marks =
    { s.marks with cinch :=
      (s.marks.cinch.loaded s.pins.pwrLim b).overdrawn (s.marks.cinch.loaded s.pins.pwrLim b).limit b } := by
  unfold State.cinchBeat
  rw [h, if_neg (by decide)]
  extract_lets counted was mhz loaded known lim decided
  have countedKept : counted.marks = s.marks := foldl_keeps State.marks (fun s _ _ => State.marks_count s ..) s
  have knownMarks : known.marks = { s.marks with cinch := s.marks.cinch.loaded s.pins.pwrLim b } := by
    have eq : known.marks = { counted.marks with cinch := counted.marks.cinch.loaded counted.marks.pins.pwrLim b } := rfl
    rw [eq, countedKept]
    rfl
  have limit : lim = (s.marks.cinch.loaded s.pins.pwrLim b).limit :=
    congrArg (fun m => m.cinch.limit) knownMarks
  have decidedKept : decided.marks = known.marks := by
    show (if b.cinchLate then _ else _ : State).marks = _
    split
    · exact State.marks_cinchCount ..
    · exact State.marks_cinchDecide ..
  rw [State.marks_cinchOver, State.marks_clockMoved, decidedKept, knownMarks, limit]

theorem State.marks_cinchBeat_of_tripped (b : BoundaryIn) (h : s.mf.tripped = true) : (s.cinchBeat b).marks = s.marks := by
  unfold State.cinchBeat
  rw [h, if_pos rfl]

/-! ### BEAT_BOUNDARY (R30) -/

/-- The marks of the beat that begins, before the cinch controller decides. -/
def BeatMarks.next (m : BeatMarks) : BeatMarks := { m with
  tsc := BitVec.ofNat 64 ((m.tsc.toNat / 2048 + 1) * 2048)
  pins := { m.pins with syncRec := false }, leaked := [], dropRec := [] }

/-- A beat boundary comes to the cinch controller with the next beat's marks, and leaves them as the controller left
them. -/
theorem execBeatBoundary_marks (b : BoundaryIn) {s : State} (hpll : s.boot.pll = true) :
    ∃ u t : State, execBeatBoundary b s = .next t ∧ u.marks = s.marks.next ∧ t.marks = (u.cinchBeat b).marks := by
  unfold execBeatBoundary
  rw [need_of hpll]
  extract_lets ended dropped late flagged synced died routed counted decided parted
  refine ⟨counted, _, rfl, ?_, ?_⟩
  · have flaggedMarks : flagged.marks = s.marks.next := by
      have eq : flagged.marks = { (dropped.nextBeat.timeBeat.lateManagement ended).marks with
          pins := { (dropped.nextBeat.timeBeat.lateManagement ended).marks.pins with syncRec := false },
          leaked := [], dropRec := [] } := State.marks_beatFlags _
      rw [eq, State.marks_lateManagement, State.marks_timeBeat, State.marks_nextBeat]
      have droppedMarks : dropped.marks = s.marks := State.marks_dropLateFrames s
      rw [droppedMarks, show dropped.time.tsc = s.time.tsc from congrArg BeatMarks.tsc droppedMarks]
      rfl
    have syncedMarks : synced.marks = flagged.marks :=
      (State.marks_unsynced _).trans (foldl_keeps State.marks (fun s e _ => State.marks_lateEntry s ..) _)
    have diedMarks : died.marks = synced.marks :=
      foldl_keeps State.marks (fun s d _ => (State.marks_vacateDie ..).trans (State.marks_dieBeat s d)) _
    have routedMarks : routed.marks = died.marks :=
      (State.marks_recomputeRoutes _).trans (foldl_keeps State.marks (fun s l _ => State.marks_linkBeat s l) _)
    have countedMarks : counted.marks = routed.marks :=
      ((State.marks_txBeat _).trans (State.marks_coresBeat _)).trans (State.marks_energyBeat ..)
    rw [countedMarks, routedMarks, diedMarks, syncedMarks, flaggedMarks]
  · rw [State.marks_appendBatch]
    exact foldl_keeps State.marks (fun s p hp => State.marks_partBeat s _ (List.mem_range.mp hp)) decided

end Sys2Proof.Machine
end

/-! ## Records: their order (R36) and their delivery (R37) -/

section
namespace Sys2Proof.Machine

/-! ### The order of R36 -/

theorem Rec.before_iff (a b : Rec) :
    a.before b = true ↔ a.tsc.toNat < b.tsc.toNat ∨ a.tsc = b.tsc ∧ a.src ≤ b.src := by
  simp [Rec.before]

theorem Rec.before_total {a b : Rec} (h : ¬ a.before b = true) : b.before a = true := by
  rw [Rec.before_iff] at h ⊢
  rcases Nat.lt_trichotomy a.tsc.toNat b.tsc.toNat with hlt | heq | hgt
  · exact absurd (Or.inl hlt) h
  · have same := BitVec.eq_of_toNat_eq heq
    refine .inr ⟨same.symm, ?_⟩
    by_contra hsrc
    exact h (.inr ⟨same, by omega⟩)
  · exact .inl hgt

theorem Rec.before_trans {a b c : Rec} (h : a.before b = true) (k : b.before c = true) : a.before c = true := by
  rw [Rec.before_iff] at h k ⊢
  rcases h with h | ⟨htsc, hsrc⟩ <;> rcases k with k | ⟨ktsc, ksrc⟩
  · exact .inl (h.trans k)
  · exact .inl (ktsc ▸ h)
  · exact .inl (htsc ▸ k)
  · exact .inr ⟨htsc.trans ktsc, hsrc.trans ksrc⟩

/-- In R36 order. -/
def inOrder (l : List Rec) : Prop := l.Pairwise fun a b => a.before b = true

theorem insertRec_perm (r : Rec) (l : List Rec) : (insertRec r l).Perm (r :: l) := by
  induction l with
  | nil => exact .refl _
  | cons q l ih =>
    unfold insertRec
    split
    · exact (ih.cons q).trans (.swap r q l)
    · exact .refl _

theorem insertRec_inOrder (r : Rec) {l : List Rec} (h : inOrder l) : inOrder (insertRec r l) := by
  induction l with
  | nil => exact List.pairwise_singleton _ _
  | cons q l ih =>
    obtain ⟨hq, hl⟩ := List.pairwise_cons.mp h
    unfold insertRec
    split
    · rename_i hqr
      refine List.pairwise_cons.mpr ⟨fun a ha => ?_, ih hl⟩
      rcases List.mem_cons.mp ((insertRec_perm r l).mem_iff.mp ha) with rfl | ha
      · exact hqr
      · exact hq a ha
    · rename_i hqr
      have hrq := Rec.before_total hqr
      refine List.pairwise_cons.mpr ⟨fun a ha => ?_, h⟩
      rcases List.mem_cons.mp ha with rfl | ha
      · exact hrq
      · exact Rec.before_trans hrq (hq a ha)

/-- A record's TSC and source number. -/
def Rec.at (tsc : DWord) (src : Nat) (r : Rec) : Bool := r.tsc == tsc && r.src == src

theorem Rec.before_of_at {a b : Rec} {tsc : DWord} {src : Nat} (ha : a.at tsc src = true) (hb : b.at tsc src = true) :
    a.before b = true := by
  obtain ⟨hat, has⟩ : a.tsc = tsc ∧ a.src = src := by simpa [Rec.at] using ha
  obtain ⟨hbt, hbs⟩ : b.tsc = tsc ∧ b.src = src := by simpa [Rec.at] using hb
  exact (Rec.before_iff a b).mpr (.inr ⟨hat.trans hbt.symm, (has.trans hbs.symm).le⟩)

/-- A record is put after those of its own TSC and source number. -/
theorem filter_insertRec (r : Rec) {l : List Rec} (h : inOrder l) (tsc : DWord) (src : Nat) :
    (insertRec r l).filter (Rec.at tsc src) = l.filter (Rec.at tsc src) ++ [r].filter (Rec.at tsc src) := by
  induction l with
  | nil => rfl
  | cons q l ih =>
    obtain ⟨hq, hl⟩ := List.pairwise_cons.mp h
    unfold insertRec
    split
    · simp only [List.filter_cons, ih hl]
      split <;> rfl
    · rename_i hqr
      by_cases hr : r.at tsc src = true
      · have noneAfter : (q :: l).filter (Rec.at tsc src) = [] := List.filter_eq_nil_iff.mpr fun a ha hat => by
          have har := Rec.before_of_at hat hr
          rcases List.mem_cons.mp ha with rfl | ha
          · exact hqr har
          · exact hqr (Rec.before_trans (hq a ha) har)
        rw [List.filter_cons_of_pos hr, noneAfter, List.filter_cons_of_pos hr]
        rfl
      · rw [List.filter_cons_of_neg hr, List.filter_cons_of_neg hr, List.filter_nil, List.append_nil]

theorem sortRecs_concat (l : List Rec) (r : Rec) : sortRecs (l ++ [r]) = insertRec r (sortRecs l) := by
  simp [sortRecs]

theorem sortRecs_perm (l : List Rec) : (sortRecs l).Perm l := by
  induction l using List.reverseRecOn with
  | nil => exact .refl _
  | append_singleton l r ih =>
    rw [sortRecs_concat]
    exact ((insertRec_perm r _).trans (ih.cons r)).trans (List.perm_append_singleton r l).symm

theorem sortRecs_inOrder (l : List Rec) : inOrder (sortRecs l) := by
  induction l using List.reverseRecOn with
  | nil => exact .nil
  | append_singleton l r ih => exact sortRecs_concat l r ▸ insertRec_inOrder r ih

/-- Records of one TSC and source number keep their order (R36). -/
theorem filter_sortRecs (l : List Rec) (tsc : DWord) (src : Nat) :
    (sortRecs l).filter (Rec.at tsc src) = l.filter (Rec.at tsc src) := by
  induction l using List.reverseRecOn with
  | nil => rfl
  | append_singleton l r ih =>
    rw [sortRecs_concat, filter_insertRec r (sortRecs_inOrder l), ih, List.filter_append]

/-! ### Delivery (R37) -/

variable {s : State}

@[simp] theorem State.saveRetained_log (s : State) : s.saveRetained.log = s.log := by
  unfold State.saveRetained
  split <;> rfl

/-- A record is appended to the ring as its newest, and to nothing else but the retained area. -/
theorem Log.append_ring (l : Log) (r : Rec) : (l.append r).flight = l.flight ∧ (l.append r).batch = l.batch ∧
    (l.append r).total = l.total + 1 ∧ ∃ q rest, (l.append r).ring = q :: rest ∧ q = { r with ret := q.ret } :=
  ⟨rfl, rfl, rfl, _, _, rfl, rfl⟩

theorem State.deliverRec_inTime {r : Rec} (h : s.time.tsc.toNat / 2048 < r.beat + 2) :
    s.deliverRec r = { s with log := { s.log with batch := s.log.batch ++ [r] } } :=
  if_neg (by unfold State.beatNo; omega)

theorem State.deliverRec_late {r : Rec} (h : r.beat + 2 ≤ s.time.tsc.toNat / 2048) :
    (s.deliverRec r).log = s.log.append { r with late := true } := by
  have late : s.deliverRec r = { s with log := s.log.append { r with late := true } }.saveRetained := if_pos h
  rw [late, State.saveRetained_log]

/-- The state when the record at a place of those on their way has left it. -/
def State.unflown (s : State) (i : Nat) : State :=
  { s with log := { s.log with flight := s.log.flight.eraseIdx i } }

theorem eventRecord_completes {i : Nat} {r : Rec} (hrec : s.log.flight[i]? = some r) (hheld : s.recHeld r = false) :
    Does (.eventRecord i) s fun t => t.log.flight = s.log.flight.eraseIdx i ∧
      (s.time.tsc.toNat / 2048 < r.beat + 2 → t.log.batch = s.log.batch ++ [r] ∧ t.log.ring = s.log.ring ∧
        t.log.total = s.log.total) ∧
      (r.beat + 2 ≤ s.time.tsc.toNat / 2048 → t.log.batch = s.log.batch ∧ t.log.total = s.log.total + 1 ∧
        ∃ q l, t.log.ring = q :: l ∧ q = { r with late := true, ret := q.ret }) := by
  refine ⟨(s.unflown i).deliverRec r, ?_, ?_⟩
  · rw [exec_eventRecord, execEventRecord, hrec, needSome_some, need_of (by rw [hheld]; rfl)]
    rfl
  · rcases Nat.lt_or_ge (s.time.tsc.toNat / 2048) (r.beat + 2) with hin | hlate
    · have delivered : (s.unflown i).deliverRec r = _ := State.deliverRec_inTime hin
      rw [delivered]
      exact ⟨rfl, fun _ => ⟨rfl, rfl, rfl⟩, fun h => by omega⟩
    · have delivered : ((s.unflown i).deliverRec r).log = _ := State.deliverRec_late hlate
      obtain ⟨hflight, hbatch, htotal, hring⟩ := Log.append_ring (s.unflown i).log { r with late := true }
      rw [delivered]
      exact ⟨hflight, fun h => by omega, fun _ => ⟨hbatch, htotal, hring⟩⟩

/-! ### The boundary (R30) -/

/-- The cinch controller changes none of the beat's own marks. -/
theorem State.marks_cinchBeat_rest (s : State) (b : BoundaryIn) :
    (s.cinchBeat b).marks = { s.marks with cinch := (s.cinchBeat b).marks.cinch } := by
  cases h : s.mf.tripped with
  | true => rw [State.marks_cinchBeat_of_tripped s b h]
  | false => rw [State.marks_cinchBeat s b h]

theorem beatBoundary_begins_beat (b : BoundaryIn) (hpll : s.boot.pll = true) :
    Does (.beatBoundary b) s fun t => t.time.tsc = BitVec.ofNat 64 ((s.time.tsc.toNat / 2048 + 1) * 2048) ∧
      t.time.tsc.toNat % 2048 = 0 ∧ t.mf.leaked = [] ∧ t.host.dropRec = [] ∧ t.pins.syncRec = false := by
  obtain ⟨u, t, hexec, hu, ht⟩ := execBeatBoundary_marks b hpll
  have marks : t.marks = { s.marks.next with cinch := t.marks.cinch } := by
    rw [ht, State.marks_cinchBeat_rest, hu]
  have tsc : t.time.tsc = BitVec.ofNat 64 ((s.time.tsc.toNat / 2048 + 1) * 2048) := congrArg BeatMarks.tsc marks
  refine ⟨t, hexec, tsc, ?_, congrArg BeatMarks.leaked marks, congrArg BeatMarks.dropRec marks,
    congrArg (fun m => m.pins.syncRec) marks⟩
  rw [tsc, BitVec.toNat_ofNat, Nat.mod_mod_of_dvd _ (by decide), Nat.mul_mod_left]

/-- Settles O12: the marks of the beat that begins, the delivery of a record, and a stable sort. -/
theorem beatsAndRecordsComplete : Obligations.BeatsAndRecordsComplete := by
  refine ⟨fun b s hpll => beatBoundary_begins_beat b hpll, fun i r s hrec hheld => eventRecord_completes hrec hheld,
    fun l => ⟨sortRecs_perm l, ?_, fun tsc src => filter_sortRecs l tsc src⟩⟩
  exact (sortRecs_inOrder l).imp fun {a b} h => (Rec.before_iff a b).mp h

end Sys2Proof.Machine
end

/-! ## The cinch controller's registers (R432, R441) -/

section
namespace Sys2Proof.Machine

variable {s : State} {path : Path}

/-! ### Where a package session writes -/

theorem State.boundTo_of_package (h : s.isPackage path = true) : s.boundTo path = none := by
  cases path with
  | priv c => rfl
  | session n =>
    have scope : s.scopeOf n = some .package := by simpa [State.isPackage] using h
    simp [State.boundTo, scope]

theorem State.outOfReach_of_package (h : s.isPackage path = true) (a : Nat) : s.outOfReach path a = false := by
  simp [State.outOfReach, State.boundTo_of_package h]

theorem dispatches_cinch {h o : Nat} (hh : h < 2) (ho : o = 0 ∨ o = 4 ∨ o = 8) (hopen : s.opens path false = true)
    (hpackage : s.isPackage path = true) :
    ∃ r, r.perf = false ∧ s.Dispatches path ((Blk.cinch h).base + o) (.cinch h) o r := by
  have found : ∃ r, locate ((Blk.cinch h).base + o) = some (.cinch h, o) ∧ regAt ((Blk.cinch h).base + o) = some r ∧
      r.perf = false ∧ r.half ≠ 1 := by
    rcases ho with rfl | rfl | rfl
    · exact ⟨Reg.held 0xFFFF, by interval_cases h <;> decide⟩
    · exact ⟨Reg.held 0xFFFF, by interval_cases h <;> decide⟩
    · exact ⟨Reg.held 0xFF01, by interval_cases h <;> decide⟩
  obtain ⟨r, hloc, hreg, hperf, hwhole⟩ := found
  refine ⟨r, hperf, .of_locate hopen ?_ (State.outOfReach_of_package hpackage _) hloc hreg hwhole ?_ nofun nofun ?_⟩
  · simp only [Blk.base]; omega
  · simp [State.mayWrite, hpackage]
  · simp only [Blk.base]; omega

/-- A package session's write of a cinch register has the register's own effect. -/
theorem State.pathWrite_cinch {h o : Nat} (hh : h < 2) (ho : o = 0 ∨ o = 4 ∨ o = 8) (hopen : s.opens path false = true)
    (hpackage : s.isPackage path = true) (v : Word) : s.pathWrite path ((Blk.cinch h).base + o) v =
      .next (((s.taken path).writeCinch o v).answered path) := by
  obtain ⟨r, hperf, taken⟩ := dispatches_cinch hh ho hopen hpackage
  rw [State.pathWrite_eq taken]
  simp [State.applyWrite, hperf]

/-! ### The setpoints follow the clock (R455) -/

theorem State.clockMoved_same {mhz : Nat} (h : s.cinch.mhz = mhz) : s.clockMoved mhz = s := if_pos h

/-- A rail is set to the clock in force and its setpoint has been sent. -/
def State.railSet (s : State) (mhz d : Nat) : Prop :=
  (s.die d).setpoint = setpointOf mhz ∧ .setpoint d (setpointOf mhz) ∈ s.out

theorem State.railSet_setRail (d : Nat) : (s.setRail d).railSet s.cinch.mhz d :=
  ⟨congrArg Die.setpoint (State.die_setDie s d _), List.mem_cons_self⟩

theorem State.railSet.setRail {d : Nat} (h : s.railSet s.cinch.mhz d) (e : Nat) :
    (s.setRail e).railSet s.cinch.mhz d := by
  by_cases hd : d = e
  · exact hd ▸ State.railSet_setRail d
  · exact ⟨(congrArg Die.setpoint (State.die_setDie_other s _ hd)).trans h.1, List.mem_cons_of_mem _ h.2⟩

theorem State.railSet_foldl {d : Nat} (l : List Nat) (s : State) (h : d ∈ l ∨ s.railSet s.cinch.mhz d) :
    (l.foldl State.setRail s).railSet s.cinch.mhz d := by
  induction l generalizing s with
  | nil => exact h.resolve_left List.not_mem_nil
  | cons e l ih =>
    refine ih (s.setRail e) ?_
    rcases h with hd | hset
    · rcases List.mem_cons.mp hd with rfl | hd
      · exact .inr (State.railSet_setRail d)
      · exact .inl hd
    · exact .inr (hset.setRail e)

/-- A clock that has changed sets the rail of every powered die. -/
theorem State.railSet_clockMoved {mhz d : Nat} (h : s.cinch.mhz ≠ mhz) (hd : d < 8) (hpow : (s.die d).powered = true) :
    (s.clockMoved mhz).railSet s.cinch.mhz d := by
  have moved : s.clockMoved mhz = ((List.range 8).filter fun d => (s.die d).powered).foldl State.setRail s := if_neg h
  rw [moved]
  exact State.railSet_foldl _ s (.inl (List.mem_filter.mpr ⟨List.mem_range.mpr hd, hpow⟩))

/-- A change of the clock changes dies and outputs alone. -/
theorem State.clockMoved_rest (s : State) (mhz : Nat) : (s.clockMoved mhz).cinch = s.cinch ∧
    (s.clockMoved mhz).mem = s.mem ∧ (s.clockMoved mhz).regs = s.regs ∧ (s.clockMoved mhz).log = s.log := by
  unfold State.clockMoved
  split
  · exact ⟨rfl, rfl, rfl, rfl⟩
  · exact ⟨foldl_keeps State.cinch (by intros; rfl) s, foldl_keeps State.mem (by intros; rfl) s,
      foldl_keeps State.regs (by intros; rfl) s, foldl_keeps State.log (by intros; rfl) s⟩

/-! ### CINCH_CAP, CINCH_FAST and CINCH_CTRL -/

/-- The state with other settings of the controller, of the same clock. -/
theorem State.withCinch_answered (s : State) (path : Path) (c : Cinch) :
    (({ s.taken path with cinch := c }).answered path).cinch = c ∧
    (({ s.taken path with cinch := c }).answered path).out = okTo path s.out ∧
    (({ s.taken path with cinch := c }).answered path).mem = s.mem ∧
    (({ s.taken path with cinch := c }).answered path).regs = s.regs ∧
    (({ s.taken path with cinch := c }).answered path).log = s.log := by
  simp [State.answered_out]

theorem cinchCap_completes {h : Nat} (hh : h < 2) (hopen : s.opens path false = true) (hpackage : s.isPackage path = true)
    (v : Word) : Does (.cinchCap path h v) s fun t => t.cinch = { s.cinch with capNext := bits v 15 0 } ∧
      t.out = okTo path s.out ∧ t.mem = s.mem ∧ t.regs = s.regs ∧ t.log = s.log := by
  have written : (s.taken path).writeCinch 0 v =
      { s.taken path with cinch := { s.cinch with capNext := bits v 15 0 } } := by
    rw [← State.taken_cinch (path := path)]
    exact State.clockMoved_same rfl
  refine ⟨_, ?_, State.withCinch_answered s path _⟩
  rw [exec_cinchCap, execCinchCap, needUnit_lt hh, ← written]
  exact State.pathWrite_cinch (o := 0) hh (.inl rfl) hopen hpackage v

theorem cinchFast_completes {h : Nat} (hh : h < 2) (hopen : s.opens path false = true) (hpackage : s.isPackage path = true)
    (v : Word) : Does (.cinchFast path h v) s fun t => t.cinch = { s.cinch with fastNext := bits v 15 0 } ∧
      t.out = okTo path s.out ∧ t.mem = s.mem ∧ t.regs = s.regs ∧ t.log = s.log := by
  have written : (s.taken path).writeCinch 4 v =
      { s.taken path with cinch := { s.cinch with fastNext := bits v 15 0 } } := by
    rw [← State.taken_cinch (path := path)]
    exact State.clockMoved_same rfl
  refine ⟨_, ?_, State.withCinch_answered s path _⟩
  rw [exec_cinchFast, execCinchFast, needUnit_lt hh, ← written]
  exact State.pathWrite_cinch hh (.inr (.inl rfl)) hopen hpackage v

/-- The settings after a write of `CINCH_CTRL`: fixed-frequency mode sets 2.000 GHz (R441). -/
def Cinch.controlled (c : Cinch) (v : Word) : Cinch :=
  { c with ctrlNext := v &&& 0xFF01, mhz := if v.getLsbD 0 then c.mhz else 2000 }

/-- The state with `CINCH_CTRL` written, before the setpoints follow. -/
def State.withCtrl (s : State) (path : Path) (v : Word) : State :=
  { s.taken path with cinch := s.cinch.controlled v }

theorem State.writeCinch_ctrl (s : State) (path : Path) (v : Word) :
    (s.taken path).writeCinch 8 v = (s.withCtrl path v).clockMoved s.cinch.mhz := by
  unfold State.withCtrl
  rw [← State.taken_cinch (path := path)]
  rfl

theorem cinchCtrl_completes {h : Nat} (hh : h < 2) (hopen : s.opens path false = true) (hpackage : s.isPackage path = true)
    (v : Word) : Does (.cinchCtrl path h v) s fun t => t.cinch = { s.cinch with
        ctrlNext := v &&& 0xFF01, mhz := if v.getLsbD 0 then s.cinch.mhz else 2000 } ∧
      (v.getLsbD 0 = true ∨ s.cinch.mhz = 2000 → t.out = okTo path s.out ∧ t.dies = s.dies) ∧
      (v.getLsbD 0 = false → s.cinch.mhz ≠ 2000 → ∀ d, d < 8 → (s.die d).powered = true →
        (t.die d).setpoint = setpointOf 2000 ∧ .setpoint d (setpointOf 2000) ∈ t.out) ∧
      t.mem = s.mem ∧ t.regs = s.regs ∧ t.log = s.log := by
  obtain ⟨hcinch, hmem, hregs, hlog⟩ := State.clockMoved_rest (s.withCtrl path v) s.cinch.mhz
  obtain ⟨-, out, mem, regs, log⟩ := State.withCinch_answered s path (s.cinch.controlled v)
  refine ⟨((s.withCtrl path v).clockMoved s.cinch.mhz).answered path, ?_, ?_, fun hsame => ?_, fun hfixed hmhz d hd hpow => ?_,
    ?_, ?_, ?_⟩
  · rw [exec_cinchCtrl, execCinchCtrl, needUnit_lt hh, ← State.writeCinch_ctrl]
    exact State.pathWrite_cinch hh (.inr (.inr rfl)) hopen hpackage v
  · rw [State.answered_cinch, hcinch]
    rfl
  · have clock : (s.withCtrl path v).cinch.mhz = s.cinch.mhz := by
      show (if v.getLsbD 0 then s.cinch.mhz else 2000) = s.cinch.mhz
      split
      · rfl
      · exact (hsame.resolve_left ‹_›).symm
    rw [State.clockMoved_same clock]
    exact ⟨out, State.answered_dies.trans State.taken_dies⟩
  · have clock : (s.withCtrl path v).cinch.mhz = 2000 := by
      show (if v.getLsbD 0 then s.cinch.mhz else 2000) = 2000
      rw [hfixed]
      rfl
    have powered : ((s.withCtrl path v).die d).powered = true := by
      rw [← hpow]
      exact congrArg (fun t : Tab Die => (t.get d Die.fresh).powered) State.taken_dies
    obtain ⟨hset, hsent⟩ := State.railSet_clockMoved (clock ▸ hmhz.symm) hd powered
    rw [clock] at hset hsent
    refine ⟨?_, ?_⟩
    · simpa [State.die] using hset
    · rw [State.answered_out]
      cases path with
      | priv c => exact hsent
      | session n => exact List.mem_cons_of_mem _ hsent
  · rw [State.answered_mem, hmem]; exact State.taken_mem
  · rw [State.answered_regs, hregs]; exact State.taken_regs
  · rw [State.answered_log, hlog]; exact State.taken_log

/-! ## The limits of the beat that begins, and a spent overdraw (R432, R437 to R439) -/

/-- The part overdraws where the estimate and the floor both exceed the limit. -/
theorem overdraws_iff (lim : Nat) (b : BoundaryIn) :
    (decide (lim < b.est) && decide (lim < b.floor)) = true ↔ lim < b.est ∧ lim < b.floor := by simp

theorem Cinch.overdraw_overdrawn (c : Cinch) (lim : Nat) (b : BoundaryIn) :
    (c.overdrawn lim b).overdraw = true ↔ lim < b.est ∧ lim < b.floor := overdraws_iff lim b

theorem Cinch.overbeats_overdrawn (c : Cinch) (lim : Nat) (b : BoundaryIn) : (c.overdrawn lim b).overbeats =
    if lim < b.est ∧ lim < b.floor then min 64 (c.overbeats + 1) else 0 :=
  ite_congr (propext (overdraws_iff lim b)) (fun _ => rfl) fun _ => rfl

theorem beatBoundary_loads_limits (b : BoundaryIn) (hpll : s.boot.pll = true) (htrip : s.mf.tripped = false) :
    Does (.beatBoundary b) s fun t => t.cinch.cap = max 600 (min 2000 s.cinch.capNext) ∧
      t.cinch.fast = max 600 (min 2000 s.cinch.fastNext) ∧ t.cinch.ctrl = s.cinch.ctrlNext ∧
      t.cinch.fastIn = s.pins.pwrLim ∧ t.cinch.est = b.est ∧ t.cinch.floor = b.floor ∧ t.cinch.late = b.cinchLate ∧
      (t.cinch.overdraw = true ↔ t.cinch.limit < b.est ∧ t.cinch.limit < b.floor) ∧
      t.cinch.overbeats =
        (if t.cinch.limit < b.est ∧ t.cinch.limit < b.floor then min 64 (s.cinch.overbeats + 1) else 0) := by
  obtain ⟨u, t, hexec, hu, ht⟩ := execBeatBoundary_marks b hpll
  have untripped : u.mf.tripped = false := (congrArg BeatMarks.tripped hu).trans htrip
  have input : u.pins.pwrLim = s.pins.pwrLim := congrArg (fun m => m.pins.pwrLim) hu
  have before : u.marks.cinch = s.cinch.settings := congrArg BeatMarks.cinch hu
  have settings : t.cinch.settings = (s.cinch.settings.loaded s.pins.pwrLim b).overdrawn
      (s.cinch.settings.loaded s.pins.pwrLim b).limit b := by
    rw [State.marks_cinchBeat u b untripped, input, before] at ht
    exact congrArg BeatMarks.cinch ht
  have limit : t.cinch.limit = (s.cinch.settings.loaded s.pins.pwrLim b).limit :=
    (congrArg Cinch.limit settings : t.cinch.settings.limit = _)
  have overdraw : t.cinch.overdraw = _ := (congrArg Cinch.overdraw settings : t.cinch.settings.overdraw = _)
  have overbeats : t.cinch.overbeats = _ := (congrArg Cinch.overbeats settings : t.cinch.settings.overbeats = _)
  refine ⟨t, hexec, congrArg Cinch.cap settings, congrArg Cinch.fast settings, congrArg Cinch.ctrl settings,
    congrArg Cinch.fastIn settings, congrArg Cinch.est settings, congrArg Cinch.floor settings,
    congrArg Cinch.late settings, ?_, ?_⟩
  · rw [limit, overdraw]
    exact Cinch.overdraw_overdrawn ..
  · rw [limit, overbeats]
    exact Cinch.overbeats_overdrawn ..

/-- A step with a mark set (R329, R335). -/
def Exch.marked (x : Exch) (bit : Nat) : Exch :=
  if x.frozen then { x with hLate := true }
  else { x with
    localWord := setBit x.localWord bit true, late := x.late || bit == Machine.hLate
    missing := x.missing || bit == Machine.hMissing }

theorem State.mark_eq (s : State) (p bit : Nat) : s.mark p bit = s.updEx p fun x => x.marked bit := rfl

theorem State.part_updEx (s : State) (p q : Nat) (f : Exch → Exch) :
    (s.updEx p f).part q = if q = p then { s.part p with ex := f (s.part p).ex } else s.part q := by
  split
  · rename_i h
    subst h
    exact State.part_setPart s q _
  · rename_i h
    exact State.part_setPart_other s _ h

theorem getLsbD_setBit {n i : Nat} (hi : i < n) (w : BitVec n) : (setBit w i true).getLsbD i = true := by
  have bit : 1 % 2 ^ (i + 1 - i) * 2 ^ i = 2 ^ i := by rw [Nat.add_sub_cancel_left]; exact Nat.one_mul _
  show (_ ||| BitVec.ofNat n (1 % 2 ^ (i + 1 - i) * 2 ^ i)).getLsbD i = true
  rw [bit, BitVec.getLsbD_or, BitVec.getLsbD_ofNat, Nat.testBit_two_pow_self, decide_eq_true hi]
  exact Bool.or_true _

/-- A late step is late in its status, and in the local word unless that is frozen. -/
theorem Exch.marked_late (x : Exch) :
    (if x.frozen then (x.marked Machine.hLate).hLate else (x.marked Machine.hLate).late) = true ∧
    (x.frozen = false → (x.marked Machine.hLate).localWord.getLsbD 4 = true) := by
  cases hf : x.frozen <;> simp [Exch.marked, hf, Machine.hLate, getLsbD_setBit, -BitVec.getLsbD_eq_getElem]

/-- What CINCH_SPENT does to the step of one partition (R439). -/
def State.spendStep (s : State) (p : Nat) : State :=
  ((s.mark p hLate).updEx p fun x => { x with spent := true }).record s.cinchUnit 0x1302 1 p
    [(0, (s.part p).ex.step.toNat)]

theorem State.part_spendStep (s : State) (p q : Nat) : (s.spendStep p).part q = if q = p then
    { s.part p with ex := { (s.part p).ex.marked hLate with spent := true } } else s.part q := by
  have unrecorded : (s.spendStep p).part q = ((s.mark p hLate).updEx p fun x => { x with spent := true }).part q := rfl
  rw [unrecorded, State.part_updEx, State.mark_eq, State.part_updEx, State.part_updEx, if_pos rfl]
  split <;> rfl

theorem State.part_foldl_spendStep {l : List Nat} (hl : l.Nodup) (s : State) (q : Nat) :
    (l.foldl State.spendStep s).part q = if q ∈ l then
      { s.part q with ex := { (s.part q).ex.marked hLate with spent := true } } else s.part q := by
  induction l generalizing s with
  | nil => simp
  | cons p l ih =>
    obtain ⟨hp, hl⟩ := List.nodup_cons.mp hl
    rw [List.foldl_cons, ih hl, State.part_spendStep]
    by_cases hq : q = p
    · subst hq
      simp [hp]
    · simp [hq]

theorem State.recorded_foldl_spendStep {P : Rec → Prop} {l : List Nat} {q : Nat} (s : State)
    (hstep : q ∈ l → ∀ s : State, ∃ r, r ∈ (s.spendStep q).log.flight ∧ P r) (h : q ∈ l ∨ ∃ r, r ∈ s.log.flight ∧ P r) :
    ∃ r, r ∈ (l.foldl State.spendStep s).log.flight ∧ P r := by
  induction l generalizing s with
  | nil => exact h.resolve_left List.not_mem_nil
  | cons p l ih =>
    refine ih (s.spendStep p) (fun hq => hstep (List.mem_cons_of_mem _ hq)) ?_
    rcases h with hq | ⟨r, hr, hP⟩
    · rcases List.mem_cons.mp hq with rfl | hq
      · exact .inr (hstep List.mem_cons_self s)
      · exact .inl hq
    · exact .inr ⟨r, List.mem_append_left _ hr, hP⟩

theorem State.mem_steps (s : State) {p : Nat} (hp : p < 8) : p ∈ s.steps ↔ (s.part p).ex.current = true := by
  simp [State.steps, hp]

theorem cinchSpent_completes (hover : 64 ≤ s.cinch.overbeats) (hspent : s.cinch.spent = false) :
    Does .cinchSpent s fun t => t.cinch = { s.cinch with spent := true } ∧ t.mem = s.mem ∧ t.cores = s.cores ∧
      ∀ p, p < 8 → ((s.part p).ex.current = true → (t.part p).ex.spent = true ∧
          (if (s.part p).ex.frozen then (t.part p).ex.hLate else (t.part p).ex.late) = true ∧
          ((s.part p).ex.frozen = false → (t.part p).ex.localWord.getLsbD 4 = true) ∧
          ∃ r, r ∈ t.log.flight ∧ r.code = 0x1302 ∧ r.part = p) ∧
        ((s.part p).ex.current = false → t.part p = s.part p) := by
  refine ⟨s.steps.foldl State.spendStep (s.updCinch fun c => { c with spent := true }), ?_,
    foldl_keeps State.cinch (by intros; rfl) _, foldl_keeps State.mem (by intros; rfl) _,
    foldl_keeps State.cores (by intros; rfl) _, fun p hp => ?_⟩
  · rw [exec_cinchSpent, execCinchSpent, need_of (by simp [overLimit, hover, hspent])]
    rfl
  · have nodup : s.steps.Nodup := List.nodup_range.filter _
    have part := State.part_foldl_spendStep nodup
      (s.updCinch fun c => { c with spent := true }) p
    refine ⟨fun hcur => ?_, fun hcur => ?_⟩
    · have hmem := (State.mem_steps s hp).mpr hcur
      obtain ⟨late, word⟩ := Exch.marked_late (s.part p).ex
      rw [part, if_pos hmem]
      exact ⟨rfl, late, word, State.recorded_foldl_spendStep _
        (fun _ _ => ⟨_, List.mem_append_right _ List.mem_cons_self, rfl, rfl⟩) (.inl hmem)⟩
    · rw [part, if_neg fun hmem => by simp [(State.mem_steps s hp).mp hmem] at hcur]
      rfl

/-! ## Pins (R440, R457) -/

theorem fastLimit_recorded (s : State) (on : Bool) : (s.fastLimit on).pins = { s.pins with pwrLim := on } ∧
    (s.fastLimit on).cinch = s.cinch ∧ ∃ r, (s.fastLimit on).log.flight = s.log.flight ++ [r] ∧ r.code = 0x1304 ∧
      r.data = BitVec.ofNat 128 on.toNat := by
  refine ⟨rfl, rfl, _, rfl, rfl, ?_⟩
  cases on <;> rfl

theorem fastLimitAssert_completes (h : s.pins.pwrLim = false) :
    Does .fastLimitAssert s fun t => t.pins = { s.pins with pwrLim := true } ∧ t.cinch = s.cinch ∧
      ∃ r, t.log.flight = s.log.flight ++ [r] ∧ r.code = 0x1304 ∧ r.data = 1 :=
  ⟨s.fastLimit true, by rw [exec_fastLimitAssert, execFastLimitAssert, need_of (by simp [h])], fastLimit_recorded s true⟩

theorem fastLimitDeassert_completes (h : s.pins.pwrLim = true) :
    Does .fastLimitDeassert s fun t => t.pins = { s.pins with pwrLim := false } ∧ t.cinch = s.cinch ∧
      ∃ r, t.log.flight = s.log.flight ++ [r] ∧ r.code = 0x1304 ∧ r.data = 0 :=
  ⟨s.fastLimit false, by rw [exec_fastLimitDeassert, execFastLimitDeassert, need_of h], fastLimit_recorded s false⟩

/-- A tick of the beat is a tick of the TSC where nothing slews (R28). -/
theorem State.atTick_unslewed {tick : Nat} (htick : tick < 2048) (hslew : s.time.slew = 0) :
    (s.atTick tick).time.tsc.toNat = max (s.time.tsc.toNat / 2048 * 2048 + tick) s.time.tsc.toNat := by
  have inBeat : (if tick % 2048 = 0 then 0 else min 2047 ((tick % 2048 : Nat) + s.time.slew).toNat) = tick := by
    rw [hslew]
    split <;> omega
  rw [State.atTick_tsc, inBeat]

theorem syncEdge_completes {tick : Nat} (htick : tick < 2048) (s : State) :
    Does (.syncEdge tick) s fun t => t.pins = { s.pins with syncRec := true } ∧ t.time = (s.atTick tick).time ∧
      (s.time.slew = 0 → t.time.tsc.toNat = max (s.time.tsc.toNat / 2048 * 2048 + tick) s.time.tsc.toNat) ∧
      (s.pins.syncRec = true → t.log = s.log) ∧
      (s.pins.syncRec = false → ∃ r, t.log.flight = s.log.flight ++ [r] ∧ r.code = 0x1401 ∧ r.tsc = t.time.tsc ∧
        r.data = BitVec.ofNat 128 t.time.tsc.toNat) := by
  cases hrec : s.pins.syncRec with
  | true =>
    refine ⟨s.atTick tick, ?_, ?_, rfl, State.atTick_unslewed htick, fun _ => rfl, nofun⟩
    · rw [exec_syncEdge, execSyncEdge]
      exact congrArg Host.Outcome.next (if_pos hrec)
    · rw [← hrec]
      rfl
  | false =>
    refine ⟨({ s.atTick tick with pins := { s.pins with syncRec := true } } : State).record unitPackage 0x1401 0 0xF
      [(0, (s.atTick tick).time.tsc.toNat)], ?_, rfl, rfl, State.atTick_unslewed htick, nofun,
      fun _ => ⟨_, rfl, rfl, rfl, ?_⟩⟩
    · rw [exec_syncEdge, execSyncEdge]
      exact congrArg Host.Outcome.next (if_neg (by rw [show (s.atTick tick).pins.syncRec = false from hrec]; decide))
    · simp [payload]

/-- Settles O60: the writes wait for the boundary, which puts them in force and counts the overdraw; a spent overdraw
marks every current step; the pins are recorded. -/
theorem powerAndPinsComplete : Obligations.PowerAndPinsComplete := by
  refine ⟨?_, ?_, ?_, ?_, ?_⟩
  · intro path h v s hh hopen hpackage
    exact ⟨cinchCap_completes hh hopen hpackage v, cinchFast_completes hh hopen hpackage v,
      cinchCtrl_completes hh hopen hpackage v⟩
  · intro b s hpll htrip
    exact beatBoundary_loads_limits b hpll htrip
  · intro s hover hspent
    exact cinchSpent_completes hover hspent
  · intro s
    exact ⟨fastLimitAssert_completes, fastLimitDeassert_completes⟩
  · intro tick s htick
    exact syncEdge_completes htick s

end Sys2Proof.Machine
end

/-! ## The step and the plan of a partition (R314, R319) -/

section
namespace Sys2Proof.Machine

variable {s t : State} {path : Path} {p : Nat}

theorem State.ex_updEx (s : State) (p : Nat) (f : Exch → Exch) : ((s.updEx p f).part p).ex = f (s.part p).ex :=
  congrArg Part.ex (State.part_setPart s p _)

/-! ### What the rest of a step boundary reads -/

/-- What a step boundary reads and none of its parts before the new step changes: the time, the boot, the armed plan, whether
the update runs, and the words of `TIME_`, `XPLAN_` and `HEALTH_`. -/
structure StepView where
  time : Time
  boot : Boot
  armed : Bool
  plan : List PlanEntry
  running : Bool
  words : { a // planWord a } → Word

def State.stepView (s : State) (p : Nat) : StepView where
  time := s.time
  boot := s.boot
  armed := (s.part p).ex.armed
  plan := (s.part p).ex.plan
  running := (s.part p).upd.running
  words := fun a => s.regWord a.1

theorem HubWork.stepView (h : HubWork p s t) : t.stepView p = s.stepView p := by
  have words : (fun a : { a // planWord a } => t.regWord a.1) = fun a => s.regWord a.1 :=
    funext fun a => h.regs a.1 a.2
  unfold State.stepView
  rw [h.ex, h.running, words, h.rest]

theorem State.stepView_updEx (s : State) {f : Exch → Exch} (harmed : ∀ x, (f x).armed = x.armed := by exact fun _ => rfl)
    (hplan : ∀ x, (f x).plan = x.plan := by exact fun _ => rfl) : (s.updEx p f).stepView p = s.stepView p := by
  unfold State.stepView
  rw [State.part_updEx, if_pos rfl, harmed, hplan]
  rfl

theorem State.regWord_of_stepView (h : t.stepView p = s.stepView p) {a : Nat} (ha : planWord a) :
    t.regWord a = s.regWord a :=
  congrFun (congrArg StepView.words h) ⟨a, ha⟩

theorem State.reg_of_stepView (h : t.stepView p = s.stepView p) {b : Blk} {o : Nat} (ha : planWord (b.base + o)) :
    t.reg b o = s.reg b o :=
  congrArg BitVec.toNat (State.regWord_of_stepView h ha)

theorem State.inSync_of_stepView (h : t.stepView p = s.stepView p) : t.inSync = s.inSync := by
  have time : t.time = s.time := congrArg StepView.time h
  have boot : t.boot = s.boot := congrArg StepView.boot h
  have master : t.reg .time 8 = s.reg .time 8 := State.reg_of_stepView h (.inl (by decide))
  unfold State.inSync
  rw [time, boot, master]

/-! ### An abandoned step (R346, R350, R351) -/

theorem not_planWord_upd (p o : Nat) : ¬ planWord ((Blk.upd p).base + o) := by
  simp only [planWord, Blk.base]
  omega

theorem not_planWord_pgrp (p o : Nat) : ¬ planWord ((Blk.pgrp p).base + o) := by
  simp only [planWord, Blk.base]
  omega

theorem HubWork.revertNow (s : State) : HubWork p s (s.revertNow p) := by
  unfold State.revertNow
  extract_lets versioned moved cleared
  refine HubWork.trans (HubWork.trans (t := versioned) ?_ ?_) (((HubWork.updUpd moved).trans
    (HubWork.count (fun _ _ => not_planWord_upd _ _) _ _)).trans (HubWork.record ..))
  · exact (HubWork.setReg64 (fun _ _ => not_planWord_upd _ _) _ _).trans (HubWork.hubLine ..)
  · exact HubWork.foldl (fun s n => HubWork.setReg (not_planWord_pgrp _ _) _ _) _ _

theorem HubWork.revertFirst (s : State) : HubWork p s (s.revertFirst p) := by
  unfold State.revertFirst
  split
  · split
    · exact HubWork.revertNow s
    · exact HubWork.refl p s
  · exact HubWork.refl p s

theorem HubWork.updSkip (hp : p < 8) (s : State) (why : Nat) : HubWork p s (s.updSkip p why) := by
  unfold State.updSkip
  extract_lets step marked counted
  refine HubWork.trans (HubWork.trans (t := marked) ?_ ?_) (HubWork.formRecord hp ..)
  · exact HubWork.updUpd s (hrun := fun u => by split <;> rfl)
  · exact (HubWork.count (fun _ _ => not_planWord_upd _ _) _ _).trans (HubWork.record ..)

theorem HubWork.updAbandon (hp : p < 8) (s : State) (step : Word) : HubWork p s (s.updAbandon p step) :=
  ((HubWork.revertFirst s).trans (HubWork.updUpd _)).trans (HubWork.updSkip hp _ _)

/-! ### Reservations at a step boundary (R409, R410, R327, R328, R438) -/

theorem State.stepView_record (s : State) (unit code sev part : Nat) (fs : List (Nat × Nat)) :
    (s.record unit code sev part fs).stepView p = s.stepView p := rfl

theorem State.stepView_withdraw (s : State) (d why : Nat) : (s.withdraw p d why).stepView p = s.stepView p := by
  unfold State.withdraw
  extract_lets x
  split
  · rfl
  · rw [State.stepView_record, State.stepView_updEx]

theorem not_planWord_cinch {h o : Nat} (ho : o < 0x1000) (hh : h < 2) : ¬ planWord ((Blk.cinch h).base + o) := by
  simp only [planWord, Blk.base]
  omega

theorem State.primary_lt (s : State) : s.primary < 2 := by
  unfold State.primary
  split <;> decide

theorem HubWork.cinchCount (s : State) {o : Nat} (ho : o < 0x100) (n : Nat) : HubWork p s (s.cinchCount o n) := by
  have outside : ∀ h k, h < 2 → k ≤ 4 → ¬ planWord ((Blk.cinch h).base + (o + k)) := fun h k hh hk =>
    not_planWord_cinch (by omega) hh
  have first := State.primary_lt s
  unfold State.cinchCount
  exact (HubWork.count (fun k hk => outside _ k first hk) _ _).trans
    (HubWork.setReg64 (fun k hk => outside _ k (by omega) hk) _ _)

theorem State.stepView_cinchWithdraw (s : State) : (s.cinchWithdraw p).stepView p = s.stepView p := by
  unfold State.cinchWithdraw
  split
  · rw [(HubWork.cinchCount _ (by decide) _).stepView, State.stepView_record, State.stepView_withdraw]
  · rfl

theorem State.stepView_stepReservations (s : State) : (s.stepReservations p).stepView p = s.stepView p := by
  unfold State.stepReservations
  extract_lets x drawn leaked withdrawn
  have kept : withdrawn.stepView p = s.stepView p :=
    (foldl_keeps (State.stepView · p) (fun s r _ => State.stepView_withdraw s r.1 r.2) leaked).trans
      (State.stepView_updEx s)
  split
  · rw [State.stepView_cinchWithdraw, kept]
  · exact kept

/-! ### STEP_BOUNDARY (R314) -/

/-- The state with an active step abandoned. -/
def State.stepAbandoned (s : State) (p : Nat) : State :=
  if (s.part p).ex.active then s.updAbandon p (s.part p).ex.step else s

/-- The state in which the new step begins: the old one abandoned, reservations stepped, group values latched. -/
def State.stepReady (s : State) (p : Nat) : State := ((s.stepAbandoned p).stepReservations p).latchGroups p

theorem State.stepView_stepAbandoned (hp : p < 8) (s : State) : (s.stepAbandoned p).stepView p = s.stepView p := by
  unfold State.stepAbandoned
  split
  · exact (HubWork.updAbandon hp s _).stepView
  · rfl

theorem State.stepView_stepReady (hp : p < 8) (s : State) : (s.stepReady p).stepView p = s.stepView p := by
  unfold State.stepReady State.latchGroups
  rw [(HubWork.updUpd _).stepView, State.stepView_stepReservations, State.stepView_stepAbandoned hp]

theorem planWord_xplan (hp : p < 8) {o : Nat} (ho : o < 0x1000) : planWord ((Blk.xplan p).base + o) := by
  simp only [planWord, Blk.base]
  omega

theorem planWord_health (hp : p < 8) {o : Nat} (ho : o < 0x1000) : planWord ((Blk.health p).base + o) := by
  simp only [planWord, Blk.base]
  omega

theorem State.reg64_lt (s : State) (b : Blk) (o : Nat) : s.reg64 b o < 2 ^ 64 := by
  have low := s.reg_lt b o
  have high := s.reg_lt b (o + 4)
  unfold State.reg64
  omega

theorem State.toNat_regD (s : State) (b : Blk) (o : Nat) : (s.regD b o).toNat = s.reg64 b o :=
  by rw [State.regD, BitVec.toNat_ofNat, Nat.mod_eq_of_lt (s.reg64_lt b o)]

/-- A step with LATE set where `c` holds. -/
def Exch.lateIf (x : Exch) (c : Bool) : Exch := if c then x.marked Machine.hLate else x

/-- The state with the step of a partition marked late where `c` holds. -/
def State.lateStepIf (s : State) (p : Nat) (c : Bool) : State := if c then s.mark p hLate else s

theorem State.part_lateStepIf (s : State) (p : Nat) (c : Bool) :
    ((s.lateStepIf p c).part p).ex = (s.part p).ex.lateIf c ∧
    ((s.lateStepIf p c).part p).upd = (s.part p).upd := by
  cases c with
  | false => exact ⟨rfl, rfl⟩
  | true =>
    have marked : (s.lateStepIf p true).part p = { s.part p with ex := (s.part p).ex.marked hLate } := by
      show (s.mark p hLate).part p = _
      rw [State.mark_eq, State.part_updEx, if_pos rfl]
    rw [marked]
    exact ⟨rfl, rfl⟩

/-- A step without its marks. -/
def Exch.unmarked (x : Exch) : Exch := { x with localWord := 0, late := false, missing := false, hLate := false }

theorem Exch.unmarked_lateIf (x : Exch) (c : Bool) : (x.lateIf c).unmarked = x.unmarked := by
  cases c with
  | false => rfl
  | true =>
    show (x.marked Machine.hLate).unmarked = _
    unfold Exch.marked
    split <;> rfl

/-- The local word of a step that begins late: bit 4 (R329). -/
theorem Exch.localWord_lateIf_newStep (x : Exch) (step : Word) (start : DWord) (n : Nat) (c d : Bool) :
    (((x.newStep step start n).lateIf c).lateIf d).localWord = if c || d then 16 else 0 := by
  have once : setBit (0 : DWord) 4 true = 16 := by decide
  have twice : setBit (setBit (0 : DWord) 4 true) 4 true = 16 := by decide
  cases c <;> cases d
  · rfl
  · exact once
  · exact once
  · exact twice

/-- A step that has begun, but for its marks. -/
theorem Exch.begun_of_unmarked {x y : Exch} {step : Word} {start : DWord} {n : Nat}
    (h : y.unmarked = (x.newStep step start n).unmarked) : y.step = step ∧ y.start = start ∧ y.active = true ∧
      y.decided = false ∧ y.stepPend = none ∧ y.gates = [] ∧ y.hups = [] ∧ y.frozen = false ∧ y.final = none ∧
      y.beatsDone = [] ∧ y.skipped = [] ∧ y.got = [] ∧ y.decideOff = n ∧ y.armed = x.armed ∧ y.plan = x.plan :=
  ⟨congrArg Exch.step h, congrArg Exch.start h, congrArg Exch.active h, congrArg Exch.decided h,
    congrArg Exch.stepPend h, congrArg Exch.gates h, congrArg Exch.hups h, congrArg Exch.frozen h,
    congrArg Exch.final h, congrArg Exch.beatsDone h, congrArg Exch.skipped h, congrArg Exch.got h,
    congrArg Exch.decideOff h, (congrArg Exch.armed h :), (congrArg Exch.plan h :)⟩

/-- The new step begins, and with it the beats of a spent overdraw end. -/
def State.begin (s : State) (p : Nat) (step : Word) (start : DWord) : State :=
  { s.updEx p fun x => x.newStep step start (s.reg (.health p) 0) with cinch := { s.cinch with spent := false } }

theorem State.ex_begin (s : State) (p : Nat) (step : Word) (start : DWord) :
    ((s.begin p step start).part p).ex = (s.part p).ex.newStep step start (s.reg (.health p) 0) :=
  State.ex_updEx s p fun x => x.newStep step start (s.reg (.health p) 0)

theorem State.stepView_begin (s : State) (p : Nat) (step : Word) (start : DWord) :
    (s.begin p step start).stepView p = s.stepView p :=
  State.stepView_updEx s (f := fun x => x.newStep step start (s.reg (.health p) 0))

/-- A step that begins while an update runs is late, and so is the update (R350). -/
def State.lateUpdate (s : State) (p : Nat) (step : Word) : State :=
  if (s.part p).upd.running then
    ((s.updUpd p fun u => { u with late := true }).mark p hLate).record s.seqUnit 0x0F07 1 p [(64, step.toNat)]
  else s

theorem State.ex_lateUpdate (s : State) (p : Nat) (step : Word) :
    ((s.lateUpdate p step).part p).ex = (s.part p).ex.lateIf (s.part p).upd.running := by
  unfold State.lateUpdate
  cases (s.part p).upd.running with
  | false => rfl
  | true =>
    have unmarked : ((s.updUpd p fun u => { u with late := true }).part p).ex = (s.part p).ex :=
      (HubWork.updUpd s).ex
    rw [← unmarked]
    exact (State.part_lateStepIf (s.updUpd p fun u => { u with late := true }) p true).1

/-- The state after a step boundary that was due at beat `b`. -/
def State.stepBegun (s : State) (p b : Nat) : State :=
  let step := (s.stepAbandoned p).regWord ((Blk.xplan p).base + 0x20)
  let start := (s.stepAbandoned p).regD (.xplan p) 0x28
  let begun := (s.stepReady p).begin p step start
  (begun.lateStepIf p (start.toNat < b + 2 || !begun.inSync)).lateUpdate p step

theorem exec_stepBoundary_due {b : Nat} (hp : p < 8) (hpend : (s.part p).ex.stepPend = some b) (hdue : b ≤ s.beatNo) :
    exec (.stepBoundary p) s = .next (s.stepBegun p b) := by
  rw [exec_stepBoundary, execStepBoundary, needUnit_lt hp, hpend, needSome_some, need_of (decide_eq_true hdue)]
  rfl

/-- A step that begins has the registers' step and start beat, and is late as R314 and R350 say. -/
theorem State.ex_stepBegun (hp : p < 8) (s : State) (b : Nat) : ((s.stepBegun p b).part p).ex =
    ((((s.stepReady p).part p).ex.newStep (s.regWord ((Blk.xplan p).base + 0x20)) (s.regD (.xplan p) 0x28)
      (s.reg (.health p) 0)).lateIf (s.reg64 (.xplan p) 0x28 < b + 2 || !s.inSync)).lateIf (s.part p).upd.running := by
  have abandoned := State.stepView_stepAbandoned hp s
  have ready := State.stepView_stepReady hp s
  have step : (s.stepAbandoned p).regWord ((Blk.xplan p).base + 0x20) = s.regWord ((Blk.xplan p).base + 0x20) :=
    State.regWord_of_stepView abandoned (planWord_xplan hp (by decide))
  have start : (s.stepAbandoned p).regD (.xplan p) 0x28 = s.regD (.xplan p) 0x28 := by
    simp only [State.regD, State.reg64, State.reg_of_stepView abandoned (planWord_xplan hp (o := 0x28) (by decide)),
      State.reg_of_stepView abandoned (planWord_xplan hp (o := 0x28 + 4) (by decide))]
  have begun := (State.stepView_begin (s.stepReady p) p (s.regWord ((Blk.xplan p).base + 0x20))
    (s.regD (.xplan p) 0x28)).trans ready
  unfold State.stepBegun
  simp only [step, start]
  rw [State.ex_lateUpdate, (State.part_lateStepIf ..).1, (State.part_lateStepIf ..).2, State.ex_begin,
    State.inSync_of_stepView begun, State.toNat_regD, State.reg_of_stepView ready (planWord_health hp (by decide))]
  exact congrArg _ (congrArg StepView.running begun)

theorem stepBoundary_completes {b : Nat} (hp : p < 8) (hpend : (s.part p).ex.stepPend = some b)
    (hdue : b ≤ s.time.tsc.toNat / 2048) :
    Does (.stepBoundary p) s fun t => (t.part p).ex.step = s.regWord (0x4_0020 + 0x1000 * p) ∧
      (t.part p).ex.start = BitVec.ofNat 64 (s.reg64 (.xplan p) 0x28) ∧ (t.part p).ex.active = true ∧
      (t.part p).ex.decided = false ∧ (t.part p).ex.stepPend = none ∧ (t.part p).ex.gates = [] ∧
      (t.part p).ex.hups = [] ∧ (t.part p).ex.frozen = false ∧ (t.part p).ex.final = none ∧
      (t.part p).ex.beatsDone = [] ∧ (t.part p).ex.skipped = [] ∧ (t.part p).ex.got = [] ∧
      (t.part p).ex.decideOff = s.reg (.health p) 0 ∧
      (t.part p).ex.armed = (s.part p).ex.armed ∧ (t.part p).ex.plan = (s.part p).ex.plan ∧
      (t.part p).ex.localWord = (if s.reg64 (.xplan p) 0x28 < b + 2 ∨ s.inSync = false ∨ (s.part p).upd.running = true
        then 16 else 0) := by
  have ready := State.stepView_stepReady hp s
  have wasArmed : ((s.stepReady p).part p).ex.armed = (s.part p).ex.armed := congrArg StepView.armed ready
  have wasPlan : ((s.stepReady p).part p).ex.plan = (s.part p).ex.plan := congrArg StepView.plan ready
  have addr : (Blk.xplan p).base + 0x20 = 0x4_0020 + 0x1000 * p := by simp only [Blk.base]; omega
  have ex := State.ex_stepBegun hp s b
  have word := congrArg Exch.localWord ex
  have unmarked := congrArg Exch.unmarked ex
  rw [Exch.localWord_lateIf_newStep] at word
  rw [Exch.unmarked_lateIf, Exch.unmarked_lateIf, addr] at unmarked
  obtain ⟨step, start, active, decided, pend, gates, hups, frozen, final, done, skipped, got, off, armed, plan⟩ :=
    Exch.begun_of_unmarked unmarked
  refine ⟨s.stepBegun p b, exec_stepBoundary_due hp hpend hdue, step, start, active, decided, pend, gates, hups, frozen,
    final, done, skipped, got, off, armed.trans wasArmed, plan.trans wasPlan, ?_⟩
  rw [word]
  simp [or_assoc]

/-! ### XPLAN_START (R314) -/

theorem dispatches_xplan {o : Nat} {r : Reg} (hp : p < 8) (ho : o = 0 ∧ r = Reg.mixed 1 0 ∨ o = 0x2C ∧ r = Reg.rwPair true)
    (hopen : s.opens path false = true) (hreach : s.outOfReach path ((Blk.xplan p).base + o) = false) :
    s.Dispatches path ((Blk.xplan p).base + o) (.xplan p) o r := by
  have found : locate ((Blk.xplan p).base + o) = some (.xplan p, o) ∧ regAt ((Blk.xplan p).base + o) = some r ∧
      r.half ≠ 1 ∧ o % 4 = 0 := by
    rcases ho with ⟨rfl, rfl⟩ | ⟨rfl, rfl⟩
    · interval_cases p <;> decide
    · interval_cases p <;> decide
  obtain ⟨hloc, hreg, hwhole, halign⟩ := found
  refine .of_locate hopen ?_ hreach hloc hreg hwhole (State.mayWrite_of_open rfl rfl) nofun nofun ?_
  · simp only [Blk.base]; omega
  · simp only [Blk.base]; omega

/-- A register all of whose bits a write sets takes the value. -/
theorem Reg.after_of_full {r : Reg} (hrw : r.rw = ones32) (hw1c : r.w1c = 0) (old v : Word) : r.after old v = v := by
  have all : BitVec.ofNat 32 ones32 = BitVec.allOnes 32 := rfl
  have none : ~~~(BitVec.allOnes 32) = 0 := rfl
  have keepAll : ~~~(v &&& BitVec.ofNat 32 0) = BitVec.allOnes 32 := by simp
  simp only [Reg.after, hrw, hw1c, all, none, keepAll, BitVec.and_allOnes]
  simp

theorem State.regWord_putWord_full {a : Nat} {r : Reg} (hrw : r.rw = ones32) (hw1c : r.w1c = 0) (s : State)
    (low : Option Word) (v : Word) : (s.putWord a r low v).regWord a = v := by
  unfold State.putWord
  extract_lets held
  rw [if_neg fun h => absurd (hrw.symm.trans h.1) (by decide), State.regWord_setRegWord, Reg.after_of_full hrw hw1c]

@[simp] theorem State.part_taken (p : Nat) : (s.taken path).part p = s.part p := by simp [State.part]
@[simp] theorem State.part_answered (p : Nat) : (s.answered path).part p = s.part p := by simp [State.part]

@[simp] theorem State.part_putWord (s : State) (a : Nat) (r : Reg) (low : Option Word) (v : Word) (p : Nat) :
    (s.putWord a r low v).part p = s.part p := by rw [State.putWord_rest]; rfl

/-- The state after a write of the start beat's high word, which asks for a step at the next boundary. -/
def State.startAsked (s : State) (path : Path) (p a : Nat) (v : Word) : State :=
  (((s.taken path).putWord a (Reg.rwPair true) (s.heldLow path a) v).updEx p fun x =>
    { x with stepPend := some (s.beatNo + 1) }).answered path

theorem State.ex_startAsked (s : State) (path : Path) (p a : Nat) (v : Word) :
    ((s.startAsked path p a v).part p).ex = { (s.part p).ex with stepPend := some (s.beatNo + 1) } := by
  unfold State.startAsked
  rw [State.part_answered, State.part_updEx, if_pos rfl, State.part_putWord, State.part_taken]

theorem State.regWord_startAsked (s : State) (path : Path) (p a : Nat) (v : Word) :
    (s.startAsked path p a v).regWord a = v := by
  unfold State.startAsked
  rw [State.regWord_answered]
  exact State.regWord_putWord_full rfl rfl ..

theorem State.startAsked_rest (s : State) (path : Path) (p a : Nat) (v : Word) :
    (s.startAsked path p a v).mem = s.mem ∧ (s.startAsked path p a v).cores = s.cores := by
  unfold State.startAsked
  rw [State.answered_mem, State.answered_cores, State.putWord_rest]
  exact ⟨State.taken_mem, State.taken_cores⟩

theorem xplanStart_completes (hp : p < 8) (hopen : s.opens path false = true)
    (hreach : s.outOfReach path (0x4_002C + 0x1000 * p) = false) (v : Word) :
    Does (.xplanStart path p v) s fun t => (t.part p).ex.stepPend = some (s.time.tsc.toNat / 2048 + 1) ∧
      t.regWord (0x4_002C + 0x1000 * p) = v ∧ (t.part p).ex = { (s.part p).ex with stepPend := (t.part p).ex.stepPend } ∧
      t.mem = s.mem ∧ t.cores = s.cores := by
  have addr : (Blk.xplan p).base + 0x2C = 0x4_002C + 0x1000 * p := by simp only [Blk.base]; omega
  rw [← addr] at hreach ⊢
  have taken := dispatches_xplan hp (.inr ⟨rfl, rfl⟩) hopen hreach
  have ex := State.ex_startAsked s path p ((Blk.xplan p).base + 0x2C) v
  refine ⟨s.startAsked path p ((Blk.xplan p).base + 0x2C) v, ?_, congrArg Exch.stepPend ex, State.regWord_startAsked ..,
    by rw [ex], State.startAsked_rest ..⟩
  have now : (s.taken path).beatNo = s.beatNo := congrArg (fun t : Time => t.tsc.toNat / 2048) State.taken_time
  rw [exec_xplanStart, execXplanStart, needUnit_lt hp, State.pathWrite_eq taken, State.startAsked, ← now]
  rfl

/-! ### XPLAN_ARM (R319) -/

theorem bits_low (v : Word) : bits v 0 0 = (v.getLsbD 0).toNat := by
  have bit : v.getLsbD 0 = decide (v.toNat % 2 = 1) := Nat.testBit_zero _
  have low : bits v 0 0 = v.toNat % 2 := by simp [bits]
  rw [bit, low]
  rcases Nat.mod_two_eq_zero_or_one v.toNat with h | h <;> rw [h] <;> rfl

/-- The state in which ARM has been written `b` and nothing has been done for it. -/
def State.armWritten (s : State) (path : Path) (p : Nat) (b : Bool) : State := (s.taken path).setReg (.xplan p) 0 b.toNat

@[simp] theorem State.part_armWritten (s : State) (b : Bool) (q : Nat) : (s.armWritten path p b).part q = s.part q :=
  State.part_taken q

theorem State.planCount_armWritten (s : State) (b : Bool) : (s.armWritten path p b).planCount p = s.planCount p := by
  unfold State.planCount State.reg State.armWritten State.setReg
  rw [State.regWord_setRegWord_other _ _ (by omega), State.regWord_taken]

/-- A write of `XPLAN_CTRL` arms or disarms by the bit that it writes. -/
theorem State.pathWrite_xplanCtrl (hp : p < 8) (hopen : s.opens path false = true)
    (hreach : s.outOfReach path ((Blk.xplan p).base + 0) = false) (v : Word) :
    s.pathWrite path ((Blk.xplan p).base + 0) v = .next ((if v.getLsbD 0 then
      (s.armWritten path p (v.getLsbD 0)).planArm p else (s.armWritten path p (v.getLsbD 0)).planDisarm p).answered path) := by
  rw [State.pathWrite_eq (dispatches_xplan hp (.inl ⟨rfl, rfl⟩) hopen hreach), State.armWritten, ← bits_low]
  rfl

/-- A plan that fails its check is not armed and its first failing entry is recorded. -/
theorem State.planArm_bad {i : Nat} (harmed : (s.part p).ex.armed = false) (hpend : (s.part p).ex.armPend = false)
    (hfault : s.planFault p = some i) : s.planArm p =
      (s.updEx p fun x => { x with badEntry := true, entry := i }).record s.planUnit 0x0E03 0 p [(0, i)] := by
  unfold State.planArm
  rw [harmed, hpend, hfault]
  rfl

/-- The entries of the plan as they stand in memory. -/
def State.planRead (s : State) (p : Nat) : List PlanEntry :=
  (List.range (s.planCount p)).map fun i => planEntryOf (s.hubNat p (s.planBase p + BitVec.ofNat 64 (32 * i)) 32)

/-- The lists of the plan as they stand in memory. -/
def State.listsRead (s : State) (p : Nat) : List Nat :=
  (List.range (s.listCount p)).map fun i => (s.listWord p i).getD 0

/-- A plan that passes its check waits for its reserved cores. -/
theorem State.planArm_good (harmed : (s.part p).ex.armed = false) (hpend : (s.part p).ex.armPend = false)
    (hfault : s.planFault p = none) : s.planArm p = s.updEx p fun x => { x with
      badEntry := false, entry := x.recorded.head?.getD 0, armPend := true, plan := s.planRead p, lists := s.listsRead p } := by
  unfold State.planArm
  rw [harmed, hpend, hfault]
  rfl

/-- What a check of the plan leaves (R319). -/
theorem State.planArm_checked (harmed : (s.part p).ex.armed = false) (hpend : (s.part p).ex.armPend = false) :
    (s.planArm p).mem = s.mem ∧ (s.planArm p).cores = s.cores ∧ ((s.planArm p).part p).ex.armed = false ∧
      (s.planFault p = none → ((s.planArm p).part p).ex.armPend = true ∧ ((s.planArm p).part p).ex.badEntry = false ∧
        ((s.planArm p).part p).ex.plan.length = s.planCount p ∧ (s.planArm p).log = s.log) ∧
      (∀ i, s.planFault p = some i → ((s.planArm p).part p).ex.armPend = false ∧
        ((s.planArm p).part p).ex.badEntry = true ∧ ((s.planArm p).part p).ex.entry = i ∧
        ((s.planArm p).part p).ex.plan = (s.part p).ex.plan ∧
        ∃ r, (s.planArm p).log.flight = s.log.flight ++ [r] ∧ r.code = 0x0E03 ∧ r.part = p) := by
  cases hfault : s.planFault p with
  | none =>
    have ex := State.ex_updEx s p fun x => { x with
      badEntry := false, entry := x.recorded.head?.getD 0, armPend := true, plan := s.planRead p, lists := s.listsRead p }
    have read : (s.planRead p).length = s.planCount p := by simp [State.planRead]
    rw [State.planArm_good harmed hpend hfault]
    exact ⟨rfl, rfl, (congrArg Exch.armed ex).trans harmed, fun _ => ⟨congrArg Exch.armPend ex,
      congrArg Exch.badEntry ex, (congrArg (fun x : Exch => x.plan.length) ex).trans read, rfl⟩, nofun⟩
  | some i =>
    have ex := State.ex_updEx s p fun x => { x with badEntry := true, entry := i }
    rw [State.planArm_bad harmed hpend hfault]
    refine ⟨rfl, rfl, (congrArg Exch.armed ex).trans harmed, nofun, fun j hj => ?_⟩
    obtain rfl := Option.some.inj hj
    exact ⟨(congrArg Exch.armPend ex).trans hpend, congrArg Exch.badEntry ex, congrArg Exch.entry ex,
      (congrArg Exch.plan ex :), _, rfl, rfl, rfl⟩

theorem State.armWritten_rest (s : State) (path : Path) (p : Nat) (b : Bool) : (s.armWritten path p b).mem = s.mem ∧
    (s.armWritten path p b).cores = s.cores ∧ (s.armWritten path p b).log = s.log :=
  ⟨State.taken_mem, State.taken_cores, State.taken_log⟩

theorem xplanArm_completes (hp : p < 8) (hopen : s.opens path false = true) {v : Word} (harm : v.getLsbD 0 = true)
    (hreach : s.outOfReach path (0x4_0000 + 0x1000 * p) = false) (harmed : (s.part p).ex.armed = false)
    (hpend : (s.part p).ex.armPend = false) :
    Does (.xplanArm path p v) s fun t => t.mem = s.mem ∧ t.cores = s.cores ∧ (t.part p).ex.armed = false ∧
      ((s.armWritten path p true).planFault p = none → (t.part p).ex.armPend = true ∧ (t.part p).ex.badEntry = false ∧
        (t.part p).ex.plan.length = s.planCount p ∧ t.log = s.log) ∧
      (∀ i, (s.armWritten path p true).planFault p = some i → (t.part p).ex.armPend = false ∧
        (t.part p).ex.badEntry = true ∧ (t.part p).ex.entry = i ∧ (t.part p).ex.plan = (s.part p).ex.plan ∧
        ∃ r, t.log.flight = s.log.flight ++ [r] ∧ r.code = 0x0E03 ∧ r.part = p) := by
  have addr : 0x4_0000 + 0x1000 * p = (Blk.xplan p).base + 0 := rfl
  rw [addr] at hreach
  obtain ⟨mem, cores, log⟩ := State.armWritten_rest s path p true
  have checked := State.planArm_checked (s := s.armWritten path p true) (p := p) (by rw [State.part_armWritten, harmed])
    (by rw [State.part_armWritten, hpend])
  rw [mem, cores, log, State.part_armWritten, State.planCount_armWritten] at checked
  refine ⟨((s.armWritten path p true).planArm p).answered path, ?_, ?_⟩
  · rw [exec_xplanArm, execXplanArm, needUnit_lt hp, need_of harm]
    refine (State.pathWrite_xplanCtrl hp hopen hreach v).trans ?_
    rw [harm]
    rfl
  · beta_reduce
    rw [State.answered_mem, State.answered_cores, State.part_answered, State.answered_log]
    exact checked

/-! ### XPLAN_ARMED (R319) -/

theorem Tab.active_foldl_put (level : Nat × Nat → Nat) (l : List (Nat × Nat)) (t : Tab Resv) (d : Nat) :
    ((l.foldl (fun (t : Tab Resv) r => t.put r.1 ⟨true, 0, level r⟩) t).get d Resv.fresh).active =
      (decide (d ∈ l.map (·.1)) || (t.get d Resv.fresh).active) := by
  induction l generalizing t with
  | nil => simp
  | cons r l ih =>
    rw [List.foldl_cons, ih, Tab.get_put]
    by_cases hd : d = r.1
    · simp [hd]
    · simp only [hd, if_false, List.map_cons, List.mem_cons, false_or]

theorem Tab.active_mapAll_inactive (t : Tab Resv) (d : Nat) :
    ((t.mapAll fun (r : Resv) => { r with active := false }).get d Resv.fresh).active = false := by
  rw [Tab.get, Tab.find_mapAll]
  cases t.find d <;> rfl

/-- The reservations of a plan that has just been armed: those asked for are active. -/
def State.resArmed (s : State) (p : Nat) : Tab Resv :=
  (s.resWanted p).foldl (fun (t : Tab Resv) r => t.put r.1 ⟨true, 0, ((s.part p).ex.res.get r.1 Resv.fresh).level⟩)
    ((s.part p).ex.res.mapAll fun (r : Resv) => { r with active := false })

theorem State.active_resArmed (s : State) (p d : Nat) :
    ((s.resArmed p).get d Resv.fresh).active = decide (d ∈ (s.resWanted p).map (·.1)) := by
  unfold State.resArmed
  rw [Tab.active_foldl_put (fun r => ((s.part p).ex.res.get r.1 Resv.fresh).level), Tab.active_mapAll_inactive,
    Bool.or_false]

theorem xplanArmed_completes (hp : p < 8) (hpend : (s.part p).ex.armPend = true)
    (hempty : ∀ r, r ∈ s.resWanted p → (s.core (160 * r.1 + r.2)).blocks = []) :
    Does (.xplanArmed p) s fun t => (t.part p).ex.armed = true ∧ (t.part p).ex.armPend = false ∧
      (t.part p).ex.plan = (s.part p).ex.plan ∧
      (∀ d, ((t.part p).ex.res.get d Resv.fresh).active = decide (d ∈ (s.resWanted p).map (·.1))) ∧
      t = { s with parts := t.parts } ∧ ∀ q, q ≠ p → t.part q = s.part q := by
  have part := fun q => State.part_updEx s p q fun x => { x with armPend := false, armed := true, res := s.resArmed p }
  have ex := State.ex_updEx s p fun x => { x with armPend := false, armed := true, res := s.resArmed p }
  refine ⟨s.updEx p fun x => { x with armPend := false, armed := true, res := s.resArmed p }, ?_, congrArg Exch.armed ex,
    congrArg Exch.armPend ex, (congrArg Exch.plan ex :), fun d => ?_, rfl, fun q hq => (part q).trans (if_neg hq)⟩
  · rw [exec_xplanArmed, execXplanArmed, needUnit_lt hp, need_of hpend,
      need_of (by simpa [List.all_eq_true] using fun a b h => hempty (a, b) h)]
    rfl
  · rw [← State.active_resArmed]
    exact congrArg (fun x : Exch => (x.res.get d Resv.fresh).active) ex

/-! ### XPLAN_DISARM (R314, R319) -/

/-- A step without its plan (R319). -/
def Exch.disarmed (x : Exch) : Exch := { x with
  armed := false, armPend := false, plan := [], lists := [], active := false
  res := x.res.mapAll fun (r : Resv) => { r with active := false } }

theorem HubWork.planDisarm (hp : p < 8) (s : State) : HubWork p (s.updEx p Exch.disarmed) (s.planDisarm p) := by
  unfold State.planDisarm
  extract_lets x disarmed
  split
  · exact HubWork.updAbandon hp _ _
  · exact HubWork.refl p _

theorem State.activeRes_of_unarmed (h : (s.part p).ex.armed = false) : s.activeRes p = [] := by simp [State.activeRes, h]

theorem xplanDisarm_completes (hp : p < 8) (hopen : s.opens path false = true) {v : Word} (harm : v.getLsbD 0 = false)
    (hreach : s.outOfReach path (0x4_0000 + 0x1000 * p) = false) :
    Does (.xplanDisarm path p v) s fun t => (t.part p).ex.armed = false ∧ (t.part p).ex.armPend = false ∧
      (t.part p).ex.active = false ∧ (t.part p).ex.plan = [] ∧ t.activeRes p = [] ∧
      t.reg (.xplan p) 0 = 0 ∧ t.cores = s.cores := by
  have addr : 0x4_0000 + 0x1000 * p = (Blk.xplan p).base + 0 := rfl
  rw [addr] at hreach
  obtain ⟨-, cores, -⟩ := State.armWritten_rest s path p false
  have work := HubWork.planDisarm hp (s.armWritten path p false)
  have ex := work.ex.trans (State.ex_updEx _ p Exch.disarmed)
  have armed : (((s.armWritten path p false).planDisarm p).part p).ex.armed = false := congrArg Exch.armed ex
  refine ⟨((s.armWritten path p false).planDisarm p).answered path, ?_, ?_⟩
  · rw [exec_xplanDisarm, execXplanDisarm, needUnit_lt hp, need_of (by rw [harm]; rfl)]
    refine (State.pathWrite_xplanCtrl hp hopen hreach v).trans ?_
    rw [harm]
    rfl
  · have inactive := State.activeRes_of_unarmed (s := ((s.armWritten path p false).planDisarm p).answered path) (p := p)
      (by rw [State.part_answered, armed])
    beta_reduce
    rw [State.part_answered, State.reg_answered, State.answered_cores]
    refine ⟨armed, congrArg Exch.armPend ex, congrArg Exch.active ex, congrArg Exch.plan ex, inactive, ?_, ?_⟩
    · exact (congrArg BitVec.toNat (work.regs _ (planWord_xplan hp (by decide)))).trans
        (congrArg BitVec.toNat (State.regWord_setRegWord ..))
    · rw [work.rest]
      exact cores

/-- Settles O50: the write of the high word asks for the step; the boundary begins it with what the work before it leaves
alone; ARM checks the plan, which its empty cores arm and a write of 0 drops. -/
theorem stepsAndPlansComplete : Obligations.StepsAndPlansComplete := by
  refine ⟨?_, ?_, ?_, ?_, ?_⟩
  · intro path p v s hp hopen hreach
    exact xplanStart_completes hp hopen hreach v
  · intro p b s hp hpend hdue
    exact stepBoundary_completes hp hpend hdue
  · intro path p v s hp hopen harm hreach harmed hpend
    obtain ⟨t, hexec, mem, cores, armed, good, bad⟩ := xplanArm_completes hp hopen harm hreach harmed hpend
    refine ⟨t, hexec, mem, cores, armed, ?_⟩
    split
    · rename_i hfault
      exact good hfault
    · rename_i i hfault
      exact bad i hfault
  · intro p s hp hpend hempty
    exact xplanArmed_completes hp hpend hempty
  · intro path p v s hp hopen harm hreach
    exact xplanDisarm_completes hp hopen harm hreach

end Sys2Proof.Machine
end

section
/-! ## How a program fault ends a block (R59, R60, R232, R233) -/
namespace Sys2Proof.Machine

variable {s t : State} {c b : Nat} {k : Block} {x : Iss}

/-- The record of a program fault of a block (R60). -/
def State.faultRec (s : State) (k : Block) (gidx code : Nat) (extra : List (Nat × Nat)) : Rec :=
  ⟨s.time.tsc, s.source k.desc.home, code, 0, k.desc.part, false, false, payload (k.faultFields gidx ++ extra)⟩

/-- What a block that stops holds from then on (R59). -/
def Block.stopping (k : Block) : Block := { k with
  st := .stopping, wset := [], mgmt := [], phase := .run, trig := none, atom := none, wds := [], pend := none, pstamp := 0,
  cstamp := 0 }

theorem State.block_stopBlock (hb : s.block c b = some k) (free : Bool) :
    (s.stopBlock c b free).block c b = some k.stopping := by
  unfold State.stopBlock
  rw [hb]
  simp only [State.block, State.updCore_eq, State.setBlock_eq, State.core_setCore, Tab.find_put_same]
  rfl

theorem State.core_stopBlock_other {d : Nat} (h : d ≠ c) (free : Bool) : (s.stopBlock c b free).core d = s.core d := by
  unfold State.stopBlock
  split
  · rfl
  · rw [State.updCore_eq, State.core_setCore_other _ _ h]
    exact State.core_setCore_other _ _ h

theorem State.stopBlock_rest (s : State) (c b : Nat) (free : Bool) :
    s.stopBlock c b free = { s with cores := (s.stopBlock c b free).cores } := by
  unfold State.stopBlock
  split <;> rfl

theorem State.part_grantFault (p uid code : Nat) : (s.grantFault p uid code).part p =
    { s.part p with grants := (s.part p).grants.map fun g =>
      if g.uid = uid ∧ g.fault = none then { g with fault := some code } else g } := by
  simp [State.grantFault]

/-- The end of a block on a program fault: its record is on its way, the block has stopped, its grant has taken the code, and
nothing else has changed but in its core. -/
structure FaultEnds (c b : Nat) (k : Block) (gidx code : Nat) (extra : List (Nat × Nat)) (s t : State) : Prop where
  block : t.block c b = some k.stopping
  record : t.log.flight = s.log.flight ++ [s.faultRec k gidx code extra]
  grant : (t.part k.desc.part).grants = (s.part k.desc.part).grants.map fun g =>
    if g.uid = k.desc.uid ∧ g.fault = none then { g with fault := some code } else g
  cores : ∀ d, d ≠ c → t.core d = s.core d
  rest : t = { s with cores := t.cores, parts := t.parts, log := t.log }

theorem State.progFault_ends (hb : s.block c b = some k) (gidx code : Nat) (extra : List (Nat × Nat)) :
    FaultEnds c b k gidx code extra s (s.progFault c b gidx code extra) := by
  have hrec : (s.record k.desc.home code 0 k.part (k.faultFields gidx ++ extra)).block c b = some k := hb
  have rest := State.stopBlock_rest (s.record k.desc.home code 0 k.part (k.faultFields gidx ++ extra)) c b true
  have ends : s.progFault c b gidx code extra =
      ((s.record k.desc.home code 0 k.part (k.faultFields gidx ++ extra)).stopBlock c b true).grantFault
        k.desc.part k.desc.uid code := by
    simp only [State.progFault, hb, State.endBlock, hrec]
    rfl
  rw [ends]
  refine ⟨State.block_stopBlock hrec true, ?_, ?_, fun d hd => State.core_stopBlock_other hd true, ?_⟩
  · rw [rest]
    rfl
  · rw [State.part_grantFault, rest]
    rfl
  · rw [rest]
    rfl

/-- A program fault of the issuing block, raised in a state that differs by register words alone, other than the package's
number. -/
theorem FaultEnds.faulted {u : State} {code : Nat} {extra : List (Nat × Nat)} (hu : u = { s with regs := u.regs })
    (hpkg : u.pkgIdNat = s.pkgIdNat) (h : FaultEnds x.core x.bslot x.blk x.grp.gidx code extra u t) :
    Faulted x code extra s t := by
  have sameRec : u.faultRec x.blk x.grp.gidx code extra = s.faultRec x.blk x.grp.gidx code extra := by
    simp only [State.faultRec, State.source, hpkg]
    rw [hu]
  obtain ⟨block, record, grant, cores, rest⟩ := h
  rw [sameRec] at record
  refine ⟨⟨_, block, rfl, rfl, rfl, rfl⟩, ?_, ?_, ?_, ?_⟩
  · rw [record, hu]
    rfl
  · rw [grant, hu]
    rfl
  · intro d hd
    rw [cores d hd, hu]
    rfl
  · rw [rest, hu]

theorem Iss.At.faulted (h : x.At s) (code : Nat) (extra : List (Nat × Nat)) :
    Faulted x code extra s (x.fault s code extra) :=
  (State.progFault_ends h.block x.grp.gidx code extra).faulted rfl rfl

/-! ### The capture of a fault's address (R233) -/

theorem State.captureFault_rest (s : State) (c th code : Nat) (a : DWord) :
    s.captureFault c th code a = { s with regs := (s.captureFault c th code a).regs } := by
  unfold State.captureFault
  dsimp only
  split <;> rfl

theorem State.regWord_captureFault (s : State) (c th code : Nat) (a : DWord) {n : Nat} (hn : n < 0x0200_0000) :
    (s.captureFault c th code a).regWord n = s.regWord n := by
  unfold State.captureFault
  dsimp only
  split
  · rfl
  · simp only [State.setReg64, State.setReg, Blk.base]
    rw [State.regWord_setRegWord_other _ _ (by omega), State.regWord_setRegWord_other _ _ (by omega),
      State.regWord_setRegWord_other _ _ (by omega)]

theorem State.pkgIdNat_captureFault (s : State) (c th code : Nat) (a : DWord) :
    (s.captureFault c th code a).pkgIdNat = s.pkgIdNat :=
  congrArg (fun w => bits w 13 0) (State.regWord_captureFault s c th code a (by decide : 0x10 < 0x0200_0000))

/-- A core that holds no capture takes the thread, the code and the address. -/
theorem State.captureFault_captures {th code : Nat} (hfree : s.reg (.core c 7) 4 / 2 ^ 31 = 0)
    (hfits : th * 2 ^ 16 + code < 2 ^ 31) (a : DWord) :
    (s.captureFault c th code a).reg (.core c 7) 4 = 2 ^ 31 + th * 2 ^ 16 + code ∧
      (s.captureFault c th code a).reg64 (.core c 7) 8 = a.toNat := by
  have captured : s.captureFault c th code a =
      (s.setReg (.core c 7) 4 (2 ^ 31 + th * 2 ^ 16 + code)).setReg64 (.core c 7) 8 a.toNat := by
    simp only [State.captureFault, hfree]
    rfl
  rw [captured]
  refine ⟨?_, State.reg64_setReg64 _ _ _ a.isLt⟩
  simp only [State.setReg64, State.setReg, State.reg]
  rw [State.regWord_setRegWord_other _ _ (by omega), State.regWord_setRegWord_other _ _ (by omega),
    State.regWord_setRegWord, BitVec.toNat_ofNat, Nat.mod_eq_of_lt (by omega)]

/-- A program fault whose address the core captures first. -/
theorem Iss.At.faulted_captured (h : x.At s) (th cap : Nat) (a : DWord) (code : Nat) (extra : List (Nat × Nat)) :
    Faulted x code extra s (x.fault (s.captureFault x.core th cap a) code extra) := by
  have rest := State.captureFault_rest s x.core th cap a
  have block : (s.captureFault x.core th cap a).block x.core x.bslot = some x.blk := by
    rw [rest]
    exact h.block
  exact (State.progFault_ends block x.grp.gidx code extra).faulted rest (State.pkgIdNat_captureFault ..)

end Sys2Proof.Machine
end

section
/-! ## Control instructions: a branch of a path (R72, R88) -/
namespace Sys2Proof.Machine

variable {s t : State} {x : Iss}

theorem nop_completes : Completes .nop shNop fun x => ScalarDone x [] x.grp.sreg :=
  fun i o _ x h => ⟨_, by rw [exec_nop, execNop, issueRow_of_issues h],
    Iss.commit_scalar (State.issues_at h) [] x.grp rfl rfl⟩

theorem Iss.branch_thread (x : Iss) (g : Group) (goal : DWord) (u : Nat) : (x.branch g goal).thread u =
    if u ∈ x.path then { g.thread u with pc := if x.acting.contains u then goal else x.next } else g.thread u :=
  (Group.foldl_setPc x.path g fun u => if x.acting.contains u then goal else x.next).1 u

theorem Iss.branch_sreg (x : Iss) (g : Group) (goal : DWord) (r : Nat) : (x.branch g goal).sreg r = g.sreg r := by
  have rest := (Group.foldl_setPc x.path g fun u => if x.acting.contains u then goal else x.next).2
  unfold Iss.branch Group.account Group.sreg
  dsimp only
  rw [rest]

/-- Threads that act are of the path. -/
theorem Iss.path_of_acting {u : Nat} (h : u ∈ x.acting) : u ∈ x.path := (List.mem_filter.mp h).1

/-- A path with the s registers of its group as the instruction leaves them branches. -/
theorem Iss.branch_done (hat : x.At s) (goal : DWord) (g : Group) (hg : g.threads = x.grp.threads) :
    BranchDone x goal g.sreg s (s.setGroup x.core x.gslot (x.branch g goal)) := by
  have before : ∀ u, g.thread u = x.grp.thread u := fun u => by rw [Group.thread, hg, Group.thread]
  refine ⟨⟨x.branch g goal, ?_, Iss.branch_sreg x g goal, fun u => ?_, fun u => ?_⟩, ?_, OnlyGroup.setGroup _⟩
  · rw [State.group_setGroup, if_pos rfl]
  · rw [Iss.branch_thread, before]
    by_cases hact : u ∈ x.acting
    · simp [hact, Iss.path_of_acting hact]
    · by_cases hpath : u ∈ x.path <;> simp [hact, hpath]
  · rw [Iss.branch_thread, before]
    split <;> exact Thread.same_refl _
  · rw [State.block_setGroup]
    exact hat.block

theorem bra_completes : Completes .bra shBra fun x =>
    BranchDone x (x.pc + BitVec.ofInt 64 (8 * toSigned 32 (x.f 45 14))) x.grp.sreg :=
  fun i o _ x h => ⟨_, by rw [exec_bra, execBra, issueRow_of_issues h],
    Iss.branch_done (State.issues_at h) x.target x.grp rfl⟩

/-- A jmp that takes no thread to a misaligned target. -/
theorem jmp_completes {i : Issue} {o : State} (h : o.issues i shJmp x s)
    (hgood : x.acting = [] ∨ (x.grp.sreg (x.f 45 40)).toNat % 8 = 0) :
    ∃ t, exec (.jmp i) o = .next t ∧ BranchDone x (x.grp.sreg (x.f 45 40)) x.grp.sreg s t := by
  have taken : (!x.acting.isEmpty && (x.grp.sreg (x.f 45 40)).toNat % 8 != 0) = false := by
    rcases hgood with hnone | halign
    · simp [hnone]
    · simp [halign]
  refine ⟨_, ?_, Iss.branch_done (State.issues_at h) (x.grp.sreg (x.f 45 40)) x.grp rfl⟩
  rw [exec_jmp, execJmp, issueRow_of_issues h]
  dsimp only
  rw [taken]
  rfl

/-- The group with s[LINK] written where a thread acts. -/
theorem Iss.sreg_linked (x : Iss) : (if x.acting.isEmpty then x.grp else x.grp.setSreg (x.f 13 8) x.next).sreg =
    fun r => if x.acting ≠ [] ∧ r = x.f 13 8 then x.next else x.grp.sreg r := by
  funext r
  by_cases hnone : x.acting = []
  · simp [hnone]
  · simp [hnone, Group.sreg, Group.setSreg, Tab.get_put]

theorem call_completes : Completes .call shCall fun x =>
    BranchDone x (x.pc + BitVec.ofInt 64 (8 * toSigned 32 (x.f 45 14)))
      fun r => if x.acting ≠ [] ∧ r = x.f 13 8 then x.next else x.grp.sreg r := by
  intro i o s x h
  beta_reduce
  rw [← Iss.sreg_linked]
  exact ⟨_, by rw [exec_call, execCall, issueRow_of_issues h],
    Iss.branch_done (State.issues_at h) x.target _ (by split <;> rfl)⟩

end Sys2Proof.Machine
end

section
/-! ## Barriers: what an attempt to complete them leaves alone, and which it completes (R53 to R55) -/
namespace Sys2Proof.Machine

variable {s t u : State} {x : Iss} {c q slot id : Nat} {k : Group} {b : Block}

/-! ### Frames -/

/-- Barriers of a core may have completed: outside its groups and blocks nothing has changed, and a group keeps all but its
threads' waits and addresses. -/
structure BarsTried (c : Nat) (s t : State) : Prop where
  rest : t = { s with cores := t.cores }
  cores : ∀ d, d ≠ c → t.core d = s.core d
  groups : ∀ n k, s.group c n = some k → ∃ k', t.group c n = some k' ∧ k' = { k with threads := k'.threads } ∧
    ∀ th, (k'.thread th).kept (k.thread th)

theorem Thread.kept_refl (a : Thread) : a.kept a := ⟨fun _ => rfl, rfl, rfl, rfl⟩

theorem Thread.kept.trans {a b d : Thread} (h : b.kept a) (l : d.kept b) : d.kept a := by
  obtain ⟨hreg, hpreds, hflags, hexit⟩ := h
  obtain ⟨lreg, lpreds, lflags, lexit⟩ := l
  exact ⟨fun r => (lreg r).trans (hreg r), lpreds.trans hpreds, lflags.trans hflags, lexit.trans hexit⟩

theorem BarsTried.refl (c : Nat) (s : State) : BarsTried c s s :=
  ⟨rfl, fun _ _ => rfl, fun _ k h => ⟨k, h, rfl, fun _ => Thread.kept_refl _⟩⟩

theorem BarsTried.trans (h : BarsTried c s t) (l : BarsTried c t u) : BarsTried c s u := by
  refine ⟨by rw [l.rest, h.rest], fun d hd => (l.cores d hd).trans (h.cores d hd), fun n k hk => ?_⟩
  obtain ⟨k', hk', hrest, hkept⟩ := h.groups n k hk
  obtain ⟨k'', hk'', lrest, lkept⟩ := l.groups n k' hk'
  exact ⟨k'', hk'', by rw [lrest, hrest], fun th => (hkept th).trans (lkept th)⟩

theorem BarsTried.onlyCore (h : BarsTried c s t) : OnlyCore c [] s t := by
  obtain ⟨hrest, hcores, -⟩ := h
  refine ⟨?_, hcores, fun a _ => ?_, ?_⟩
  · rw [hrest]
  · rw [hrest]
    rfl
  · rw [hrest]
    exact s.recordsAdded_refl

theorem BarsTried.updBlock (f : Block → Block) : BarsTried c s (s.updBlock c slot f) :=
  ⟨rfl, fun _ hd => State.core_setCore_other s _ hd,
    fun _ k hk => ⟨k, (State.group_updBlock ..).trans hk, rfl, fun _ => Thread.kept_refl _⟩⟩

/-- A wait that ends leaves all of a thread but its wait and its address. -/
theorem Group.thread_resume (g : Group) {w : Wait} (hw : w ≠ .none) (th : Nat) : (g.resume w).thread th =
    if (g.thread th).exited = false ∧ (g.thread th).wait = w then { g.thread th with wait := .none, pc := (g.thread th).pc + 8 }
    else g.thread th := by
  rcases hth : g.threads[th]? with _ | a
  · have fresh : g.thread th = Thread.fresh 0 := by simp [Group.thread, List.getD, hth]
    have fresh' : (g.resume w).thread th = Thread.fresh 0 := by simp [Group.thread, Group.resume, List.getD, hth]
    rw [fresh, fresh', if_neg (fun h => hw h.2.symm)]
  · rw [Group.thread_eq_of_getElem? hth]
    have woken : (g.resume w).threads[th]? =
        some (if !a.exited && a.wait == w then { a with wait := .none, pc := a.pc + 8 } else a) := by
      simp [Group.resume, hth]
    rw [Group.thread_eq_of_getElem? woken]
    simp

theorem Group.resume_kept (g : Group) {w : Wait} (hw : w ≠ .none) (th : Nat) :
    ((g.resume w).thread th).kept (g.thread th) := by
  rw [Group.thread_resume g hw]
  split <;> exact Thread.kept_refl _

theorem Group.alive_congr {g k : Group} (h : ∀ th, (g.thread th).exited = (k.thread th).exited) : g.alive = k.alive := by
  simp [Group.alive, h]

theorem Group.alive_resume (g : Group) {w : Wait} (hw : w ≠ .none) : (g.resume w).alive = g.alive :=
  Group.alive_congr fun th => (g.resume_kept hw th).2.2.2

theorem Group.exited_of_alive {th : Nat} (h : th ∈ k.alive) : (k.thread th).exited = false := by
  simpa using (List.mem_filter.mp h).2

theorem BarsTried.setGroup_resume {w : Wait} (hw : w ≠ .none) (hk : s.group c q = some k) :
    BarsTried c s (s.setGroup c q (k.resume w)) := by
  refine ⟨rfl, fun _ hd => State.core_setCore_other s _ hd, fun n l hl => ?_⟩
  rw [State.group_setGroup]
  split
  · rename_i hn
    obtain rfl : k = l := Option.some.inj (hk.symm.trans (hn ▸ hl))
    exact ⟨_, rfl, rfl, k.resume_kept hw⟩
  · exact ⟨l, hl, rfl, fun _ => Thread.kept_refl _⟩

theorem State.tryBarG_tried (s : State) (c q id : Nat) : BarsTried c s (s.tryBarG c q id) := by
  unfold State.tryBarG
  split
  · exact BarsTried.refl c s
  · rename_i k hk
    split
    · exact (BarsTried.setGroup_resume (w := .barG id) (by simp) hk).trans (BarsTried.updBlock _)
    · exact BarsTried.refl c s

/-- The threads of some groups, each with what a state held of it, that wait at a barrier go on (R55). -/
def State.resumeAll (s : State) (c : Nat) (l : List (Nat × Group)) (w : Wait) : State :=
  l.foldl (fun s e => s.setGroup c e.1 (e.2.resume w)) s

theorem State.group_resumeAll {l : List (Nat × Group)} (hl : ∀ e ∈ l, s.group c e.1 = some e.2) (w : Wait) (t : State)
    (n : Nat) : (t.resumeAll c l w).group c n =
      if n ∈ l.map (·.1) then (s.group c n).map fun k => k.resume w else t.group c n := by
  unfold State.resumeAll
  induction l generalizing t with
  | nil => simp
  | cons e l ih =>
    rw [List.foldl_cons, ih (fun d hd => hl d (List.mem_cons_of_mem _ hd)), State.group_setGroup]
    by_cases hn : n = e.1
    · simp [hn, hl e List.mem_cons_self]
    · simp only [hn, if_false, List.map_cons, List.mem_cons, false_or]

theorem State.resumeAll_rest (l : List (Nat × Group)) (w : Wait) (s : State) (c : Nat) :
    s.resumeAll c l w = { s with cores := (s.resumeAll c l w).cores } ∧
      ∀ d, d ≠ c → (s.resumeAll c l w).core d = s.core d := by
  unfold State.resumeAll
  induction l generalizing s with
  | nil => exact ⟨rfl, fun _ _ => rfl⟩
  | cons e l ih =>
    obtain ⟨hrest, hcores⟩ := ih (s.setGroup c e.1 (e.2.resume w))
    exact ⟨hrest, fun d hd => (hcores d hd).trans (State.core_setCore_other s _ hd)⟩

/-- A group of a block is a group of its core. -/
theorem State.mem_blockGroups {e : Nat × Group} : e ∈ s.blockGroups c b ↔ e.1 ∈ b.gslots ∧ s.group c e.1 = some e.2 := by
  obtain ⟨n, k⟩ := e
  simp only [State.blockGroups, List.mem_filterMap, Option.map_eq_some_iff, Prod.mk.injEq]
  constructor
  · rintro ⟨m, hm, l, hl, rfl, rfl⟩
    exact ⟨hm, hl⟩
  · rintro ⟨hn, hk⟩
    exact ⟨n, hn, k, hk, rfl, rfl⟩

/-- The groups of a block that have not ended. -/
def State.liveGroups (s : State) (c : Nat) (b : Block) : List (Nat × Group) :=
  (s.blockGroups c b).filter fun e => !e.2.ended

theorem State.mem_liveGroups {e : Nat × Group} :
    e ∈ s.liveGroups c b ↔ e.1 ∈ b.gslots ∧ s.group c e.1 = some e.2 ∧ e.2.ended = false := by
  simp [State.liveGroups, State.mem_blockGroups, and_assoc]

/-- Every group of a block that has not ended waits at a bar.b and has no access under way. -/
def State.allArrived (s : State) (c : Nat) (b : Block) (id : Nat) : Bool :=
  !(s.liveGroups c b).isEmpty &&
    (s.liveGroups c b).all fun e => e.2.allWait (.barB id) && !s.groupBusy c e.1

/-- What completing a bar.b does: the block's live groups go on, and its watchdog is gone. -/
def State.completeBarB (s : State) (c slot id : Nat) (b : Block) : State :=
  (s.resumeAll c (s.liveGroups c b) (.barB id)).updBlock c slot fun b =>
    { b with wds := b.wds.filter fun w => w.key != .barB slot id }

theorem State.tryBarB_eq (hb : s.block c slot = some b) (id : Nat) :
    s.tryBarB c slot id = if s.allArrived c b id then s.completeBarB c slot id b else s := by
  unfold State.tryBarB
  rw [hb]
  rfl

theorem State.group_completeBarB (n : Nat) : (s.completeBarB c slot id b).group c n =
    if n ∈ (s.liveGroups c b).map (·.1) then (s.group c n).map fun k => k.resume (.barB id) else s.group c n := by
  rw [State.completeBarB, State.group_updBlock]
  exact State.group_resumeAll (fun e he => (State.mem_liveGroups.mp he).2.1) _ s n

theorem State.tryBarB_tried (s : State) (c slot id : Nat) : BarsTried c s (s.tryBarB c slot id) := by
  cases hb : s.block c slot with
  | none =>
    unfold State.tryBarB
    rw [hb]
    exact BarsTried.refl c s
  | some b =>
    rw [State.tryBarB_eq hb]
    split
    · obtain ⟨hrest, hcores⟩ := State.resumeAll_rest (s.liveGroups c b) (.barB id) s c
      refine BarsTried.trans ⟨hrest, hcores, fun n k hk => ?_⟩ (BarsTried.updBlock _)
      rw [State.group_resumeAll (fun e he => (State.mem_liveGroups.mp he).2.1), hk]
      split
      · exact ⟨_, rfl, rfl, k.resume_kept (by simp)⟩
      · exact ⟨k, rfl, rfl, fun _ => Thread.kept_refl _⟩
    · exact BarsTried.refl c s

theorem BarsTried.foldl {f : State → Nat → State} (h : ∀ s n, BarsTried c s (f s n)) (l : List Nat) (s : State) :
    BarsTried c s (l.foldl f s) := by
  induction l generalizing s with
  | nil => exact BarsTried.refl c s
  | cons n l ih => exact (h s n).trans (ih _)

theorem State.tryBarriers_tried (s : State) (c q slot : Nat) : BarsTried c s (s.tryBarriers c q slot) :=
  (BarsTried.foldl (fun s n => s.tryBarG_tried c q n) _ s).trans (BarsTried.foldl (fun s n => s.tryBarB_tried c slot n) _ _)

/-! ### Exit (R46, R53) -/

/-- The group of a path whose acting threads have exited. -/
def Iss.exitGroup (x : Iss) : Group :=
  (x.path.foldl (fun k u => k.updThread u fun th =>
    if x.acting.contains u then { th with exited := true } else { th with pc := x.next }) x.grp).account x.grp x.pc x.next

theorem Iss.exitGroup_thread (hn : x.path.Nodup) (u : Nat) : x.exitGroup.thread u = if u ∈ x.path then
    (if x.acting.contains u then { x.grp.thread u with exited := true } else { x.grp.thread u with pc := x.next })
    else x.grp.thread u :=
  (Group.foldl_updThread x.path hn (fun u th =>
    if x.acting.contains u then { th with exited := true } else { th with pc := x.next }) x.grp).1 u

theorem Iss.exitGroup_sreg (hn : x.path.Nodup) (r : Nat) : x.exitGroup.sreg r = x.grp.sreg r := by
  have rest := (Group.foldl_updThread x.path hn (fun u th =>
    if x.acting.contains u then { th with exited := true } else { th with pc := x.next }) x.grp).2
  unfold Iss.exitGroup Group.account Group.sreg
  dsimp only
  rw [rest]

/-- The state in which an exit tries the barriers: the group's sets are free where it has ended (R122). -/
def Iss.exited (x : Iss) (s : State) : State :=
  if x.exitGroup.ended then (s.setGroup x.core x.gslot x.exitGroup).releaseSets x.core x.gslot
  else s.setGroup x.core x.gslot x.exitGroup

theorem Iss.group_exited (x : Iss) (s : State) : (x.exited s).group x.core x.gslot = some x.exitGroup := by
  have left : (s.setGroup x.core x.gslot x.exitGroup).group x.core x.gslot = some x.exitGroup := by
    rw [State.group_setGroup, if_pos rfl]
  unfold Iss.exited
  split
  · rw [← left]
    simp [State.group, State.releaseSets]
  · exact left

theorem Iss.exited_onlyCore (x : Iss) (s : State) : OnlyCore x.core [] s (x.exited s) := by
  unfold Iss.exited
  split
  · exact (OnlyCore.setCore x.core _).trans (OnlyCore.setCore x.core _)
  · exact OnlyCore.setCore x.core _

theorem State.issues_nodup {o : State} {i : Issue} {sh : Shape} (h : o.issues i sh x s) : x.path.Nodup :=
  State.issuing_path_nodup h.1.1

theorem exit_completes : Completes .exit shExit fun x s t => ∃ g, t.group x.core x.gslot = some g ∧
    (∀ th, (g.thread th).exited = (x.acting.contains th || (x.grp.thread th).exited)) ∧
    (∀ th, (∀ r, (g.thread th).reg r = (x.grp.thread th).reg r) ∧ (g.thread th).preds = (x.grp.thread th).preds ∧
      (g.thread th).flags = (x.grp.thread th).flags) ∧
    (∀ r, g.sreg r = x.grp.sreg r) ∧ OnlyCore x.core [] s t := by
  intro i o s x h
  have hn := State.issues_nodup h
  have tried := State.tryBarriers_tried (x.exited s) x.core x.gslot x.bslot
  obtain ⟨g, hg, hrest, hkept⟩ := tried.groups _ _ (x.group_exited s)
  refine ⟨_, by rw [exec_exit, execExit, issueRow_of_issues h]; rfl, g, hg, fun th => ?_, fun th => ?_, fun r => ?_,
    (x.exited_onlyCore s).trans tried.onlyCore⟩
  · rw [(hkept th).2.2.2, Iss.exitGroup_thread hn]
    by_cases hact : th ∈ x.acting
    · simp [hact, Iss.path_of_acting hact]
    · by_cases hpath : th ∈ x.path <;> simp [hact, hpath]
  · obtain ⟨hreg, hpreds, hflags, -⟩ := hkept th
    have same : (∀ r, (x.exitGroup.thread th).reg r = (x.grp.thread th).reg r) ∧
        (x.exitGroup.thread th).preds = (x.grp.thread th).preds ∧
        (x.exitGroup.thread th).flags = (x.grp.thread th).flags := by
      rw [Iss.exitGroup_thread hn]
      split
      · split <;> exact ⟨fun _ => rfl, rfl, rfl⟩
      · exact ⟨fun _ => rfl, rfl, rfl⟩
    exact ⟨fun r => (hreg r).trans (same.1 r), hpreds.trans same.2.1, hflags.trans same.2.2⟩
  · rw [hrest]
    exact Iss.exitGroup_sreg hn r

/-- Settles O23: a branch sets the addresses of the path alone, and the barriers that an exit may complete keep what the
threads have left. -/
theorem controlInstructionsComplete : Obligations.ControlInstructionsComplete :=
  ⟨nop_completes, bra_completes, fun _ _ _ _ h hgood => jmp_completes h hgood, call_completes, exit_completes⟩

end Sys2Proof.Machine
end

section
/-! ## Arrival at a barrier (R53 to R56) and the precise faults (R59, R87, R88, R93, R141) -/
namespace Sys2Proof.Machine

variable {s t u : State} {x : Iss} {i : Issue} {o : State} {c q slot id : Nat} {k : Group} {b : Block}

/-! ### An arrival -/

/-- The group of a path that waits. -/
def Iss.waiting (x : Iss) (w : Wait) : Group :=
  (x.path.foldl (fun g t => g.updThread t fun th => { th with wait := w }) x.grp).account x.grp x.pc x.pc

theorem Iss.waiting_thread (hn : x.path.Nodup) (w : Wait) (th : Nat) : (x.waiting w).thread th =
    if th ∈ x.path then { x.grp.thread th with wait := w } else x.grp.thread th :=
  (Group.foldl_updThread x.path hn (fun _ th => { th with wait := w }) x.grp).1 th

theorem Iss.waiting_kept (hn : x.path.Nodup) (w : Wait) (th : Nat) : ((x.waiting w).thread th).kept (x.grp.thread th) := by
  rw [Iss.waiting_thread hn]
  split <;> exact Thread.kept_refl _

theorem Iss.alive_waiting (hn : x.path.Nodup) (w : Wait) : (x.waiting w).alive = x.grp.alive :=
  Group.alive_congr fun th => (Iss.waiting_kept hn w th).2.2.2

/-- The state in which a path waits at a barrier, whose watchdog runs (R57). -/
def Iss.arrived (x : Iss) (s : State) (w : Wait) (key : WdKey) : State :=
  (s.setGroup x.core x.gslot (x.waiting w)).updBlock x.core x.bslot fun b => b.arm key x.gslot

theorem Iss.group_arrived (x : Iss) (s : State) (w : Wait) (key : WdKey) (n : Nat) :
    (x.arrived s w key).group x.core n = if n = x.gslot then some (x.waiting w) else s.group x.core n := by
  rw [Iss.arrived, State.group_updBlock, State.group_setGroup]

theorem Block.arm_rest (b : Block) (key : WdKey) (n : Nat) : b.arm key n = { b with wds := (b.arm key n).wds } := by
  unfold Block.arm
  split <;> rfl

theorem Iss.At.block_arrived (h : x.At s) (w : Wait) (key : WdKey) :
    (x.arrived s w key).block x.core x.bslot = some (x.blk.arm key x.gslot) := by
  rw [Iss.arrived, State.block_updBlock, if_pos rfl, State.block_setGroup, h.block]
  rfl

theorem Iss.arrived_onlyCore (x : Iss) (s : State) (w : Wait) (key : WdKey) : OnlyCore x.core [] s (x.arrived s w key) :=
  (OnlyCore.setCore x.core _).trans (OnlyCore.setCore x.core _)

/-- No thread of the group waits at another barrier: the path waits, and the barriers are tried. -/
theorem Iss.arrive_matching {w : Wait} (key : WdKey)
    (h : ∀ th, th ∈ x.grp.alive → (x.grp.thread th).wait.barrier = none ∨ (x.grp.thread th).wait = w) (s : State) :
    x.arrive s w key = (x.arrived s w key).tryBarriers x.core x.gslot x.bslot := by
  have none_other : (x.grp.alive.filterMap fun t => (x.grp.thread t).wait.barrier).find? (fun o => some o != w.barrier) =
      none := by
    rw [List.find?_eq_none]
    intro e he
    obtain ⟨th, hth, hbar⟩ := List.mem_filterMap.mp he
    rcases h th hth with hnone | hsame
    · rw [hnone] at hbar
      cases hbar
    · rw [← hsame, hbar]
      simp
  unfold Iss.arrive
  simp only [none_other]
  rfl

/-- Some thread of the group waits at another barrier, and none at a third: the arrival is a mismatch that names both. -/
theorem Iss.arrive_mismatch {w v : Wait} {m n : Nat × Nat} (hw : w.barrier = some m) (hv : v.barrier = some n) (hne : n ≠ m)
    (key : WdKey) {th : Nat} (hth : th ∈ x.grp.alive) (hwait : (x.grp.thread th).wait = v)
    (h : ∀ u, u ∈ x.grp.alive → (x.grp.thread u).wait.barrier = none ∨ (x.grp.thread u).wait = v) (s : State) :
    x.arrive s w key = x.fault s 0x0301 [(101, m.2), (105, m.1), (106, n.2), (110, n.1)] := by
  have found : (x.grp.alive.filterMap fun t => (x.grp.thread t).wait.barrier).find? (fun o => some o != w.barrier) =
      some n := by
    have there : n ∈ x.grp.alive.filterMap fun t => (x.grp.thread t).wait.barrier :=
      List.mem_filterMap.mpr ⟨th, hth, by rw [hwait, hv]⟩
    have only : ∀ e ∈ x.grp.alive.filterMap (fun t => (x.grp.thread t).wait.barrier), e = n := by
      intro e he
      obtain ⟨u, hu, hbar⟩ := List.mem_filterMap.mp he
      rcases h u hu with hnone | hsame
      · rw [hnone] at hbar
        cases hbar
      · rw [hsame, hv] at hbar
        exact (Option.some.inj hbar).symm
    cases hfind : (x.grp.alive.filterMap fun t => (x.grp.thread t).wait.barrier).find? (fun o => some o != w.barrier) with
    | none =>
      have := List.find?_eq_none.mp hfind n there
      simp [hw, hne] at this
    | some e => rw [only e (List.mem_of_find?_eq_some hfind)]
  unfold Iss.arrive
  dsimp only
  rw [found, hw]

/-! ### Precise faults -/

theorem jmp_misaligned (h : o.issues i shJmp x s) (hact : x.acting ≠ []) (halign : (x.grp.sreg (x.f 45 40)).toNat % 8 ≠ 0) :
    ∃ t, exec (.jmp i) o = .next t ∧ Faulted x 0x0402 [(101, (x.grp.sreg (x.f 45 40)).toNat % 8)] s t := by
  have taken : (!x.acting.isEmpty && (x.grp.sreg (x.f 45 40)).toNat % 8 != 0) = true := by simp [hact, halign]
  refine ⟨_, ?_, (State.issues_at h).faulted_captured 0 0x0402 (x.grp.sreg (x.f 45 40)) 0x0402 _⟩
  rw [exec_jmp, execJmp, issueRow_of_issues h]
  dsimp only
  rw [taken]
  rfl

theorem barG_mismatch {th : Nat} (h : o.issues i shBarG x s) (hth : th ∈ x.grp.alive)
    (hwait : (x.grp.thread th).wait = .barB id)
    (hall : ∀ u, u ∈ x.grp.alive → (x.grp.thread u).wait.barrier = none ∨ (x.grp.thread u).wait = .barB id) :
    ∃ t, exec (.barG i) o = .next t ∧ Faulted x 0x0301 [(101, x.f 45 42), (105, 0), (106, id), (110, 1)] s t := by
  refine ⟨_, ?_, (State.issues_at h).faulted 0x0301 _⟩
  rw [exec_barG, execBarG, issueRow_of_issues h,
    Iss.arrive_mismatch (m := (0, x.f 45 42)) (n := (1, id)) rfl rfl (by simp) _ hth hwait hall]

theorem trap_completes : Completes .trap shTrap fun x s t =>
    if x.acts = true then Faulted x 0x0403 [(101, x.f 33 18)] s t else ScalarDone x [] x.grp.sreg s t := by
  intro i o s x h
  refine ⟨_, by rw [exec_trap, execTrap, issueRow_of_issues h], ?_⟩
  by_cases hacts : x.acts = true
  · simp only [if_pos hacts]
    exact (State.issues_at h).faulted 0x0403 _
  · simp only [if_neg hacts]
    exact Iss.commit_scalar (State.issues_at h) [] x.grp rfl rfl

theorem State.issues_opc {sh : Shape} (h : o.issues i sh x s) : x.opc = sh.opc := by
  have hr := h.2
  simp only [Iss.runs, Bool.and_eq_true, beq_iff_eq] at hr
  obtain ⟨⟨⟨⟨⟨⟨-, hopc⟩, -⟩, -⟩, -⟩, -⟩, -⟩ := hr
  exact hopc

/-- A matrix instruction's path of less than a whole group diverges. -/
theorem State.issues_diverged {sh : Shape} (h : o.issues i sh x s) (hopc : sh.opc < 8) :
    Faulted x 0x0601 [(101, x.path.length), (107, sh.opc)] s (x.diverged s) := by
  rw [Iss.diverged, State.issues_opc h, Nat.mod_eq_of_lt hopc]
  exact (State.issues_at h).faulted 0x0601 _

theorem Iss.acceptMx_diverged (hlen : x.path.length < 32) (s : State) (more : Option State) (st : Staged) :
    x.acceptMx s true more st = .next (x.diverged s) := by
  simp [Iss.acceptMx, hlen]

theorem matrix_diverged {r : (Issue → Instr) × Shape}
    (hr : r ∈ [(Instr.mmaT, shMma 0 false), (Instr.mmaQ, shMma 2 true), (Instr.mmaDrain, shDrain)])
    (h : o.issues i r.2 x s) (hlen : x.path.length < 32) :
    ∃ t, exec (r.1 i) o = .next t ∧ Faulted x 0x0601 [(101, x.path.length), (107, r.2.opc)] s t := by
  simp only [List.mem_cons, List.not_mem_nil, or_false] at hr
  rcases hr with rfl | rfl | rfl
  · refine ⟨_, ?_, State.issues_diverged h (by decide)⟩
    rw [exec_mmaT, execMmaT, issueRow_of_issues h, Iss.acceptMx_diverged hlen]
  · refine ⟨_, ?_, State.issues_diverged h (by decide)⟩
    rw [exec_mmaQ, execMmaQ, issueRow_of_issues h, Iss.acceptMx_diverged hlen]
  · refine ⟨_, ?_, State.issues_diverged h (by decide)⟩
    rw [exec_mmaDrain, execMmaDrain, issueRow_of_issues h]
    exact if_pos hlen

/-- Settles O24: each fault is raised before the instruction has an effect, and a trap that does not act goes on. -/
theorem preciseFaultsAreRaised : Obligations.PreciseFaultsAreRaised :=
  ⟨fun _ _ _ _ h hact halign => jmp_misaligned h hact halign,
    fun _ _ _ _ _ _ h hth hwait hall => barG_mismatch h hth hwait hall, trap_completes,
    fun _ hr _ _ _ _ h hlen => matrix_diverged hr h hlen⟩

end Sys2Proof.Machine
end

section
/-! ## Which barriers an arrival completes (R53 to R55) -/
namespace Sys2Proof.Machine

variable {s t u : State} {x : Iss} {i : Issue} {o : State} {c q slot id : Nat} {k : Group} {b : Block}

theorem Group.allWait_iff {w : Wait} : k.allWait w = true ↔ ∀ th, th ∈ k.alive → (k.thread th).wait = w := by
  simp [Group.allWait]

theorem Group.ended_of_alive {th : Nat} (h : th ∈ k.alive) : k.ended = false := by
  rw [Group.ended, List.isEmpty_eq_false_iff]
  exact List.ne_nil_of_mem h

/-- Some thread that has not exited does not wait at a barrier. -/
def Group.away (k : Group) (w : Wait) : Prop := ∃ th, th ∈ k.alive ∧ (k.thread th).wait ≠ w

theorem Group.not_allWait_of_away {w : Wait} (h : k.away w) : k.allWait w = false := by
  obtain ⟨th, hth, hne⟩ := h
  exact Bool.eq_false_iff.mpr fun hall => hne (Group.allWait_iff.mp hall th hth)

/-- A group whose threads have gone on waits nowhere. -/
theorem Group.away_resume {w v : Wait} {th : Nat} (hw : w ≠ .none) (hv : v ≠ .none) (hall : k.allWait w = true)
    (hth : th ∈ k.alive) : (k.resume w).away v := by
  refine ⟨th, by rwa [Group.alive_resume k hw], ?_⟩
  rw [Group.thread_resume k hw, if_pos ⟨Group.exited_of_alive hth, Group.allWait_iff.mp hall th hth⟩]
  exact hv.symm

/-! ### One attempt -/

theorem State.tryBarG_of_away (hk : s.group c q = some k) (h : k.away (.barG id)) : s.tryBarG c q id = s := by
  simp [State.tryBarG, hk, Group.not_allWait_of_away h]

theorem State.group_tryBarG (hk : s.group c q = some k) (hlive : k.ended = false) (hall : k.allWait (.barG id) = true) :
    (s.tryBarG c q id).group c q = some (k.resume (.barG id)) := by
  simp only [State.tryBarG, hk, hlive, hall, Bool.not_false, Bool.and_self, if_true]
  rw [State.group_updBlock, State.group_setGroup, if_pos rfl]

theorem State.allArrived_iff : s.allArrived c b id = true ↔ s.liveGroups c b ≠ [] ∧ ∀ e, e ∈ s.liveGroups c b →
    e.2.allWait (.barB id) = true ∧ s.groupBusy c e.1 = false := by
  simp [State.allArrived]

theorem State.not_allArrived_of_away (hk : s.group c q = some k) (hq : q ∈ b.gslots) (h : k.away (.barB id)) :
    ¬ s.allArrived c b id = true := by
  intro harr
  have hlive : k.ended = false := by
    obtain ⟨th, hth, -⟩ := h
    exact Group.ended_of_alive hth
  have hall := ((State.allArrived_iff.mp harr).2 (q, k) (State.mem_liveGroups.mpr ⟨hq, hk, hlive⟩)).1
  rw [Group.not_allWait_of_away h] at hall
  cases hall

theorem State.group_tryBarB_of_away (hk : s.group c q = some k) (h : k.away (.barB id)) :
    (s.tryBarB c slot id).group c q = some k := by
  cases hb : s.block c slot with
  | none => simpa [State.tryBarB, hb] using hk
  | some b =>
    rw [State.tryBarB_eq hb]
    split
    · rename_i harr
      have absent : q ∉ (s.liveGroups c b).map (·.1) := by
        intro hq
        obtain ⟨e, he, rfl⟩ := List.mem_map.mp hq
        exact State.not_allArrived_of_away hk (State.mem_liveGroups.mp he).1 h harr
      rw [State.group_completeBarB, if_neg absent, hk]
    · exact hk

/-! ### All attempts, in ascending order of ids -/

/-- A fold of attempts of which one makes a step: what holds before it, and what holds from it on. -/
theorem foldl_range_at {f : State → Nat → State} {P Q : State → Prop} {n : Nat} (hid : id < n)
    (before : ∀ t j, P t → j ≠ id → P (f t j)) (now : ∀ t, P t → Q (f t id))
    (after : ∀ t j, Q t → j ≠ id → Q (f t j)) (h : P s) : Q ((List.range n).foldl f s) := by
  obtain ⟨l, m, hl⟩ := List.append_of_mem (List.mem_range.mpr hid)
  have nodup : (l ++ id :: m).Nodup := hl ▸ List.nodup_range
  have left : ∀ j ∈ l, j ≠ id := fun j hj => (List.nodup_append.mp nodup).2.2 j hj id List.mem_cons_self
  have right : ∀ j ∈ m, j ≠ id := fun j hj hjid =>
    (List.nodup_cons.mp (List.nodup_append.mp nodup).2.1).1 (hjid ▸ hj)
  rw [hl, List.foldl_append, List.foldl_cons]
  refine List.foldlRecOn m f (motive := Q) (now _ ?_) fun t ht j hj => after t j ht (right j hj)
  exact List.foldlRecOn l f (motive := P) h fun t ht j hj => before t j ht (left j hj)

theorem State.foldl_tryBarG_of_away (hk : s.group c q = some k) (h : ∀ j, k.away (.barG j)) (l : List Nat) :
    l.foldl (fun s id => s.tryBarG c q id) s = s :=
  List.foldl_fixed' (fun j => State.tryBarG_of_away hk (h j)) l

theorem State.group_foldl_tryBarB_of_away (hk : s.group c q = some k) (h : ∀ j, k.away (.barB j)) (l : List Nat) :
    (l.foldl (fun s id => s.tryBarB c slot id) s).group c q = some k :=
  List.foldlRecOn l _ (motive := fun (t : State) => t.group c q = some k) hk fun _ ht j _ => State.group_tryBarB_of_away ht (h j)

theorem State.group_tryBarriers_of_away (hk : s.group c q = some k) (hG : ∀ j, k.away (.barG j))
    (hB : ∀ j, k.away (.barB j)) : (s.tryBarriers c q slot).group c q = some k := by
  unfold State.tryBarriers
  rw [State.foldl_tryBarG_of_away hk hG]
  exact State.group_foldl_tryBarB_of_away hk hB _

/-- The last arrival at a bar.g. -/
theorem State.group_tryBarriers_barG {th : Nat} (hk : s.group c q = some k) (hid : id < 16) (hth : th ∈ k.alive)
    (hall : k.allWait (.barG id) = true) : (s.tryBarriers c q slot).group c q = some (k.resume (.barG id)) := by
  have resumed : ∀ v : Wait, v ≠ .none → (k.resume (.barG id)).away v := fun v hv =>
    Group.away_resume (by simp) hv hall hth
  refine State.group_foldl_tryBarB_of_away ?_ (fun j => resumed _ (by simp)) _
  refine foldl_range_at (P := fun t => t.group c q = some k)
    (Q := fun t => t.group c q = some (k.resume (.barG id))) hid (fun t j ht hj => ?_)
    (fun t ht => State.group_tryBarG ht (Group.ended_of_alive hth) hall) (fun t j ht _ => ?_) hk
  · rw [State.tryBarG_of_away ht ⟨th, hth, by rw [Group.allWait_iff.mp hall th hth]; simpa using hj.symm⟩]
    exact ht
  · rw [State.tryBarG_of_away ht (resumed _ (by simp))]
    exact ht

/-- A group with a thread at a bar.b completes no bar.g, and no other bar.b of its block. -/
theorem State.tryBarB_of_elsewhere {th j : Nat} (hb : s.block c slot = some b) (hk : s.group c q = some k)
    (hq : q ∈ b.gslots) (hth : th ∈ k.alive) (hwait : (k.thread th).wait = .barB id) (hj : j ≠ id) :
    s.tryBarB c slot j = s := by
  rw [State.tryBarB_eq hb, if_neg]
  exact State.not_allArrived_of_away hk hq ⟨th, hth, by rw [hwait]; simpa using hj.symm⟩

theorem State.foldl_tryBarG_of_barB {th : Nat} (hk : s.group c q = some k) (hth : th ∈ k.alive)
    (hwait : (k.thread th).wait = .barB id) (l : List Nat) : l.foldl (fun s id => s.tryBarG c q id) s = s :=
  State.foldl_tryBarG_of_away hk (fun j => ⟨th, hth, by rw [hwait]; simp⟩) l

/-- The last arrival at a bar.b. -/
theorem State.group_tryBarriers_barB {th : Nat} (hb : s.block c slot = some b) (hk : s.group c q = some k)
    (hq : q ∈ b.gslots) (hid : id < 16) (hth : th ∈ k.alive) (harr : s.allArrived c b id = true) :
    (s.tryBarriers c q slot).group c q = some (k.resume (.barB id)) := by
  have live : (q, k) ∈ s.liveGroups c b := State.mem_liveGroups.mpr ⟨hq, hk, Group.ended_of_alive hth⟩
  have hall := ((State.allArrived_iff.mp harr).2 _ live).1
  have hwait := Group.allWait_iff.mp hall th hth
  unfold State.tryBarriers
  rw [State.foldl_tryBarG_of_barB hk hth hwait]
  refine foldl_range_at (P := fun t => t = s) (Q := fun t => t.group c q = some (k.resume (.barB id))) hid ?_ ?_ ?_ rfl
  · rintro _ j rfl hj
    exact State.tryBarB_of_elsewhere hb hk hq hth hwait hj
  · rintro _ rfl
    rw [State.tryBarB_eq hb, if_pos harr, State.group_completeBarB, if_pos (List.mem_map_of_mem live), hk]
    rfl
  · exact fun t j ht _ => State.group_tryBarB_of_away ht (Group.away_resume (by simp) (by simp) hall hth)

/-- An arrival at a bar.b that is not the last one completes nothing. -/
theorem State.tryBarriers_of_barB {th : Nat} (hb : s.block c slot = some b) (hk : s.group c q = some k)
    (hq : q ∈ b.gslots) (hth : th ∈ k.alive) (hwait : (k.thread th).wait = .barB id)
    (hnot : ¬ s.allArrived c b id = true) : s.tryBarriers c q slot = s := by
  unfold State.tryBarriers
  rw [State.foldl_tryBarG_of_barB hk hth hwait]
  refine List.foldl_fixed' (fun j => ?_) _
  by_cases hj : j = id
  · rw [hj, State.tryBarB_eq hb, if_neg hnot]
  · exact State.tryBarB_of_elsewhere hb hk hq hth hwait hj

/-! ### bar.g and bar.b -/

theorem State.issues_mem_path {sh : Shape} {th : Nat} (h : o.issues i sh x s) :
    th ∈ x.path ↔ th ∈ x.grp.alive ∧ (x.grp.thread th).pc = x.pc ∧ (x.grp.thread th).wait = .none := by
  obtain ⟨-, -, -, -, -, -, -, -, -, -, -, -, -, hx⟩ := State.issuing_some h.1.1
  rw [show x.path = x.grp.pathAt x.pc from congrArg Iss.path hx]
  simp [Group.pathAt]

/-- An arrival keeps every register and stays in its core. -/
theorem Iss.arrived_tried (hn : x.path.Nodup) (s : State) (w : Wait) (key : WdKey) :
    ∃ g, ((x.arrived s w key).tryBarriers x.core x.gslot x.bslot).group x.core x.gslot = some g ∧
      OnlyCore x.core [] s ((x.arrived s w key).tryBarriers x.core x.gslot x.bslot) ∧
      ∀ th r, (g.thread th).reg r = (x.grp.thread th).reg r := by
  have tried := State.tryBarriers_tried (x.arrived s w key) x.core x.gslot x.bslot
  obtain ⟨g, hg, -, hkept⟩ := tried.groups x.gslot (x.waiting w) (by rw [Iss.group_arrived, if_pos rfl])
  exact ⟨g, hg, (x.arrived_onlyCore s w key).trans tried.onlyCore,
    fun th => ((Iss.waiting_kept hn w th).trans (hkept th)).1⟩

/-- Threads that wait at the barrier at which the path arrives, or are of the path, go on past their barrier instruction. -/
theorem Iss.resumed_waiting {w : Wait} {th : Nat} (hw : w ≠ .none) (hn : x.path.Nodup) (hth : th ∈ x.grp.alive)
    (hat : th ∈ x.path ∨ (x.grp.thread th).wait = w) : (((x.waiting w).resume w).thread th).wait = .none ∧
      (((x.waiting w).resume w).thread th).pc = (x.grp.thread th).pc + 8 := by
  have waits : ((x.waiting w).thread th).wait = w ∧ ((x.waiting w).thread th).pc = (x.grp.thread th).pc := by
    rw [Iss.waiting_thread hn]
    split
    · exact ⟨rfl, rfl⟩
    · rename_i hpath
      exact ⟨hat.resolve_left hpath, rfl⟩
  have alive : th ∈ (x.waiting w).alive := by rwa [Iss.alive_waiting hn]
  rw [Group.thread_resume _ hw, if_pos ⟨Group.exited_of_alive alive, waits.1⟩]
  exact ⟨rfl, by rw [waits.2]⟩

/-- Every thread of the group that has not exited is of the path or waits where the path arrives. -/
theorem Iss.allWait_waiting {w : Wait} (hn : x.path.Nodup) : (x.waiting w).allWait w = true ↔
    ∀ th, th ∈ x.grp.alive → th ∈ x.path ∨ (x.grp.thread th).wait = w := by
  rw [Group.allWait_iff, Iss.alive_waiting hn]
  refine forall₂_congr fun th _ => ?_
  rw [Iss.waiting_thread hn]
  by_cases hpath : th ∈ x.path <;> simp [hpath]

theorem Iss.f_barrier_lt (x : Iss) : x.f 45 42 < 16 := Nat.mod_lt _ (by decide)

theorem barG_completes (h : o.issues i shBarG x s)
    (hmatch : ∀ th, th ∈ x.grp.alive → (x.grp.thread th).wait.barrier = none ∨
      (x.grp.thread th).wait = .barG (x.f 45 42)) :
    ∃ t g, exec (.barG i) o = .next t ∧ t.group x.core x.gslot = some g ∧ OnlyCore x.core [] s t ∧
      (∀ th r, (g.thread th).reg r = (x.grp.thread th).reg r) ∧
      if (∀ th, th ∈ x.grp.alive → th ∈ x.path ∨ (x.grp.thread th).wait = .barG (x.f 45 42)) then
        ∀ th, th ∈ x.grp.alive → (g.thread th).wait = .none ∧ (g.thread th).pc = (x.grp.thread th).pc + 8
      else ∀ th, th ∈ x.path → (g.thread th).wait = .barG (x.f 45 42) ∧ (g.thread th).pc = x.pc := by
  have hn := State.issues_nodup h
  obtain ⟨g, hg, core, regs⟩ := Iss.arrived_tried hn s (.barG (x.f 45 42)) (.barG x.gslot (x.f 45 42))
  have waits : (x.arrived s (.barG (x.f 45 42)) (.barG x.gslot (x.f 45 42))).group x.core x.gslot =
      some (x.waiting (.barG (x.f 45 42))) := by rw [Iss.group_arrived, if_pos rfl]
  refine ⟨_, g, ?_, hg, core, regs, ?_⟩
  · rw [exec_barG, execBarG, issueRow_of_issues h, Iss.arrive_matching _ hmatch]
  split
  · rename_i hall
    intro th hth
    have resumed := State.group_tryBarriers_barG (slot := x.bslot) waits x.f_barrier_lt (th := th)
      (by rwa [Iss.alive_waiting hn]) ((Iss.allWait_waiting hn).mpr hall)
    obtain rfl := Option.some.inj (hg.symm.trans resumed)
    exact Iss.resumed_waiting (by simp) hn hth (hall th hth)
  · rename_i hnot
    intro th hth
    simp only [not_forall, not_or] at hnot
    obtain ⟨u, hu, hpath, helse⟩ := hnot
    have nowhere := (hmatch u hu).resolve_right helse
    have away : ∀ w : Wait, w.barrier ≠ .none → (x.waiting (.barG (x.f 45 42))).away w := fun w hw =>
      ⟨u, by rwa [Iss.alive_waiting hn], by
        rw [Iss.waiting_thread hn, if_neg hpath]
        rintro rfl
        exact hw nowhere⟩
    have same := State.group_tryBarriers_of_away (slot := x.bslot) waits (fun j => away _ (by simp [Wait.barrier]))
      (fun j => away _ (by simp [Wait.barrier]))
    obtain rfl := Option.some.inj (hg.symm.trans same)
    rw [Iss.waiting_thread hn, if_pos hth]
    exact ⟨rfl, ((State.issues_mem_path h).mp hth).2.1⟩

/-- What the last arrival at a bar.b finds: the threads of its group are there, those of the block's other groups too, and no
group of the block has an access under way (R53 to R55). -/
def Iss.lastAtBarB (x : Iss) (s : State) (id : Nat) : Prop :=
  (∀ th, th ∈ x.grp.alive → th ∈ x.path ∨ (x.grp.thread th).wait = .barB id) ∧
  (∀ q, q ∈ x.blk.gslots → q ≠ x.gslot → ∀ k, s.group x.core q = some k →
    ∀ th, th ∈ k.alive → (k.thread th).wait = .barB id) ∧
  ∀ q, q ∈ x.blk.gslots → ∀ k, s.group x.core q = some k → k.ended = false → s.groupBusy x.core q = false

theorem Iss.groupBusy_arrived (x : Iss) (s : State) (w : Wait) (key : WdKey) (n : Nat) :
    (x.arrived s w key).groupBusy x.core n = s.groupBusy x.core n := by
  simp [Iss.arrived, State.groupBusy, Core.drainDue, Core.tileReads]

theorem Iss.ended_waiting (hn : x.path.Nodup) (w : Wait) : (x.waiting w).ended = x.grp.ended := by
  rw [Group.ended, Iss.alive_waiting hn, Group.ended]

theorem Iss.At.allArrived_iff {th : Nat} (hat : x.At s) (hn : x.path.Nodup) (hq : x.gslot ∈ x.blk.gslots)
    (hth : th ∈ x.grp.alive) (id : Nat) (key : WdKey) :
    (x.arrived s (.barB id) key).allArrived x.core (x.blk.arm key x.gslot) id = true ↔ x.lastAtBarB s id := by
  have slots : (x.blk.arm key x.gslot).gslots = x.blk.gslots := by rw [Block.arm_rest]
  rw [State.allArrived_iff]
  simp only [State.mem_liveGroups, slots, Iss.group_arrived, Iss.groupBusy_arrived]
  have mine : ((x.gslot, x.waiting (.barB id)) : Nat × Group).1 ∈ x.blk.gslots ∧
      (if x.gslot = x.gslot then some (x.waiting (.barB id)) else s.group x.core x.gslot) = some (x.waiting (.barB id)) ∧
      (x.waiting (.barB id)).ended = false :=
    ⟨hq, if_pos rfl, (Iss.ended_waiting hn _).trans (Group.ended_of_alive hth)⟩
  constructor
  · rintro ⟨-, hall⟩
    refine ⟨(Iss.allWait_waiting hn).mp (hall _ mine).1, fun q hq hne k hk th hth => ?_, fun q hq k hk hlive => ?_⟩
    · have here := hall (q, k) ⟨hq, by rw [if_neg hne, hk], Group.ended_of_alive hth⟩
      exact Group.allWait_iff.mp here.1 th hth
    · by_cases hself : q = x.gslot
      · exact hself ▸ (hall _ mine).2
      · exact (hall (q, k) ⟨hq, by rw [if_neg hself, hk], hlive⟩).2
  · rintro ⟨hmine, hothers, hidle⟩
    refine ⟨List.ne_nil_of_mem (a := (x.gslot, x.waiting (.barB id))) (State.mem_liveGroups.mpr ?_), ?_⟩
    · rw [slots, Iss.group_arrived]
      exact mine
    · rintro ⟨q, k⟩ ⟨hq, hk, hlive⟩
      by_cases hself : q = x.gslot
      · subst hself
        obtain rfl := Option.some.inj ((if_pos rfl).symm.trans hk)
        rw [Iss.ended_waiting hn] at hlive
        exact ⟨(Iss.allWait_waiting hn).mpr hmine, hidle _ hq _ hat.group hlive⟩
      · rw [if_neg hself] at hk
        exact ⟨Group.allWait_iff.mpr (hothers q hq hself k hk), hidle q hq k hk hlive⟩

theorem barB_completes (h : o.issues i shBarB x s) (hq : x.gslot ∈ x.blk.gslots)
    (hmatch : ∀ th, th ∈ x.grp.alive → (x.grp.thread th).wait.barrier = none ∨
      (x.grp.thread th).wait = .barB (x.f 45 42)) :
    ∃ t g, exec (.barB i) o = .next t ∧ t.group x.core x.gslot = some g ∧ OnlyCore x.core [] s t ∧
      (∀ th r, (g.thread th).reg r = (x.grp.thread th).reg r) ∧
      (x.lastAtBarB s (x.f 45 42) →
        ∀ th, th ∈ x.grp.alive → (g.thread th).wait = .none ∧ (g.thread th).pc = (x.grp.thread th).pc + 8) ∧
      (¬ x.lastAtBarB s (x.f 45 42) →
        ∀ th, th ∈ x.path → (g.thread th).wait = .barB (x.f 45 42) ∧ (g.thread th).pc = x.pc) := by
  have hn := State.issues_nodup h
  have hat := State.issues_at h
  obtain ⟨g, hg, core, regs⟩ := Iss.arrived_tried hn s (.barB (x.f 45 42)) (.barB x.bslot (x.f 45 42))
  have waits : (x.arrived s (.barB (x.f 45 42)) (.barB x.bslot (x.f 45 42))).group x.core x.gslot =
      some (x.waiting (.barB (x.f 45 42))) := by rw [Iss.group_arrived, if_pos rfl]
  have block := hat.block_arrived (.barB (x.f 45 42)) (.barB x.bslot (x.f 45 42))
  have mine : x.gslot ∈ (x.blk.arm (.barB x.bslot (x.f 45 42)) x.gslot).gslots := by
    rw [Block.arm_rest]
    exact hq
  refine ⟨_, g, ?_, hg, core, regs, ?_, ?_⟩
  · rw [exec_barB, execBarB, issueRow_of_issues h, Iss.arrive_matching _ hmatch]
  · intro hlast th hth
    have resumed := State.group_tryBarriers_barB block waits mine x.f_barrier_lt (th := th)
      (by rwa [Iss.alive_waiting hn]) ((hat.allArrived_iff hn hq hth _ _).mpr hlast)
    obtain rfl := Option.some.inj (hg.symm.trans resumed)
    exact Iss.resumed_waiting (by simp) hn hth (hlast.1 th hth)
  · intro hnot th hth
    obtain ⟨alive, hpc, -⟩ := (State.issues_mem_path h).mp hth
    have here : (x.waiting (.barB (x.f 45 42))).thread th = { x.grp.thread th with wait := .barB (x.f 45 42) } := by
      rw [Iss.waiting_thread hn, if_pos hth]
    rw [State.tryBarriers_of_barB block waits mine (th := th) (by rwa [Iss.alive_waiting hn]) (by rw [here])
      (fun harr => hnot ((hat.allArrived_iff hn hq alive _ _).mp harr)), waits] at hg
    obtain rfl := Option.some.inj hg
    rw [here]
    exact ⟨rfl, hpc⟩

/-- Settles O25: of the attempts that follow an arrival only the barrier's own can succeed, and it does where every group has
arrived. -/
theorem barrierArrivalsWaitOrComplete : Obligations.BarrierArrivalsWaitOrComplete := by
  refine ⟨fun _ _ _ _ h hmatch => barG_completes h hmatch, fun _ _ _ _ h hq hmatch => ?_⟩
  obtain ⟨t, g, hexec, hg, core, regs, last, early⟩ := barB_completes h hq hmatch
  refine ⟨t, g, hexec, hg, core, regs, ?_⟩
  split
  · rename_i hlast
    exact last hlast
  · rename_i hnot
    exact early hnot

end Sys2Proof.Machine
end

section
/-! ## What a read at a home leaves alone (R215, R265, R266, R270, R277, R409) -/
namespace Sys2Proof.Machine

variable {s t u : State}

/-- A home's work on a line that is read: its memory unit, counters, records, decisions and saved settings may have changed.
Every byte of memory, every core and every partition are as before. -/
def HomeRead (s t : State) : Prop :=
  t = { s with regs := t.regs, log := t.log, mems := t.mems, flash := t.flash, mf := t.mf, freeCtr := t.freeCtr }

theorem HomeRead.refl (s : State) : HomeRead s s := rfl

theorem HomeRead.trans (h : HomeRead s t) (k : HomeRead t u) : HomeRead s u := by
  unfold HomeRead at h k ⊢
  rw [k, h]

theorem HomeRead.count (s : State) (b : Blk) (o n : Nat) : HomeRead s (s.count b o n) := by
  unfold State.count
  dsimp only
  split
  · rfl
  · split <;> rfl

theorem HomeRead.decisionDue (s : State) (unit : Nat) (p : Pending) : HomeRead s (s.decisionDue unit p) := by
  unfold State.decisionDue
  split <;> rfl

theorem HomeRead.record (s : State) (unit code sev part : Nat) (fs : List (Nat × Nat)) :
    HomeRead s (s.record unit code sev part fs) := rfl

theorem HomeRead.updMemUnit (s : State) (mem : Nat) (f : MemUnit → MemUnit) : HomeRead s (s.updMemUnit mem f) := rfl

/-- An error event of a channel of a memory. -/
theorem HomeRead.bump {ch : Channel} (h : (∃ m p, ch = .pseudo m p) ∨ ∃ m c, ch = .lpx m c) (s : State) :
    HomeRead s (s.bump ch) := by
  have level : ∀ v, HomeRead s (s.setLevel ch v) := by
    intro v
    rcases h with ⟨m, p, rfl⟩ | ⟨m, c, rfl⟩
    · rfl
    · rfl
  unfold State.bump
  split
  · rfl
  · extract_lets v risen
    split
    · exact level v
    · rcases h with ⟨m, p, rfl⟩ | ⟨m, c, rfl⟩
      · exact (level v).trans (HomeRead.decisionDue ..)
      · exact (level v).trans (HomeRead.decisionDue ..)

theorem chanOf_memory (mem off : Nat) : (∃ m p, chanOf mem off = .pseudo m p) ∨ ∃ m c, chanOf mem off = .lpx m c := by
  unfold chanOf
  split
  · exact .inr ⟨_, _, rfl⟩
  · exact .inl ⟨_, _, rfl⟩

theorem HomeRead.corrected (s : State) (mem off : Nat) : HomeRead s (s.corrected mem off) := by
  unfold State.corrected
  extract_lets marked
  have marks : HomeRead s marked := HomeRead.updMemUnit ..
  split <;> exact ((marks.trans (HomeRead.record ..)).trans (HomeRead.count ..)).trans (HomeRead.bump (chanOf_memory ..) _)

theorem HomeRead.retries (s : State) (mem off n : Nat) : HomeRead s (s.retries mem off n) := by
  induction n generalizing s with
  | zero => rfl
  | succ n ih => exact ((HomeRead.count ..).trans (HomeRead.bump (chanOf_memory ..) _)).trans (ih _)

theorem HomeRead.setLeave (s : State) (mem : Nat) : HomeRead s (s.setLeave mem) := by
  unfold State.setLeave
  extract_lets dropped
  split
  · rfl
  · have drops : HomeRead s dropped := by
      unfold dropped
      split <;> rfl
    exact (drops.trans (HomeRead.updMemUnit ..)).trans (HomeRead.record ..)

theorem HomeRead.poisonLine (s : State) (mem off : Nat) : HomeRead s (s.poisonLine mem off) := by
  unfold State.poisonLine
  extract_lets lpx recorded counted kept
  have counts : HomeRead s counted := (HomeRead.record ..).trans (HomeRead.count ..)
  have keeps : HomeRead s kept := counts.trans (HomeRead.updMemUnit ..)
  split
  · rfl
  · split
    · split
      · exact counts.trans (HomeRead.updMemUnit ..)
      · split
        · exact keeps.trans (HomeRead.setLeave ..)
        · exact keeps
    · exact (counts.trans (HomeRead.updMemUnit ..)).trans (HomeRead.decisionDue ..)

theorem HomeRead.homeRead (s : State) (mem off : Nat) (e : Ecc) : HomeRead s (s.homeRead mem off e).st := by
  unfold State.homeRead
  dsimp only
  split
  · rfl
  · split
    · exact HomeRead.poisonLine ..
    · cases e with
      | clean => rfl
      | corrected => exact HomeRead.corrected ..
      | uncorrectable => exact HomeRead.poisonLine ..
      | retried n =>
        have retried : HomeRead s (if isLpx mem = true then s else s.retries mem (off / 64 * 64) (min n retryLimit)) := by
          split
          · rfl
          · exact HomeRead.retries ..
        dsimp only
        split
        · exact retried
        · exact retried.trans rfl

theorem HomeRead.pooled (s : State) (mem : Nat) : HomeRead s (s.pooled mem) :=
  (HomeRead.trans (t := s.drawWord.2) rfl (HomeRead.count ..)).trans (HomeRead.count ..)

theorem HomeRead.poolRead (s : State) (mem off : Nat) (e : Ecc) : HomeRead s (s.poolRead mem off e).st := by
  unfold State.poolRead
  dsimp only
  split
  · exact (HomeRead.homeRead ..).trans (HomeRead.pooled ..)
  · exact HomeRead.homeRead ..

end Sys2Proof.Machine
end

section
/-! ## Where an instruction waits (R49, R89, R197, R212) -/
namespace Sys2Proof.Machine

variable {s t u : State} {x : Iss} {i : Issue} {o : State}

/-! ### The fetch -/

theorem Fetched.refl (x : Iss) (s : State) : Fetched x s s := ⟨rfl, fun _ _ => rfl, rfl⟩

theorem Fetched.trans (h : Fetched x s t) (k : Fetched x t u) : Fetched x s u := by
  obtain ⟨hrest, hcores, hcore⟩ := h
  obtain ⟨krest, kcores, kcore⟩ := k
  refine ⟨?_, fun c hc => (kcores c hc).trans (hcores c hc), ?_⟩
  · rw [krest, hrest]
  · rw [kcore, hcore]

theorem HomeRead.fetched (h : HomeRead s t) (x : Iss) : Fetched x s t := by
  have core : ∀ c, t.core c = s.core c := fun c => by
    rw [h]
    rfl
  refine ⟨?_, fun c _ => core c, by rw [core]⟩
  rw [h]

/-- A line enters the core's read cache. -/
theorem Fetched.rcFill (x : Iss) (s : State) (l : DWord) (d : Line) :
    Fetched x s (s.updCore x.core fun k => { k.rcFill ⟨l, k.nextFill, d⟩ with nextFill := k.nextFill + 1 }) := by
  refine ⟨rfl, fun c hc => State.core_setCore_other s _ hc, ?_⟩
  rw [State.updCore_eq, State.core_setCore, Core.rcFill]

theorem Iss.fetchLine_fetched (x : Iss) (s : State) (l : DWord) : Fetched x s (x.fetchLine s l).1 := by
  unfold Iss.fetchLine
  split
  · exact (HomeRead.count ..).fetched x
  · split
    · exact Fetched.refl x s
    · split
      · exact Fetched.refl x s
      · rename_i m o _ _
        have read := HomeRead.poolRead s m o x.ecc
        dsimp only
        split
        · exact read.fetched x
        · exact read.fetched x
        · split
          · exact ((read.trans (HomeRead.count ..)).fetched x).trans (Fetched.rcFill ..)
          · exact read.fetched x

theorem Iss.fetchAll_fetched (x : Iss) (ls : List DWord) (s : State) : Fetched x s (x.fetchAll s ls).1 := by
  induction ls generalizing s with
  | nil => exact Fetched.refl x s
  | cons l ls ih =>
    have line := x.fetchLine_fetched s l
    unfold Iss.fetchAll
    split
    · rename_i t hline
      rw [hline] at line
      exact line.trans (ih t)
    · exact line

/-! ### wbeat before its beat (R57, R89) -/

theorem Block.arm_watches (b : Block) (key : WdKey) (n : Nat) : ((b.arm key n).wds.any fun w => w.key == key) = true := by
  unfold Block.arm
  split
  · assumption
  · simp

theorem wbeat_waits (h : o.issues i shWbeat x s) (hacts : x.acts = true)
    (hlater : s.time.tsc.toNat / 2048 < (x.grp.sreg (x.f 39 34)).toNat) :
    ∃ t g b, exec (.wbeat i) o = .next t ∧ t.group x.core x.gslot = some g ∧ t.block x.core x.bslot = some b ∧
      (∀ th, th ∈ x.path → (g.thread th).wait = .wbeat (x.grp.sreg (x.f 39 34)) ∧ (g.thread th).pc = x.pc) ∧
      (∀ th, th ∉ x.path → g.thread th = x.grp.thread th) ∧
      (b.wds.any fun w => w.key == .wbeat x.gslot x.pc (x.grp.sreg (x.f 39 34))) = true ∧ OnlyGroup x [] s t := by
  have hn := State.issues_nodup h
  have later : decide ((x.grp.sreg (x.f 39 34)).toNat ≤ s.beatNo) = false := decide_eq_false (Nat.not_le.mpr hlater)
  have waits : (!x.acts || decide ((x.grp.sreg (x.f 39 34)).toNat ≤ s.beatNo)) = false := by simp [hacts, later]
  refine ⟨x.arrived s (.wbeat (x.grp.sreg (x.f 39 34))) (.wbeat x.gslot x.pc (x.grp.sreg (x.f 39 34))), _, _, ?_,
    by rw [Iss.group_arrived, if_pos rfl], (State.issues_at h).block_arrived _ _, fun th hth => ?_, fun th hth => ?_,
    Block.arm_watches .., (OnlyGroup.setGroup _).trans (OnlyGroup.updBlock _)⟩
  · rw [exec_wbeat, execWbeat, issueRow_of_issues h]
    exact if_neg (Bool.eq_false_iff.mp waits)
  · rw [Iss.waiting_thread hn, if_pos hth]
    exact ⟨rfl, ((State.issues_mem_path h).mp hth).2.1⟩
  · rw [Iss.waiting_thread hn, if_neg hth]

/-! ### A register that is not ready (R49, R174, R197) -/

/-- An issue command's row decodes and checks its words before its own effect. -/
def RowIssues (r : (Issue → Instr) × Shape) : Prop := ∀ i s, ∃ body, exec (r.1 i) s = issueRow r.2 i s body

theorem RowIssues.plain {c : Issue → Instr} {sh : Shape} {body : Issue → Iss → State → Res}
    (h : ∀ i s, exec (c i) s = issueRow sh i s (body i)) : RowIssues (c, sh) := fun i s => ⟨body i, h i s⟩

theorem RowIssues.lane {c : Issue → Instr} {sh : LaneSh} {eff : Iss → Nat → TEff}
    (h : ∀ i s, exec (c i) s = laneRow sh i s eff) : RowIssues (c, sh.shape) := fun i s => by
  simp only [h, laneRow]
  exact ⟨_, rfl⟩

theorem RowIssues.scalar {c : Issue → Instr} {sh : ScalarSh} {eff : Iss → Group → Group}
    (h : ∀ i s, exec (c i) s = scalarRow sh i s eff) : RowIssues (c, sh.shape) := fun i s => by
  simp only [h, scalarRow]
  exact ⟨_, rfl⟩

theorem RowIssues.float {c : Issue → Instr} {sh : LaneSh} {op : FVal → FVal → FVal → FVal × Nat}
    (h : ∀ i s, exec (c i) s = floatRow sh i s op) : RowIssues (c, sh.shape) :=
  .lane fun i s => (h i s).trans (by rw [floatRow])

theorem RowIssues.int {c : Issue → Instr} {sh : LaneSh} {op : Iss → Word → Word → Word}
    (h : ∀ i s, exec (c i) s = intRow sh i s op) : RowIssues (c, sh.shape) :=
  .lane fun i s => (h i s).trans (by rw [intRow])

theorem RowIssues.scalarInt {c : Issue → Instr} {sh : ScalarSh} {op : Nat → Nat → Nat → Nat}
    (h : ∀ i s, exec (c i) s = Machine.scalarInt sh i s op) : RowIssues (c, sh.shape) :=
  .scalar fun i s => (h i s).trans (by rw [Machine.scalarInt])

theorem rowIssues_of_mem : ∀ r ∈ issueRows, RowIssues r := by
  simp only [issueRows, List.forall_mem_cons]
  exact ⟨.lane exec_laneMov, .float exec_laneAdd, .float exec_laneSub, .float exec_laneMul, .float exec_laneFma,
    .float exec_laneFms, .lane exec_laneMin, .lane exec_laneMax, .lane exec_laneAbs, .lane exec_laneNeg,
    .lane exec_laneCmp, .lane exec_laneSel, .lane exec_laneCvt, .lane exec_laneCvtMx, .lane exec_lanePack,
    .lane exec_laneUnpack, .int exec_laneIadd, .int exec_laneIsub, .int exec_laneImul, .int exec_laneImin,
    .int exec_laneImax, .lane exec_laneIcmp, .int exec_laneAnd, .int exec_laneOr, .int exec_laneXor,
    .lane exec_laneNot, .int exec_laneShl, .int exec_laneShr, .int exec_laneSar, .lane exec_lanePopc,
    .lane exec_laneClz, .float exec_laneRcp, .float exec_laneRsqrt, .float exec_laneSqrt, .float exec_laneExp2,
    .float exec_laneLog2, .float exec_laneDiv, .lane exec_laneShfl, .lane exec_laneVote, .lane exec_laneRed,
    .plain exec_laneFlag, .lane exec_laneRng, .plain exec_laneCmp24, .plain exec_lanePick, .scalar exec_scalarMov,
    .scalar exec_scalarAdd, .scalar exec_scalarSub, .scalar exec_scalarMul, .scalarInt exec_scalarAnd,
    .scalarInt exec_scalarOr, .scalarInt exec_scalarXor, .scalarInt exec_scalarShl, .scalarInt exec_scalarShr,
    .scalarInt exec_scalarSar, .scalar exec_scalarMin, .scalar exec_scalarMax, .scalarInt exec_scalarUmin,
    .scalarInt exec_scalarUmax, .scalar exec_scalarCmp, .scalar exec_scalarFma, .scalar exec_scalarCvt,
    .scalar exec_rdlane, .scalar exec_wrlane, .plain exec_mmaT, .plain exec_mmaS, .plain exec_mmaQ, .plain exec_smma,
    .plain exec_mmaDrain, .plain exec_ld, .plain exec_st, .plain exec_ldAcq, .plain exec_stRel, .plain exec_atom,
    .plain exec_ldS, .plain exec_prefetch, .plain exec_bgather, .plain exec_bmerge, .plain exec_dmaCp,
    .plain exec_dmaFill, .plain exec_dmaWait, .plain exec_dmaPoll, .plain exec_nop, .plain exec_bra, .plain exec_jmp,
    .plain exec_call, .plain exec_exit, .plain exec_barG, .plain exec_barB, .plain exec_fence, .plain exec_beat,
    .plain exec_wbeat, .plain exec_trap, .plain exec_rdpc, List.forall_mem_nil _⟩

/-- An instruction that waits has not issued: its fetch is all that happened. -/
theorem issueRow_of_waits {sh : Shape} (h : o.fetches i x s) (hcls : x.cls = sh.cls) (hopc : x.opc = sh.opc)
    (hlegal : (x.headerOk && sh.legal x && (sh.gs x).all spanOk) = true) (hrange : rangeReg x.blk.desc.rpt (sh.gs x) = none)
    (hwaits : x.waits sh s = true) (body : Iss → State → Res) : issueRow sh i o body = .next s := by
  obtain ⟨hi, hf, rfl⟩ := h
  simp only [Iss.fetched, Bool.and_eq_true, Option.isNone_iff_eq_none, beq_iff_eq] at hf
  have fetch : x.fetch o = (x.after o, .done) := Prod.ext rfl hf.2
  unfold issueRow
  rw [withIssue_of_issuing hi]
  simp [hf.1, fetch, hcls, hopc, hlegal, hrange, hwaits]

/-- Settles O30: the fetch works on the read cache and at homes, and every row's waits come before its effect. -/
theorem instructionsWait : Obligations.InstructionsWait := by
  refine ⟨?_, fun _ _ _ _ h hacts hlater => wbeat_waits h hacts hlater, ?_⟩
  · rintro i o _ x ⟨-, -, rfl⟩
    exact x.fetchAll_fetched _ o
  · intro r hr i o s x h hcls hopc hlegal hrange hwaits
    obtain ⟨body, hexec⟩ := rowIssues_of_mem r hr i o
    rw [hexec]
    exact issueRow_of_waits h hcls hopc hlegal hrange hwaits body

end Sys2Proof.Machine
end

section
/-! ## A memory access that a check of R231 refuses (R59, R231 to R233) -/
namespace Sys2Proof.Machine

variable {s t : State} {x : Iss} {i : Issue} {o : State} {th chk why : Nat}

/-! ### The first failing check -/

/-- What a search of a rising list finds, it finds at the least place. -/
theorem findSome?_least {α : Type} {l : List Nat} (hl : l.Pairwise (· < ·)) {f : Nat → Option α} {v : α}
    (h : l.findSome? f = some v) : ∃ a, a ∈ l ∧ f a = some v ∧ ∀ u, u ∈ l → f u ≠ none → a ≤ u := by
  obtain ⟨l₁, a, l₂, rfl, ha, hbefore⟩ := List.findSome?_eq_some_iff.mp h
  refine ⟨a, by simp, ha, fun u hu hsome => ?_⟩
  rcases List.mem_append.mp hu with hu | hu
  · exact absurd (hbefore u hu) hsome
  · rcases List.mem_cons.mp hu with rfl | hu
    · exact Nat.le_refl _
    · exact Nat.le_of_lt ((List.pairwise_cons.mp (List.pairwise_append.mp hl).2.1).1 u hu)

/-- A thread with its failing check, where that is check `n`. -/
def failsAt (f : Nat → Option (Nat × Nat)) (n u : Nat) : Option (Nat × Nat × Nat) :=
  match f u with
  | some (c, why) => if c = n then some (u, c, why) else none
  | none => none

theorem failsAt_some {f : Nat → Option (Nat × Nat)} {n u c w : Nat} (h : f u = some (c, w)) :
    failsAt f n u = if c = n then some (u, c, w) else none := by simp only [failsAt, h]

theorem failsAt_eq_some {f : Nat → Option (Nat × Nat)} {n u : Nat} (h : failsAt f n u = some (th, chk, why)) :
    u = th ∧ n = chk ∧ f th = some (chk, why) := by
  cases hf : f u with
  | none => simp [failsAt, hf] at h
  | some e =>
    obtain ⟨c, w⟩ := e
    rw [failsAt_some hf] at h
    split at h
    · rename_i hc
      simp only [Option.some.injEq, Prod.mk.injEq] at h
      obtain ⟨rfl, rfl, rfl⟩ := h
      exact ⟨rfl, hc.symm, hf⟩
    · cases h

theorem firstFault_eq (l : List Nat) (f : Nat → Option (Nat × Nat)) :
    firstFault (l.map fun u => (u, f u)) = (List.range 4).findSome? fun n => l.findSome? (failsAt f n) := by
  simp only [firstFault, List.findSome?_map]
  rfl

/-- The first fault of rising threads is the least check that any fails, of the lowest thread that fails it (R231). -/
theorem firstFault_least {l : List Nat} (hl : l.Pairwise (· < ·)) {f : Nat → Option (Nat × Nat)}
    (h : firstFault (l.map fun u => (u, f u)) = some (th, chk, why)) : th ∈ l ∧ f th = some (chk, why) ∧
      ∀ u, u ∈ l → ∀ c w, f u = some (c, w) → chk < c ∨ chk = c ∧ th ≤ u := by
  rw [firstFault_eq] at h
  obtain ⟨n, hn, hfound, hleast⟩ := findSome?_least List.pairwise_lt_range h
  obtain ⟨a, ha, hfails, hlow⟩ := findSome?_least hl hfound
  obtain ⟨rfl, rfl, hcheck⟩ := failsAt_eq_some hfails
  refine ⟨ha, hcheck, fun u hu c w hc => ?_⟩
  have fails : failsAt f c u ≠ none := by simp [failsAt_some hc]
  rcases Nat.lt_or_ge c 4 with hlt | hge
  · have some_fails : l.findSome? (failsAt f c) ≠ none := fun hnone => fails (List.findSome?_eq_none_iff.mp hnone u hu)
    rcases Nat.lt_or_eq_of_le (hleast c (List.mem_range.mpr hlt) some_fails) with hchk | hchk
    · exact .inl hchk
    · exact .inr ⟨hchk, hlow u hu (hchk ▸ fails)⟩
  · exact .inl (Nat.lt_of_lt_of_le (List.mem_range.mp hn) hge)

theorem State.issues_acting_rising {sh : Shape} (h : o.issues i sh x s) : x.acting.Pairwise (· < ·) := by
  obtain ⟨-, -, -, -, -, -, -, -, -, -, -, -, -, hx⟩ := State.issuing_some h.1.1
  have path : x.path = x.grp.pathAt x.pc := congrArg Iss.path hx
  rw [Iss.acting, path]
  exact ((List.pairwise_lt_range.filter _).filter _).filter _

theorem State.issues_acting_lt {sh : Shape} (h : o.issues i sh x s) (hth : th ∈ x.acting) : th < 32 := by
  have alive := ((State.issues_mem_path h).mp (Iss.path_of_acting hth)).1
  exact List.mem_range.mp (List.mem_filter.mp alive).1

/-! ### The fault -/

theorem memCode_lt (n : Nat) : memCode n < 2 ^ 16 := by
  unfold memCode
  split <;> decide

theorem FaultEnds.reg {c b : Nat} {k : Block} {gidx code : Nat} {extra : List (Nat × Nat)}
    (h : FaultEnds c b k gidx code extra s t) (blk : Blk) (n : Nat) : t.reg blk n = s.reg blk n := by
  rw [h.rest]
  rfl

theorem Iss.At.memFault_faulted (h : x.At s) (th chk why : Nat) :
    Faulted x (memCode chk) [(101, th), (106, why), (109, x.opc), (117, 0)] s (x.memFault s (th, chk, why)) :=
  h.faulted_captured th (memCode chk) (x.addr th) _ _

/-- The core keeps the thread, the code and the address of the fault where it held no capture (R233). -/
theorem Iss.At.memFault_captures (h : x.At s) (hth : th < 32) (chk why : Nat)
    (hfree : s.reg (.core x.core 7) 4 / 2 ^ 31 = 0) :
    (x.memFault s (th, chk, why)).reg (.core x.core 7) 4 = 2 ^ 31 + th * 2 ^ 16 + memCode chk ∧
      (x.memFault s (th, chk, why)).reg64 (.core x.core 7) 8 = (x.addr th).toNat := by
  have code := memCode_lt chk
  have block : (s.captureFault x.core th (memCode chk) (x.addr th)).block x.core x.bslot = some x.blk := by
    rw [State.captureFault_rest]
    exact h.block
  have ends := State.progFault_ends block x.grp.gidx (memCode chk) [(101, th), (106, why), (109, x.opc), (117, 0)]
  have captured := State.captureFault_captures (th := th) (code := memCode chk) hfree (by omega) (x.addr th)
  exact ⟨(ends.reg ..).trans captured.1, (congrArg₂ (fun a b => a + 2 ^ 32 * b) (ends.reg ..) (ends.reg ..)).trans captured.2⟩

/-! ### The instructions that are refused -/

theorem Iss.memFree_iff {w : Bool} : x.memFree s w = true ↔ x.drainHeld s = false ∧ (x.isSpad && x.spadHeld s w) = false := by
  simp only [Iss.memFree, Bool.and_eq_true, Bool.not_eq_true']

/-- What holds a scratchpad read holds a scratchpad write. -/
theorem Iss.spadHeld_read (h : (x.isSpad && x.spadHeld s true) = false) : (x.isSpad && x.spadHeld s false) = false := by
  cases hs : x.isSpad
  · rfl
  · simp_all [Iss.spadHeld]

theorem Iss.load_refused {f : Nat × Nat × Nat} {acq : Bool} (hfree : x.memFree s true = true)
    (hmoves : x.mgmtMoves s = false)
    (hcheck : x.memChecks s (if acq then .other else .plain) x.acting = some f) : x.load s acq = .next (x.memFault s f) := by
  obtain ⟨hdrain, hspad⟩ := Iss.memFree_iff.mp hfree
  simp only [Iss.load, hdrain, Iss.spadHeld_read hspad, hmoves, hcheck]
  rfl

/-- A row of which an access that fails a check is refused when nothing holds it. -/
def MemRefuses (r : (Issue → Instr) × Shape × AccKind) : Prop :=
  ∀ (i : Issue) (o s : State) (x : Iss) (f : Nat × Nat × Nat), o.issues i r.2.1 x s → x.memFree s true = true →
    x.mgmtMoves s = false → s.groupBusy x.core x.gslot = false → x.memChecks s r.2.2 x.acting = some f →
    exec (r.1 i) o = .next (x.memFault s f)

theorem ld_refuses : MemRefuses (.ld, loadShape 0 false, .plain) := by
  intro i o s x f h hfree hmoves _ hcheck
  rw [exec_ld, execLd, issueRow_of_issues h]
  exact Iss.load_refused hfree hmoves hcheck

theorem ldAcq_refuses : MemRefuses (.ldAcq, loadShape 2 true, .other) := by
  intro i o s x f h hfree hmoves _ hcheck
  rw [exec_ldAcq, execLdAcq, issueRow_of_issues h]
  exact Iss.load_refused hfree hmoves hcheck

theorem st_refuses : MemRefuses (.st, storeShape 1 false, .plain) := by
  intro i o s x f h hfree _ _ hcheck
  obtain ⟨hdrain, hspad⟩ := Iss.memFree_iff.mp hfree
  rw [exec_st, execSt, issueRow_of_issues h]
  simp only [hdrain, hspad, hcheck]
  rfl

theorem stRel_refuses : MemRefuses (.stRel, storeShape 3 true, .other) := by
  intro i o s x f h hfree _ hidle hcheck
  obtain ⟨hdrain, hspad⟩ := Iss.memFree_iff.mp hfree
  rw [exec_stRel, execStRel, issueRow_of_issues h]
  simp only [hdrain, hspad, hidle, hcheck]
  rfl

theorem atom_refuses : MemRefuses (.atom, shAtom, .atom) := by
  intro i o s x f h hfree _ _ hcheck
  obtain ⟨hdrain, -⟩ := Iss.memFree_iff.mp hfree
  rw [exec_atom, execAtom, issueRow_of_issues h]
  simp only [hdrain, hcheck]
  rfl

/-- Settles O37: each row checks its accesses before it has an effect, the first failing check is the record's, and the capture
precedes the fault. -/
theorem memoryChecksFault : Obligations.MemoryChecksFault := by
  intro r hr i o s x th chk why h hfree hmoves hidle hcheck
  have hat := State.issues_at h
  have least := firstFault_least (State.issues_acting_rising h) hcheck
  have refuses : MemRefuses r := by
    simp only [List.mem_cons, List.not_mem_nil, or_false] at hr
    rcases hr with rfl | rfl | rfl | rfl | rfl
    · exact ld_refuses
    · exact ldAcq_refuses
    · exact st_refuses
    · exact stRel_refuses
    · exact atom_refuses
  exact ⟨least, x.memFault s (th, chk, why), refuses i o s x _ h hfree hmoves hidle hcheck,
    hat.memFault_faulted th chk why, hat.memFault_captures (State.issues_acting_lt h least.1) chk why⟩

end Sys2Proof.Machine
end

section
/-! ## Events of groups and blocks: cluster start, the guard, watchdogs, release (R40, R44, R52, R57) -/
namespace Sys2Proof.Machine

variable {s t u : State} {c slot d n : Nat} {b k : Block}

/-! ### CLUSTER_START (R44) -/

theorem State.block_updBlock_any (s : State) (c slot : Nat) (f : Block → Block) (d n : Nat) :
    (s.updBlock c slot f).block d n = if d = c ∧ n = slot then (s.block d n).map f else s.block d n := by
  by_cases hd : d = c
  · subst hd
    simp [State.block_updBlock, -State.updBlock_eq]
  · simp only [hd, false_and, if_false]
    exact congrArg (fun q : Core => q.blocks.find n) (State.core_setCore_other s _ hd)

theorem State.group_updBlock_any (s : State) (c slot : Nat) (f : Block → Block) (d n : Nat) :
    (s.updBlock c slot f).group d n = s.group d n := by
  by_cases hd : d = c
  · subst hd
    exact State.group_updBlock ..
  · exact congrArg (fun q : Core => q.groups.find n) (State.core_setCore_other s _ hd)

/-- The blocks of a list take a change that a second one would not add to. -/
theorem State.block_foldl_updBlock {f : Block → Block} (hf : ∀ k, f (f k) = f k) (ms : List (Nat × Nat)) (s : State)
    (d n : Nat) : (ms.foldl (fun s m => s.updBlock m.1 m.2 f) s).block d n =
      if (d, n) ∈ ms then (s.block d n).map f else s.block d n := by
  induction ms generalizing s with
  | nil => simp
  | cons m ms ih =>
    rw [List.foldl_cons, ih, State.block_updBlock_any]
    by_cases hm : (d, n) = m
    · subst hm
      cases s.block d n <;> simp [hf]
    · have other : ¬ (d = m.1 ∧ n = m.2) := fun h => hm (Prod.ext h.1 h.2)
      simp only [other, if_false, List.mem_cons, hm, false_or]

theorem State.foldl_updBlock_rest (f : Block → Block) (ms : List (Nat × Nat)) (s : State) :
    ms.foldl (fun s m => s.updBlock m.1 m.2 f) s =
        { s with cores := (ms.foldl (fun s m => s.updBlock m.1 m.2 f) s).cores } ∧
      ∀ d n, (ms.foldl (fun s m => s.updBlock m.1 m.2 f) s).group d n = s.group d n := by
  induction ms generalizing s with
  | nil => exact ⟨rfl, fun _ _ => rfl⟩
  | cons m ms ih =>
    obtain ⟨hrest, hgroups⟩ := ih (s.updBlock m.1 m.2 f)
    exact ⟨hrest, fun d n => (hgroups d n).trans (State.group_updBlock_any ..)⟩

theorem State.allBlocks_of {ms : List (Nat × Nat)} {f : Nat → Nat → Block → Bool}
    (h : ∀ m, m ∈ ms → ∃ k, s.block m.1 m.2 = some k ∧ f m.1 m.2 k = true) : s.allBlocks ms f = true := by
  refine List.all_eq_true.mpr fun m hm => ?_
  obtain ⟨k, hk, hf⟩ := h m hm
  simp only [hk, hf]

theorem clusterStart_completes (hc : c < 1280) (hb : s.block c slot = some b) (hst : b.st = .admitted)
    (hall : (s.mates c slot).length = b.desc.csize)
    (hready : ∀ m, m ∈ s.liveMates c slot → ∃ k, s.block m.1 m.2 = some k ∧ k.st = .admitted ∧ k.stopped = false) :
    Does (.clusterStart c slot) s fun t =>
      (∀ m, m ∈ s.liveMates c slot → ∀ k, s.block m.1 m.2 = some k → t.block m.1 m.2 = some { k with st := .running }) ∧
      (∀ m, m ∉ s.liveMates c slot → t.block m.1 m.2 = s.block m.1 m.2) ∧
      (∀ k n, t.group k n = s.group k n) ∧ t = { s with cores := t.cores } := by
  have ready : s.allBlocks (s.liveMates c slot) (fun _ _ k => k.st == .admitted && !k.stopped) = true :=
    State.allBlocks_of fun m hm => by
      obtain ⟨k, hk, hadm, hgo⟩ := hready m hm
      exact ⟨k, hk, by simp [hadm, hgo]⟩
  have blocks := State.block_foldl_updBlock (f := fun k => { k with st := .running }) (fun _ => rfl) (s.liveMates c slot) s
  obtain ⟨rest, groups⟩ := State.foldl_updBlock_rest (fun k => { k with st := .running }) (s.liveMates c slot) s
  refine ⟨_, ?_, fun m hm k hk => ?_, fun m hm => ?_, groups, rest⟩
  · simp only [exec_clusterStart, execClusterStart, needUnit_lt hc, hb, needSome_some, hst, hall, ready, beq_self_eq_true,
      need_true]
  · rw [blocks, if_pos hm, hk]
    rfl
  · rw [blocks, if_neg hm]

/-! ### STARVATION_GUARD (R52) -/

/-- The better of the best path so far and the next: the one that has waited longer, at the lower address of two. -/
def longer (best : Option (DWord × Nat)) (w : DWord × Nat) : Option (DWord × Nat) :=
  match best with
  | none => some w
  | some b => if b.2 < w.2 ∨ (b.2 = w.2 ∧ w.1.toNat < b.1.toNat) then some w else some b

/-- The paths among which the guard chooses. -/
def Group.guarded (g : Group) : List (DWord × Nat) :=
  g.waited.filter fun w => g.eligible.contains w.1 && w.1 != g.lastPc

theorem Group.longest_eq (g : Group) : g.longest = (g.guarded.foldl longer none).map (·.1) := rfl

theorem Group.mem_guarded {g : Group} {e : DWord × Nat} :
    e ∈ g.guarded ↔ e ∈ g.waited ∧ e.1 ∈ g.eligible ∧ e.1 ≠ g.lastPc := by
  simp [Group.guarded]

/-- The best of a list beside one to begin with is one of them, and none of them has waited longer. -/
theorem foldl_longer (l : List (DWord × Nat)) (b : DWord × Nat) : ∃ r, l.foldl longer (some b) = some r ∧
    (r = b ∨ r ∈ l) ∧ b.2 ≤ r.2 ∧ ∀ e, e ∈ l → e.2 ≤ r.2 := by
  induction l generalizing b with
  | nil => exact ⟨b, rfl, .inl rfl, Nat.le_refl _, nofun⟩
  | cons w l ih =>
    obtain ⟨a, ha, hb, hw, hmem⟩ : ∃ a, longer (some b) w = some a ∧ b.2 ≤ a.2 ∧ w.2 ≤ a.2 ∧ (a = b ∨ a = w) := by
      unfold longer
      dsimp only
      split
      · exact ⟨w, rfl, by omega, Nat.le_refl _, .inr rfl⟩
      · exact ⟨b, rfl, Nat.le_refl _, by omega, .inl rfl⟩
    obtain ⟨r, hr, hfrom, hge, hall⟩ := ih a
    refine ⟨r, by rw [List.foldl_cons, ha, hr], ?_, Nat.le_trans hb hge, ?_⟩
    · rcases hfrom with rfl | hrl
      · rcases hmem with rfl | rfl
        · exact .inl rfl
        · exact .inr List.mem_cons_self
      · exact .inr (List.mem_cons_of_mem _ hrl)
    · intro e he
      rcases List.mem_cons.mp he with rfl | he
      · exact Nat.le_trans hw hge
      · exact hall e he

theorem foldl_longer_none {l : List (DWord × Nat)} (h : l ≠ []) :
    ∃ r, l.foldl longer none = some r ∧ r ∈ l ∧ ∀ e, e ∈ l → e.2 ≤ r.2 := by
  cases l with
  | nil => exact absurd rfl h
  | cons w l =>
    obtain ⟨r, hr, hfrom, hge, hall⟩ := foldl_longer l w
    refine ⟨r, hr, ?_, ?_⟩
    · rcases hfrom with rfl | hrl
      · exact List.mem_cons_self
      · exact List.mem_cons_of_mem _ hrl
    · intro e he
      rcases List.mem_cons.mp he with rfl | he
      · exact hge
      · exact hall e he

theorem Group.longest_some {g : Group} {p : DWord} (h : g.longest = some p) :
    ∃ w, (p, w) ∈ g.guarded ∧ ∀ e, e ∈ g.guarded → e.2 ≤ w := by
  rw [Group.longest_eq] at h
  by_cases hnone : g.guarded = []
  · simp [hnone] at h
  · obtain ⟨r, hr, hmem, hall⟩ := foldl_longer_none hnone
    rw [hr] at h
    obtain rfl := Option.some.inj h
    exact ⟨r.2, hmem, hall⟩

theorem Group.longest_isSome {g : Group} {e : DWord × Nat} (h : e ∈ g.guarded) : g.longest.isSome = true := by
  obtain ⟨r, hr, -, -⟩ := foldl_longer_none (List.ne_nil_of_mem h)
  rw [Group.longest_eq, hr]
  rfl

/-- The group with the path that the guard chose. -/
def Group.guard (g : Group) : Group := { g with forced := g.longest, consec := 0 }

/-- The chosen path issues next. -/
theorem Group.issuePc_guard {g : Group} {p : DWord} (h : g.longest = some p) (hp : p ∈ g.eligible) :
    g.guard.issuePc = some p := by
  have chosen : g.guard.forced = some p := h
  have elig : g.guard.eligible.contains p = true := List.contains_iff_mem.mpr hp
  simp only [Group.issuePc, chosen, elig, if_true]

theorem starvationGuard_completes {g : Group} (hc : c < 1280) (hg : s.group c n = some g) (hdue : g.guardDue = true) :
    Does (.starvationGuard c n) s fun t => ∃ g', t.group c n = some g' ∧ g' = { g with forced := g'.forced, consec := 0 } ∧
      (∀ p, g'.forced = some p → g'.issuePc = some p ∧ p ∈ g.eligible ∧ p ≠ g.lastPc ∧ ∃ w, (p, w) ∈ g.waited ∧
        ∀ e, e ∈ g.waited → e.1 ∈ g.eligible → e.1 ≠ g.lastPc → e.2 ≤ w) ∧
      ((∃ e, e ∈ g.waited ∧ e.1 ∈ g.eligible ∧ e.1 ≠ g.lastPc) → g'.forced.isSome = true) ∧
      t = { s with cores := t.cores } ∧ (∀ k, k ≠ c → t.core k = s.core k) := by
  refine ⟨s.setGroup c n g.guard, ?_, g.guard, ?_, rfl, fun p hp => ?_, fun h => ?_, rfl,
    fun k hk => State.core_setCore_other s _ hk⟩
  · simp only [exec_starvationGuard, execStarvationGuard, needUnit_lt hc, hg, needSome_some, hdue, need_true]
    rfl
  · rw [State.group_setGroup, if_pos rfl]
  · obtain ⟨w, hw, hall⟩ := Group.longest_some hp
    obtain ⟨hwaited, helig, hlast⟩ := Group.mem_guarded.mp hw
    exact ⟨Group.issuePc_guard hp helig, helig, hlast, w, hwaited,
      fun e he hel hne => hall e (Group.mem_guarded.mpr ⟨he, hel, hne⟩)⟩
  · obtain ⟨e, he⟩ := h
    exact Group.longest_isSome (Group.mem_guarded.mpr he)

/-! ### BARRIER_TIMEOUT (R57, R59, R60) -/

/-- The watchdog of a key that has reached its limit, in a block that runs. -/
def Block.expired (b : Block) (key : WdKey) : Option Wd :=
  if b.st == .running then b.wds.find? fun w => w.key == key && b.wdLimit ≤ w.count else none

/-- What a timeout's record says of its barrier (R60). -/
def barrierFields : WdKey → List (Nat × Nat)
  | .barG _ id => [(101, id)]
  | .barB _ id => [(101, id), (105, 1)]
  | .wbeat _ _ _ => []

/-- The block slot of a core whose block's watchdog of a key has reached its limit, with the watchdog. -/
def Core.timedOut (q : Core) (key : WdKey) : Option (Nat × Wd) :=
  q.blocks.findSome? fun e => (e.2.expired key).map fun w => (e.1, w)

theorem exec_barrierTimeout_of_timedOut {w : Wd} {key : WdKey} (hc : c < 1280)
    (h : (s.core c).timedOut key = some (slot, w)) : exec (.barrierTimeout c key) s =
      .next (s.progFault c slot ((s.group c w.grp).elim 0 (·.gidx)) 0x0302 (barrierFields key)) := by
  have hit : ((s.core c).blocks.findSome? fun e => if e.2.st == .running then
      (e.2.wds.find? fun v => v.key == key && e.2.wdLimit ≤ v.count).map fun v => (e.1, v) else none) =
      some (slot, w) := by
    rw [← h, Core.timedOut]
    refine congrArg (fun f => List.findSome? f (s.core c).blocks) (funext fun e => ?_)
    unfold Block.expired
    split <;> rfl
  simp only [exec_barrierTimeout, execBarrierTimeout, needUnit_lt hc, hit, needSome_some]
  cases s.group c w.grp <;> cases key <;> rfl

/-- The only watchdog of its key is the one found. -/
theorem Core.timedOut_of_only {q : Core} {w : Wd} (hmem : (slot, b) ∈ q.blocks) (hst : b.st = .running) (hw : w ∈ b.wds)
    (hlimit : b.wdLimit ≤ w.count)
    (honly : ∀ e, e ∈ q.blocks → ∀ v, v ∈ e.2.wds → v.key = w.key → e = (slot, b) ∧ v = w) :
    q.timedOut w.key = some (slot, w) := by
  have found : ∀ e, e ∈ q.blocks → ∀ v, e.2.expired w.key = some v → e = (slot, b) ∧ v = w := by
    intro e he v hv
    unfold Block.expired at hv
    split at hv
    · have key := List.find?_some hv
      simp only [Bool.and_eq_true, beq_iff_eq] at key
      exact honly e he v (List.mem_of_find?_eq_some hv) key.1
    · cases hv
  have expires : b.expired w.key = some w := by
    cases hv : b.expired w.key with
    | none =>
      simp only [Block.expired, hst, beq_self_eq_true, if_true] at hv
      have := List.find?_eq_none.mp hv w hw
      simp [hlimit] at this
    | some v => rw [(found (slot, b) hmem v hv).2]
  cases hfind : q.timedOut w.key with
  | none =>
    have := List.findSome?_eq_none_iff.mp hfind (slot, b) hmem
    simp [expires] at this
  | some r =>
    obtain ⟨e, he, hr⟩ := List.exists_of_findSome?_eq_some hfind
    obtain ⟨v, hv, rfl⟩ := Option.map_eq_some_iff.mp hr
    obtain ⟨rfl, rfl⟩ := found e he v hv
    rfl

theorem barrierTimeout_completes {w : Wd} (hc : c < 1280) (hmem : (slot, b) ∈ (s.core c).blocks)
    (hb : s.block c slot = some b) (hst : b.st = .running) (hw : w ∈ b.wds) (hlimit : b.wdLimit ≤ w.count)
    (honly : ∀ e, e ∈ (s.core c).blocks → ∀ v, v ∈ e.2.wds → v.key = w.key → e = (slot, b) ∧ v = w) :
    Does (.barrierTimeout c w.key) s fun t =>
      (∃ b', t.block c slot = some b' ∧ b'.st = .stopping ∧ b'.wset = [] ∧ b'.log = b.log) ∧
      t.log.flight = s.log.flight ++ [⟨s.time.tsc, s.source b.desc.home, 0x0302, 0, b.desc.part, false, false,
        payload (b.faultFields ((s.group c w.grp).elim 0 (·.gidx)) ++ barrierFields w.key)⟩] ∧
      (t.part b.desc.part).grants = (s.part b.desc.part).grants.map (fun k =>
        if k.uid = b.desc.uid ∧ k.fault = none then { k with fault := some 0x0302 } else k) ∧
      (∀ k, k ≠ c → t.core k = s.core k) ∧ t.mem = s.mem := by
  obtain ⟨block, record, grant, cores, rest⟩ :=
    State.progFault_ends hb ((s.group c w.grp).elim 0 (·.gidx)) 0x0302 (barrierFields w.key)
  refine ⟨_, exec_barrierTimeout_of_timedOut hc (Core.timedOut_of_only hmem hst hw hlimit honly),
    ⟨_, block, rfl, rfl, rfl⟩, record, grant, cores, ?_⟩
  rw [rest]

end Sys2Proof.Machine
end

section
/-! ## Blocks leave and enter a core: BLOCK_STOP_RELEASE and BLOCK_ADMISSION (R40 to R45, R235, R248) -/
namespace Sys2Proof.Machine

variable {s t u : State} {c d slot n p : Nat} {b k : Block}

/-! ### The directory entry and the high-water mark -/

/-- A directory entry is written in the stack that holds the core's region: of the state only memory units change. -/
theorem State.dirWritten_rest (s : State) (c slot : Nat) :
    s.dirWritten c slot = { s with mems := (s.dirWritten c slot).mems } := by
  unfold State.dirWritten State.regionWritten
  split <;> rfl

theorem State.core_dirWritten (s : State) (c slot d : Nat) : (s.dirWritten c slot).core d = s.core d := by
  rw [State.dirWritten_rest]
  rfl

/-- A block whose staged lines are held to an allowance that has changed. -/
def Block.rechecked (b : Block) (allow : Nat) : Block := if b.st == .running && !b.final then b.checkMark allow else b

theorem Block.rechecked_rest (b : Block) (allow : Nat) :
    b.rechecked allow = { b with trig := (b.rechecked allow).trig } := by
  unfold Block.rechecked Block.checkMark Block.trigger
  split
  · split
    · split <;> rfl
    · rfl
  · rfl

theorem State.block_recheck (s : State) (c n : Nat) :
    (s.recheck c).block c n = (s.block c n).map fun b => b.rechecked (s.core c).allowance := by
  simp only [State.recheck, State.updCore_eq, State.block, State.core_setCore, Tab.find_mapAll]
  rfl

theorem State.group_recheck (s : State) (c n : Nat) : (s.recheck c).group c n = s.group c n := by
  simp only [State.recheck, State.updCore_eq, State.group, State.core_setCore]

theorem State.core_recheck_other (s : State) (h : d ≠ c) : (s.recheck c).core d = s.core d :=
  State.core_setCore_other s _ h

theorem State.recheck_rest (s : State) (c : Nat) : s.recheck c = { s with cores := (s.recheck c).cores } := rfl

/-! ### A block that frees what it holds (R40, R248) -/

theorem Tab.find_filter_key {α : Type} (t : Tab α) (f : Nat → Bool) (n : Nat) :
    Tab.find (t.filter fun e => f e.1) n = if f n then t.find n else none := by
  induction t with
  | nil => simp
  | cons e t ih =>
    obtain ⟨m, v⟩ := e
    by_cases hm : m = n
    · subst hm
      by_cases hf : f m
      · simp [hf, Tab.find]
      · simpa [hf] using ih
    · by_cases hf : f m
      · simpa [hf, Tab.find, hm] using ih
      · simpa [hf, Tab.find, hm] using ih

/-- The group slots of the block in a slot. -/
def State.slotsOf (s : State) (c slot : Nat) : Option (List Nat) := (s.block c slot).map (·.gslots)

theorem State.slotsOf_eq_none : s.slotsOf c slot = none ↔ s.block c slot = none := Option.map_eq_none_iff

theorem State.slotsOf_recheck (s : State) (c n : Nat) : (s.recheck c).slotsOf c n = s.slotsOf c n := by
  unfold State.slotsOf
  rw [State.block_recheck, Option.map_map]
  refine congrArg (fun f => (s.block c n).map f) (funext fun k => ?_)
  show (k.rechecked _).gslots = k.gslots
  rw [Block.rechecked_rest]

theorem State.slotsOf_freeBlock (hb : s.block c slot = some b) (n : Nat) :
    (s.freeBlock c slot).slotsOf c n = if n = slot then none else s.slotsOf c n := by
  simp only [State.freeBlock, hb]
  rw [State.slotsOf_recheck]
  unfold State.slotsOf State.block
  rw [State.core_dirWritten, State.updCore_eq, State.core_setCore]
  by_cases hn : n = slot
  · rw [if_pos hn, hn, Tab.find_del_same]
    rfl
  · rw [if_neg hn, Tab.find_del_other _ hn]

theorem State.group_freeBlock (hb : s.block c slot = some b) (n : Nat) :
    (s.freeBlock c slot).group c n = if n ∈ b.gslots then none else s.group c n := by
  simp only [State.freeBlock, hb]
  rw [State.group_recheck]
  unfold State.group
  rw [State.core_dirWritten, State.updCore_eq, State.core_setCore]
  refine (Tab.find_filter_key _ (fun g => !b.gslots.contains g) n).trans ?_
  by_cases hn : n ∈ b.gslots <;> simp [hn]

theorem State.core_freeBlock_other (s : State) (slot : Nat) (h : d ≠ c) : (s.freeBlock c slot).core d = s.core d := by
  unfold State.freeBlock
  split
  · rfl
  · rw [State.core_recheck_other _ h, State.core_dirWritten]
    exact State.core_setCore_other s _ h

theorem State.freeBlock_rest (s : State) (c slot : Nat) :
    s.freeBlock c slot = { s with cores := (s.freeBlock c slot).cores, mems := (s.freeBlock c slot).mems } := by
  unfold State.freeBlock
  split
  · rfl
  · rw [State.recheck_rest, State.dirWritten_rest]
    rfl

/-! ### BLOCK_STOP_RELEASE (R40) -/

/-- A member of a cluster leaves its grant and frees what it holds. -/
def State.freeMate (s : State) (m : Nat × Nat) : State :=
  match s.block m.1 m.2 with
  | some k => (s.leaveGrant k).freeBlock m.1 m.2
  | none => s

theorem State.freeMate_of_block {m : Nat × Nat} (h : s.block m.1 m.2 = some k) :
    s.freeMate m = (s.leaveGrant k).freeBlock m.1 m.2 := by simp only [State.freeMate, h]

theorem State.freeMate_of_none {m : Nat × Nat} (h : s.block m.1 m.2 = none) : s.freeMate m = s := by
  simp only [State.freeMate, h]

theorem State.freeMate_rest (s : State) (m : Nat × Nat) :
    s.freeMate m = { s with cores := (s.freeMate m).cores, parts := (s.freeMate m).parts, mems := (s.freeMate m).mems } := by
  cases hm : s.block m.1 m.2 with
  | none => rw [State.freeMate_of_none hm]
  | some k =>
    rw [State.freeMate_of_block hm, State.freeBlock_rest]
    rfl

theorem State.core_freeMate_other (s : State) {m : Nat × Nat} (h : d ≠ m.1) : (s.freeMate m).core d = s.core d := by
  cases hm : s.block m.1 m.2 with
  | none => rw [State.freeMate_of_none hm]
  | some k =>
    rw [State.freeMate_of_block hm, State.core_freeBlock_other _ _ h]
    rfl

theorem State.slotsOf_freeMate (s : State) (m a : Nat × Nat) :
    (s.freeMate m).slotsOf a.1 a.2 = if a = m then none else s.slotsOf a.1 a.2 := by
  cases hm : s.block m.1 m.2 with
  | none =>
    rw [State.freeMate_of_none hm]
    split
    · rename_i ham
      rw [ham, State.slotsOf, hm]
      rfl
    · rfl
  | some k =>
    by_cases hd : a.1 = m.1
    · have left : (s.leaveGrant k).block m.1 m.2 = some k := hm
      have same : a = m ↔ a.2 = m.2 := ⟨congrArg Prod.snd, fun h => Prod.ext hd h⟩
      rw [State.freeMate_of_block hm, hd, State.slotsOf_freeBlock left]
      simp only [same]
      rfl
    · rw [if_neg fun h => hd (congrArg Prod.fst h), State.slotsOf, State.block, State.core_freeMate_other s hd]
      rfl

/-- A step leaves no group in the slots that the freed block held, and brings none elsewhere. -/
theorem State.group_freeMate (s : State) (m : Nat × Nat) (d n : Nat) : (s.freeMate m).group d n = none ∨
    (s.freeMate m).group d n = s.group d n ∧ ∀ gs, s.slotsOf m.1 m.2 = some gs → d = m.1 → n ∉ gs := by
  cases hm : s.block m.1 m.2 with
  | none =>
    rw [State.freeMate_of_none hm]
    refine .inr ⟨rfl, fun gs hgs => ?_⟩
    rw [State.slotsOf, hm] at hgs
    cases hgs
  | some k =>
    by_cases hd : d = m.1
    · have left : (s.leaveGrant k).block m.1 m.2 = some k := hm
      subst hd
      rw [State.freeMate_of_block hm, State.group_freeBlock left]
      split
      · exact .inl rfl
      · rename_i hn
        refine .inr ⟨rfl, fun gs hgs _ => ?_⟩
        rw [State.slotsOf, hm] at hgs
        obtain rfl := Option.some.inj hgs
        exact hn
    · exact .inr ⟨congrArg (fun q : Core => q.groups.find n) (State.core_freeMate_other s hd), fun _ _ h => absurd h hd⟩

/-- The members of a list of blocks free what they hold. -/
structure MatesFreed (ms : List (Nat × Nat)) (s t : State) : Prop where
  rest : t = { s with cores := t.cores, parts := t.parts, mems := t.mems }
  cores : ∀ d, (∀ m, m ∈ ms → m.1 ≠ d) → t.core d = s.core d
  slots : ∀ a : Nat × Nat, t.slotsOf a.1 a.2 = if a ∈ ms then none else s.slotsOf a.1 a.2
  kept : ∀ d n, s.group d n = none → t.group d n = none
  groups : ∀ m, m ∈ ms → ∀ gs, s.slotsOf m.1 m.2 = some gs → ∀ n, n ∈ gs → t.group m.1 n = none

theorem State.foldl_freeMate (ms : List (Nat × Nat)) (s : State) : MatesFreed ms s (ms.foldl State.freeMate s) := by
  induction ms generalizing s with
  | nil => exact ⟨rfl, fun _ _ => rfl, fun a => by simp, fun _ _ h => h, nofun⟩
  | cons m ms ih =>
    obtain ⟨rest, cores, slots, kept, groups⟩ := ih (s.freeMate m)
    have absent : ∀ d n, s.group d n = none → (s.freeMate m).group d n = none := fun d n h =>
      (s.group_freeMate m d n).elim id fun hsame => hsame.1.trans h
    rw [List.foldl_cons]
    refine ⟨?_, fun d hd => ?_, fun a => ?_, fun d n h => kept d n (absent d n h), fun a ha gs hgs n hn => ?_⟩
    · rw [rest, State.freeMate_rest]
    · rw [cores d fun a ha => hd a (List.mem_cons_of_mem _ ha)]
      exact State.core_freeMate_other s (hd m List.mem_cons_self).symm
    · rw [slots, State.slotsOf_freeMate]
      by_cases ham : a = m
      · simp [ham]
      · simp only [ham, if_false, List.mem_cons, false_or]
    · by_cases ham : a = m
      · subst ham
        refine kept _ _ ((s.group_freeMate a a.1 n).elim id fun hsame => absurd hn (hsame.2 gs hgs rfl))
      · refine groups a ((List.mem_cons.mp ha).resolve_left ham) gs ?_ n hn
        rw [State.slotsOf_freeMate, if_neg ham, hgs]

theorem blockStopRelease_completes (hc : c < 1280) (hb : s.block c slot = some b) (hst : b.st = .stopping)
    (hsettled : ∀ m, m ∈ s.mates c slot → ∃ k, s.block m.1 m.2 = some k ∧ k.settled = true) :
    Does (.blockStopRelease c slot) s fun t =>
      (∀ m, m ∈ s.mates c slot → t.block m.1 m.2 = none ∧ ∀ k, s.block m.1 m.2 = some k → ∀ n, n ∈ k.gslots →
        t.group m.1 n = none) ∧
      t = { s with cores := t.cores, parts := t.parts, mems := t.mems } ∧
      ∀ k, (∀ m, m ∈ s.mates c slot → m.1 ≠ k) → t.core k = s.core k := by
  have settled : s.allBlocks (s.mates c slot) (fun _ _ k => k.settled) = true := State.allBlocks_of hsettled
  obtain ⟨rest, cores, slots, -, groups⟩ := State.foldl_freeMate (s.mates c slot) s
  refine ⟨s.freeMates c slot, ?_, fun m hm => ⟨?_, fun k hk n hn => ?_⟩, rest, cores⟩
  · simp only [exec_blockStopRelease, execBlockStopRelease, needUnit_lt hc, hb, needSome_some, settled, need_true,
      hst, beq_self_eq_true]
    rfl
  · exact State.slotsOf_eq_none.mp ((slots m).trans (if_pos hm))
  · exact groups m hm k.gslots (by rw [State.slotsOf, hk]; rfl) n hn

/-- Settles O14: each event checks what it needs, and its own step is then the effect. -/
theorem groupEventsComplete : Obligations.GroupEventsComplete :=
  ⟨fun _ _ _ _ hc hb hst hall hready => clusterStart_completes hc hb hst hall hready,
    fun _ _ _ _ hc hg hdue => starvationGuard_completes hc hg hdue,
    fun _ _ _ _ _ hc hmem hb hst hw hlimit honly => barrierTimeout_completes hc hmem hb hst hw hlimit honly,
    fun _ _ _ _ hc hb hst hsettled => blockStopRelease_completes hc hb hst hsettled⟩

end Sys2Proof.Machine
end

section
/-! ### BLOCK_ADMISSION (R40 to R45) -/
namespace Sys2Proof.Machine

variable {s : State} {c p n i : Nat} {d : Desc} {g : Grant} {r : Room}

/-! #### What a block takes -/

theorem lowestFree_nodup (bound n : Nat) (used : List Nat) : (lowestFree bound n used).Nodup :=
  (List.nodup_range.filter _).sublist (List.take_sublist ..)

theorem Core.room_gslots_nodup {k : Core} (h : k.room d = some r) : r.gslots.Nodup := by
  unfold Core.room at h
  dsimp only at h
  split at h
  · split at h
    · obtain rfl := Option.some.inj h
      exact lowestFree_nodup ..
    · cases h
  · cases h

/-! #### The groups as they start (R45) -/

/-- Groups put one after the other into distinct slots: each is in its own, and the other slots are as before. -/
theorem State.group_foldl_freshGroup (bslot : Nat) {l : List (Nat × Nat)} (hl : (l.map (·.2)).Nodup) (s : State) :
    (∀ n, n ∉ l.map (·.2) →
      (l.foldl (fun s e => s.setGroup c e.2 (s.freshGroup d bslot e.1)) s).group c n = s.group c n) ∧
    ∀ e, e ∈ l → (l.foldl (fun s e => s.setGroup c e.2 (s.freshGroup d bslot e.1)) s).group c e.2 =
      some (s.freshGroup d bslot e.1) := by
  induction l generalizing s with
  | nil => exact ⟨fun _ _ => rfl, nofun⟩
  | cons a l ih =>
    obtain ⟨hal, hl⟩ := List.nodup_cons.mp hl
    obtain ⟨others, mine⟩ := ih hl (s.setGroup c a.2 (s.freshGroup d bslot a.1))
    rw [List.foldl_cons]
    refine ⟨fun n hn => ?_, fun e he => ?_⟩
    · obtain ⟨hna, hnl⟩ := not_or.mp fun h => hn (List.mem_cons.mpr h)
      rw [others n hnl, State.group_setGroup, if_neg hna]
    · rcases List.mem_cons.mp he with rfl | he
      · rw [others e.2 hal, State.group_setGroup, if_pos rfl]
      · exact mine e he

/-- Putting groups changes the groups of their core alone. -/
theorem State.putGroups_rest (s : State) (c bslot : Nat) (d : Desc) (gs : List Nat) :
    s.putGroups c bslot d gs = { s with cores := (s.putGroups c bslot d gs).cores } ∧
      (∀ k, k ≠ c → (s.putGroups c bslot d gs).core k = s.core k) ∧
      ∀ b, (s.putGroups c bslot d gs).block c b = s.block c b := by
  unfold State.putGroups
  generalize (List.range gs.length).zip gs = l
  induction l generalizing s with
  | nil => exact ⟨rfl, fun _ _ => rfl, fun _ => rfl⟩
  | cons a l ih =>
    obtain ⟨rest, cores, blocks⟩ := ih (s.setGroup c a.2 (s.freshGroup d bslot a.1))
    exact ⟨rest, fun k hk => (cores k hk).trans (State.core_setCore_other s _ hk),
      fun b => (blocks b).trans (State.block_setGroup ..)⟩

theorem State.group_putGroups {gs : List Nat} (hgs : gs.Nodup) (hn : gs[i]? = some n) (s : State) (c bslot : Nat) (d : Desc) :
    (s.putGroups c bslot d gs).group c n = some (s.freshGroup d bslot i) := by
  have slots : ((List.range gs.length).zip gs).map (·.2) = gs := List.map_snd_zip (by simp)
  have mem : (i, n) ∈ (List.range gs.length).zip gs := by
    refine List.mem_of_getElem? (i := i) (List.getElem?_zip_eq_some.mpr ⟨?_, hn⟩)
    rw [List.getElem?_range (List.getElem?_eq_some_iff.mp hn).1]
  exact (State.group_foldl_freshGroup bslot (by rwa [slots]) s).2 (i, n) mem

/-- A word of five fields, each at its own bit. -/
theorem word_fields (v a b c d h i j k : Nat) : word [(0, v), (h, a), (i, b), (j, c), (k, d)] =
    v + a * 2 ^ h + b * 2 ^ i + c * 2 ^ j + d * 2 ^ k := by
  unfold word
  rw [List.foldl_cons, List.foldl_cons, List.foldl_cons, List.foldl_cons, List.foldl_cons, List.foldl_nil, Nat.pow_zero,
    Nat.mul_one, Nat.zero_add]

theorem State.freshGroup_sreg (s : State) (d : Desc) (bslot i : Nat) :
    (s.freshGroup d bslot i).sreg 0 = BitVec.ofNat 64 (d.x + d.y * 2 ^ 32 + d.z * 2 ^ 48) ∧
    (s.freshGroup d bslot i).sreg 1 = BitVec.ofNat 64 (d.grant.toNat + i * 2 ^ 32 + (d.groups - 1) * 2 ^ 37 +
      d.crank * 2 ^ 42 + (d.csize - 1) * 2 ^ 46) ∧
    (s.freshGroup d bslot i).sreg 2 = BitVec.ofNat 64 (s.source d.home) ∧ (s.freshGroup d bslot i).sreg 3 = d.argp ∧
    ∀ q, 4 ≤ q → (s.freshGroup d bslot i).sreg q = 0 := by
  refine ⟨rfl, ?_, rfl, rfl, fun q hq => ?_⟩
  · exact congrArg (BitVec.ofNat 64) (word_fields ..)
  · have far : ∀ m, m < 4 → m ≠ q := fun m hm => by omega
    simp [Group.sreg, State.freshGroup, Tab.get, Tab.find, far]

theorem State.freshGroup_thread (s : State) (d : Desc) (bslot i : Nat) {th : Nat} (hth : th < 32) :
    (s.freshGroup d bslot i).thread th = { Thread.fresh d.entry with g := [(0, BitVec.ofNat 32 (i * 32 + th))] } := by
  refine Group.thread_eq_of_getElem? ?_
  simp [State.freshGroup, hth]

/-- What R45 gives a group of a block as it starts. -/
theorem State.freshGroup_starts (s : State) (d : Desc) (bslot i : Nat) {th : Nat} (hth : th < 32) :
    ((s.freshGroup d bslot i).thread th).pc = d.entry ∧
      ((s.freshGroup d bslot i).thread th).reg 0 = BitVec.ofNat 32 (32 * i + th) ∧
      (∀ q, q ≠ 0 → ((s.freshGroup d bslot i).thread th).reg q = 0) ∧
      ((s.freshGroup d bslot i).thread th).preds = 1 ∧ ((s.freshGroup d bslot i).thread th).flags = 0 ∧
      ((s.freshGroup d bslot i).thread th).exited = false ∧ ((s.freshGroup d bslot i).thread th).wait = .none := by
  rw [State.freshGroup_thread s d bslot i hth, Nat.mul_comm 32 i]
  refine ⟨rfl, rfl, fun q hq => ?_, rfl, rfl, rfl, rfl⟩
  simp [Thread.reg, Tab.get, Tab.find, hq.symm]

/-! #### The admission -/

/-- The state with a block of a grant in the room that a core has for it. -/
def State.admitted (s : State) (p c : Nat) (g : Grant) (r : Room) : State :=
  ((((s.setBlock c r.slot ((g.desc p c).block r)).putGroups c r.slot (g.desc p c) r.gslots).dirWritten c r.slot).updGrant p
    g.uid fun g => { g with nextLin := g.nextLin + 1, live := g.live + 1 }).recheck c

theorem State.block_admitted : (s.admitted p c g r).block c r.slot =
    some (((g.desc p c).block r).rechecked
      ((((s.setBlock c r.slot ((g.desc p c).block r)).putGroups c r.slot (g.desc p c) r.gslots).dirWritten c
        r.slot).core c).allowance) := by
  have put : ((s.setBlock c r.slot ((g.desc p c).block r)).putGroups c r.slot (g.desc p c) r.gslots).block c r.slot =
      some ((g.desc p c).block r) := by
    rw [(State.putGroups_rest ..).2.2]
    simp [State.block]
  have written : (((s.setBlock c r.slot ((g.desc p c).block r)).putGroups c r.slot (g.desc p c) r.gslots).dirWritten c
      r.slot).block c r.slot = some ((g.desc p c).block r) := by
    rw [State.block, State.core_dirWritten]
    exact put
  rw [State.admitted, State.block_recheck]
  exact congrArg (Option.map _) written

theorem State.group_admitted (hroom : (s.core c).room (g.desc p c) = some r) (hn : r.gslots[i]? = some n) :
    (s.admitted p c g r).group c n = some (s.freshGroup (g.desc p c) r.slot i) := by
  rw [State.admitted, State.group_recheck]
  refine Eq.trans ?_ (State.group_putGroups (Core.room_gslots_nodup hroom) hn (s.setBlock c r.slot ((g.desc p c).block r)) c
    r.slot (g.desc p c))
  exact congrArg (fun q : Core => q.groups.find n) (State.core_dirWritten ..)

theorem State.grants_admitted : ((s.admitted p c g r).part p).grants = (s.part p).grants.map fun k =>
    if k.uid = g.uid then { k with nextLin := k.nextLin + 1, live := k.live + 1 } else k := by
  have before : (((s.setBlock c r.slot ((g.desc p c).block r)).putGroups c r.slot (g.desc p c) r.gslots).dirWritten c
      r.slot).part p = s.part p := by
    rw [State.dirWritten_rest, (State.putGroups_rest ..).1]
    rfl
  show (State.part (State.updGrant _ p g.uid _) p).grants = _
  rw [State.updGrant, State.updPart_eq, State.part_setPart, before]

theorem State.admitted_frame : (∀ k, k ≠ c → (s.admitted p c g r).core k = s.core k) ∧ s.admitted p c g r =
    { s with cores := (s.admitted p c g r).cores, parts := (s.admitted p c g r).parts, mems := (s.admitted p c g r).mems } := by
  obtain ⟨rest, cores, -⟩ := State.putGroups_rest (s.setBlock c r.slot ((g.desc p c).block r)) c r.slot (g.desc p c) r.gslots
  refine ⟨fun k hk => ?_, ?_⟩
  · rw [State.admitted, State.core_recheck_other _ hk]
    refine (State.core_dirWritten ..).trans ((cores k hk).trans ?_)
    exact State.core_setCore_other s _ hk
  · rw [State.admitted, State.recheck_rest, State.updGrant, State.dirWritten_rest, rest]
    rfl

theorem exec_blockAdmission_admits (hp : p < 8) (hc : c < 1280) (hg : (s.part p).nextGrant = some g)
    (hafter : (s.part p).afterHeld g = false) (hfits : s.qualifies (g.desc p c) c = true)
    (hfirst : (s.displacedOn (dieOfCore c)).all (fun b => !s.qualifies b.2.2.desc c) = true)
    (hgate : c ∉ s.cinch.gated ∨ ∀ k, k < 1280 → k ∉ s.cinch.gated → s.qualifies { g.desc p c with home := k } k = false)
    (hroom : (s.core c).room (g.desc p c) = some r) : exec (.blockAdmission p c) s = .next (s.admitted p c g r) := by
  have first : ((s.displacedOn (dieOfCore c)).any fun b => s.qualifies b.2.2.desc c) = false := by
    rw [List.any_eq_false]
    intro b hb
    simpa using List.all_eq_true.mp hfirst b hb
  have gate : (!s.cinch.gated.contains c || !(List.range 1280).any fun k => !s.cinch.gated.contains k &&
      s.qualifies { g.desc p c with home := k } k) = true := by
    rcases hgate with hungated | hnone
    · simp [hungated]
    · have none_fits : ((List.range 1280).any fun k => !s.cinch.gated.contains k &&
          s.qualifies { g.desc p c with home := k } k) = false := by
        rw [List.any_eq_false]
        intro k hk
        by_cases hgated : k ∈ s.cinch.gated
        · simp [hgated]
        · simp [hnone k (List.mem_range.mp hk) hgated]
      rw [none_fits]
      simp
  simp only [exec_blockAdmission, execBlockAdmission, needUnit_lt hp, needUnit_lt hc, hg, needSome_some, hafter, hfits,
    first, Bool.not_false, need_true, hroom]
  exact need_of gate

/-- Settles O13: the room's slots are distinct, so each group is in its own, and what follows of the admission keeps them. -/
theorem blockAdmissionStartsTheNextBlock : Obligations.BlockAdmissionStartsTheNextBlock := by
  intro p c g r s hp hc hg hafter hfits hfirst hgate hroom
  refine ⟨_, exec_blockAdmission_admits hp hc hg hafter hfits hfirst hgate hroom, ⟨_, State.block_admitted, ?_⟩,
    fun i n hn => ?_, State.grants_admitted, State.admitted_frame⟩
  · rw [Block.rechecked_rest]
    refine ⟨rfl, ?_, rfl, rfl, rfl, rfl, rfl, rfl, rfl⟩
    by_cases hone : g.launch.csize ≤ 1
    · rw [if_pos hone]
      exact if_neg (Nat.not_lt.mpr hone)
    · rw [if_neg hone]
      exact if_pos (Nat.lt_of_not_le hone)
  · obtain ⟨s0, s1, s2, s3, rest⟩ := State.freshGroup_sreg s (g.desc p c) r.slot i
    exact ⟨_, State.group_admitted hroom hn, rfl, rfl, rfl, s0, s1, s2, s3, rest,
      fun th hth => State.freshGroup_starts s (g.desc p c) r.slot i hth⟩

end Sys2Proof.Machine
end
